-- ==== Sys2Proof/Word.lean ====
section
/-! DEFINITION. The widths of the bit vectors the manual names: a byte of a store page or of a line, the 32-bit
time base and cycle counter, and the 16-bit generation of a store region. -/

namespace Sys2Proof

/-- One byte of a store page (R161), or one character on RXD or TXD (R178). -/
abbrev Byte := BitVec 8

/-- A captured time (00, Other quantities), the cycle counter (R34), a check field (R161). -/
abbrev Word32 := BitVec 32

/-- The generation of a store page or region (R161). -/
abbrev Gen := BitVec 16

/-- A moment or a duration in units of 0.5 µs, counted without wrapping. -/
abbrev Time := Nat

end Sys2Proof
end

