-- ==== Sys2Proof/Syntax.lean ====
section
/-! DEFINITION. The names that commands carry as operands, the fields of a line, and `Instr`: one constructor for each
row of the opcode table, in its order. An operand `dt` is the time, in units of 0.5 µs, that has passed since the
step before (log 1). A command that takes a handover or a timer expiry names the channel, unit or output it reaches
(log 2, 4). A request carries its fields (log 3). -/

namespace Sys2Proof

/-- The four logical phaser channels, numbered 1 to 4 in this order (00, Names). -/
inductive Chan
  | IN1 | EX1 | IN2 | EX2
deriving DecidableEq, Repr, Inhabited

/-- The two lift units (00, Names). -/
inductive LiftUnit
  | L1 | L2
deriving DecidableEq, Repr, Inhabited

/-- Cam inputs A to D and oil control valve drivers A to D (00, Names). -/
inductive LineABCD
  | A | B | C | D
deriving DecidableEq, Repr, Inhabited

/-- Lift solenoid drivers A and B and pin-sense inputs A and B (00, Names). -/
inductive LineAB
  | A | B
deriving DecidableEq, Repr, Inhabited

/-- The six outputs OCVA to OCVD, LSA and LSB (R110). -/
inductive Out
  | ocv (o : LineABCD) | ls (o : LineAB)
deriving DecidableEq, Repr, Inhabited

/-- Polarity of a cam edge (R2). -/
inductive Polarity
  | rise | fall
deriving DecidableEq, Repr, Inhabited

/-- The thirteen blocks (00, Block diagram). -/
inductive Block
  | clp | tbm | ckt | asc | ceu | phc | tga | vdr | lfs | fmg | trb | cst | smc
deriving DecidableEq, Repr, Inhabited

/-- A fault kind with its scope instance: the name of one of the 40 records (R139, R140). -/
inductive FaultId
  | syncSlip | crankNoise | camPattern (ch : Chan) | camMissing (ch : Chan) | phaserStuck (ch : Chan)
  | parkFail (ch : Chan) | driverShort (out : Out) | driverOpen (out : Out) | oilLow | hostStale
  | liftNoConfirm (u : LiftUnit) | liftPosition (u : LiftUnit) | liftMismatch | supplyLow | storeDamaged | traceMissed
deriving DecidableEq, Repr, Inhabited

/-- Whether load current was seen on each output during its on period in progress (R118): what the part finds on
its lines when all outputs are disabled together. -/
structure LoadSeen where
  ocvA : Bool
  ocvB : Bool
  ocvC : Bool
  ocvD : Bool
  lsA : Bool
  lsB : Bool
deriving DecidableEq, Repr, Inhabited

/-- The words the manual gives to fields of requests, replies and notices (R178), spelled as they stand here. -/
inductive Token
  | WHEEL | CYL | CAM | EDGE | BIND | LIFT | PWM | ORIGIN | ADV | RET | YES | NO | RISE | FALL | A | B | C
  | D | KP | KI | ILIM | HOLD0 | DMIN | DMAX | DEADBAND | SLEW | RELEASE_RPM | RELEASE_KPA | HOLD_KPA
  | RELEASE_DUTY | RELEASE_MS | PARK_TOL | PARK_MS | STEP | STUCK_CYCLES | MOVE_MIN | TRAVEL_MS | MARGIN_MS
  | CEILING_RPM | UP_RPM | UP_LOAD | DOWN_RPM | DOWN_LOAD | STALE_MS | HOLD_LIMIT_MS | CH | ROW | RPM | LOAD
  | DERATE | AVAIL | RUN | STANDBY | RESET | LOCK | CLRL | FLT | SYN | CHS | LFT | TRC | STO | MOD | RDY | ON
  | OFF | L | H | SYNC_SLIP | CRANK_NOISE | CAM_PATTERN | CAM_MISSING | PHASER_STUCK | PARK_FAIL
  | DRIVER_SHORT | DRIVER_OPEN | OIL_LOW | HOST_STALE | LIFT_NO_CONFIRM | LIFT_POSITION | LIFT_MISMATCH
  | SUPPLY_LOW | STORE_DAMAGED | TRACE_MISSED | OCVA | OCVB | OCVC | OCVD | LSA | LSB | FORCE | ALL | NONE
  | HOLD | PARK | OWN | LOW | IDENT | LAYOUT | TUNING | RESPONSE | MAP_IN1 | MAP_EX1 | MAP_IN2 | MAP_EX2 | OK
  | ACCEPTED | CHECK | LONG | UNKNOWN | FORMAT | RANGE | MODE | STATE | UNBOUND | BUSY | PROTECTED
  | NOT_ARMED | EMPTY | END | STOPPED | SEEKING | CRANK_LOCKED | CYCLE_LOCKED | INIT | POWER_ON | BROWNOUT
  | LINE | LINE_REQUEST | NORMAL | BELOW_PROGRAM | BELOW_DRIVE | LOADED | EDITED | BLANK | DEFAULT | UNUSED
  | PARKED | RELEASING | TRACKING | HOLDING | PARKING | DRIVE_TEST | FAULTED | LOCKOUT | CLAIM | SUPPLY
  | MEASURE | RELEASE | RELEASED | RESUME | SOURCE | LOST | OIL | LIMIT | SETTLED | TIMEOUT | TEST | TEST_END
  | ABANDON | DRIVER | DRIVER_CLEAR | DOUBLE | HOST | MAP | RAISE_WAIT | RAISING | HIGH | LOWER_WAIT
  | LOWERING | STUCK | CONFIRM | WITHDRAWN | NO_CONFIRM | CLEAR | INACTIVE | PENDING | ACTIVE | LATCHED
  | START | TEETH | HALF | COUNT | HALF_SLIP | STALL | SET | FREE | FILLING | READY | REQUEST | STRAY | SAVE
  | SWEEP | RUNNING | SUSPENDED | COMPLETE | ABORTED | CLEAN | DAMAGED | ABANDONED | VALID | INVALID | GOOD
  | ERASED | ASSERTED | PARTIAL | CHANNEL | REFERENCE | ORDER | OVERLAP | CONFLICT | INTAKE | LEAD | CAPACITY
  | CAMIN | OCV | LS | SENSE
deriving DecidableEq, Repr, Inhabited

/-- One field of a line (R178). `other` is a run of characters that is neither a decimal value, nor "-", nor one of
the manual's words; `hex` is the run of digits in a PAGE reply. -/
inductive Field
  | num (v : Int) | word (t : Token) | absent | other (codes : List Byte) | hex (bytes : List Byte)
deriving DecidableEq, Repr, Inhabited

/-- The keywords of the dispatch list (R180). -/
inductive Keyword
  | STAT | ARMS | NMSK | IDNT | MODE | RSET | LAYR | LAYW | TUNR | TUNW | OPPT | MAPR | MAPW | TEST | CLRL
  | RSPR | RSPW | FLTR | FLTC | TRCT | TRCR | TRCF | SAVE | SWEP | ABRT | PAGE | STST | LOCK
deriving DecidableEq, Repr, Inhabited

/-- The commands: one constructor for each row of the opcode table. -/
inductive Instr
  /-- POWER_ON (R173). -/
  | powerOn (dt volts : Nat)
  /-- SUPPLY_CROSSING (R172). -/
  | supplyCrossing (dt volts : Nat)
  /-- LINE_RESET (R173). -/
  | lineReset (dt : Nat)
  /-- LINE_REQUEST_RESET (R176). -/
  | lineRequestReset
  /-- RESET_RELEASE (R173). -/
  | resetRelease (dt : Nat)
  /-- SUPPLY_LOW_REPEAT (R172). -/
  | supplyLowRepeat
  /-- START_UP_TIMER_EXPIRY (R174). -/
  | startUpTimerExpiry
  /-- CRK_EDGE (R21). -/
  | crkEdge (dt hold : Nat)
  /-- STALL_TIMER_EXPIRY (R23). -/
  | stallTimerExpiry
  /-- ANGLE_CLOCK_REACH (R35). -/
  | angleClockReach (au hold : Nat)
  /-- REFERENCE_REPORT (R29). -/
  | referenceReport
  /-- ASC_LOCK_GAINED (R46). -/
  | ascLockGained
  /-- ASC_LOCK_LOST (R53). -/
  | ascLockLost
  /-- CAM_EDGE (R59). -/
  | camEdge (dt age : Nat) (input : LineABCD) (pol : Polarity)
  /-- CEU_EDGE_CLOSE (R65). -/
  | ceuEdgeClose
  /-- CEU_CYCLE_START (R67). -/
  | ceuCycleStart
  /-- CEU_LOCK_GAINED (R66). -/
  | ceuLockGained
  /-- CEU_LOCK_LOST (R69). -/
  | ceuLockLost
  /-- PHC_MATCH (R78). -/
  | phcMatch (ch : Chan)
  /-- PHC_MEASUREMENT_MISSING (R78). -/
  | phcMeasurementMissing (ch : Chan)
  /-- PHC_LOCK_LOST (R85). -/
  | phcLockLost (ch : Chan)
  /-- PHC_START_NOTIFICATION (R93). -/
  | phcStartNotification (ch : Chan)
  /-- RELEASE_TIMER_EXPIRY (R77). -/
  | releaseTimerExpiry (ch : Chan)
  /-- HOLD_LIMIT_EXPIRY (R84). -/
  | holdLimitExpiry (ch : Chan)
  /-- PARK_TIMER_EXPIRY (R86). -/
  | parkTimerExpiry (ch : Chan)
  /-- TEST_TIMER_EXPIRY (R93). -/
  | testTimerExpiry (ch : Chan)
  /-- PHC_CLAIM_PLACED (R83). -/
  | phcClaimPlaced (ch : Chan)
  /-- PHC_CLAIM_RELEASED (R82). -/
  | phcClaimReleased (ch : Chan)
  /-- PHC_SUPPLY_CHANGE (R83). -/
  | phcSupplyChange (ch : Chan)
  /-- PHC_RESPONSE_CHANGE (R87). -/
  | phcResponseChange (ch : Chan)
  /-- PHC_SOURCE_CHANGE (R88). -/
  | phcSourceChange (ch : Chan)
  /-- PHC_DRIVER_FAULT (R89). -/
  | phcDriverFault (ch : Chan)
  /-- PHC_CLASS_1_REPORT (R90). -/
  | phcClass1Report (ch : Chan)
  /-- PHC_DRIVER_CLEAR (R89). -/
  | phcDriverClear (ch : Chan)
  /-- PHC_OPPT_OIL (R94). -/
  | phcOpptOil
  /-- PHC_OPPT_CHANGED (R76). -/
  | phcOpptChanged
  /-- TGA_CYCLE_START (R104). -/
  | tgaCycleStart
  /-- TGA_RESPONSE_CHANGE (R103). -/
  | tgaResponseChange (ch : Chan)
  /-- STALENESS_TIMER_EXPIRY (R97). -/
  | stalenessTimerExpiry
  /-- TRB_CYCLE_START (R155). -/
  | trbCycleStart
  /-- TRB_EDGE_RECORD (R156). -/
  | trbEdgeRecord
  /-- TRB_LOCK_LOST (R157). -/
  | trbLockLost
  /-- TRIGGER_PUSH (R153). -/
  | triggerPush
  /-- LFS_LIFT_DECIDE (R126). -/
  | lfsLiftDecide (u : LiftUnit)
  /-- LFS_LIFT_OPEN (R129). -/
  | lfsLiftOpen (u : LiftUnit)
  /-- LFS_LIFT_CLOSE (R131). -/
  | lfsLiftClose (u : LiftUnit)
  /-- TRAVEL_TIMER_EXPIRY (R130). -/
  | travelTimerExpiry (u : LiftUnit)
  /-- PIN_SENSE_SAMPLE (R123). -/
  | pinSenseSample (psa psb : Bool)
  /-- SENSE_CHANGE (R130). -/
  | senseChange (u : LiftUnit)
  /-- LFS_LOCK_LOST (R135). -/
  | lfsLockLost (u : LiftUnit)
  /-- LFS_START_NOTIFICATION (R138). -/
  | lfsStartNotification (u : LiftUnit)
  /-- LFS_RESPONSE_CHANGE (R138). -/
  | lfsResponseChange (u : LiftUnit)
  /-- STUCK_ACTION (R136). -/
  | stuckAction (u : LiftUnit)
  /-- UNIT_CLEAR (R136). -/
  | unitClear (u : LiftUnit)
  /-- LIFT_TEST_EXPIRY (R138). -/
  | liftTestExpiry (u : LiftUnit)
  /-- OCV_PERIOD_START (R112). -/
  | ocvPeriodStart (o : LineABCD)
  /-- ON_PERIOD_END (R118). -/
  | onPeriodEnd (o : LineABCD) (current : Bool)
  /-- OVERCURRENT (R116). -/
  | overcurrent (dt : Nat) (out : Out)
  /-- LS_ON_LIMIT (R115). -/
  | lsOnLimit (o : LineAB) (current : Bool)
  /-- NORMAL_WRITE (R113). -/
  | normalWrite (o : LineABCD)
  /-- IMMEDIATE_WRITE (R113). -/
  | immediateWrite (o : LineABCD) (current : Bool)
  /-- ENERGIZE (R115). -/
  | energize (o : LineAB)
  /-- DE_ENERGIZE (R115). -/
  | deEnergize (o : LineAB) (current : Bool)
  /-- VDR_ENABLE_EVALUATION (R111). -/
  | vdrEnableEvaluation (out : Out) (current : Bool)
  /-- VDR_DRIVER_CLEAR (R117). -/
  | vdrDriverClear (out : Out)
  /-- FAULT_PRESENT (R141). -/
  | faultPresent (id : FaultId)
  /-- FAULT_GONE (R142). -/
  | faultGone (id : FaultId)
  /-- FAULT_EVENT (R143). -/
  | faultEvent (id : FaultId)
  /-- FMG_LOCKOUT_CHANGE (R149). -/
  | fmgLockoutChange
  /-- CST_SUPPLY_CHANGE (R167). -/
  | cstSupplyChange
  /-- SAVE_PAGE_END (R166). -/
  | savePageEnd (dt : Nat)
  /-- SWEEP_PAGE_CHECK (R169). -/
  | sweepPageCheck (dt : Nat)
  /-- RESUME_TIMER_EXPIRY (R167). -/
  | resumeTimerExpiry
  /-- LINE_GAP_TIMEOUT (R179). -/
  | lineGapTimeout
  /-- LINE_COMPLETE (R179). -/
  | lineComplete (dt : Nat)
  /-- LINE_TAKEN (R180). -/
  | lineTaken
  /-- LINE_SENT (R182). -/
  | lineSent (dt : Nat)
  /-- NOTICE_HANDED_IN (R183). -/
  | noticeHandedIn (src : Block)
  /-- ARM_LAPSE (R181). -/
  | armLapse
  /-- STAT (R184). -/
  | stat (fields : List Field)
  /-- ARMS (R181). -/
  | arms (fields : List Field)
  /-- NMSK (R183). -/
  | nmsk (fields : List Field)
  /-- IDNT (R185). -/
  | idnt (fields : List Field)
  /-- MODE_RUN (R175). -/
  | modeRun (fields : List Field)
  /-- MODE_STANDBY (R175). -/
  | modeStandby (fields : List Field) (seen : LoadSeen)
  /-- RSET (R176). -/
  | rset (fields : List Field)
  /-- LAYR (R5). -/
  | layr (fields : List Field)
  /-- LAYW (R4). -/
  | layw (fields : List Field)
  /-- TUNR (R16). -/
  | tunr (fields : List Field)
  /-- TUNW (R15). -/
  | tunw (fields : List Field)
  /-- OPPT (R96). -/
  | oppt (fields : List Field)
  /-- MAPR (R100). -/
  | mapr (fields : List Field)
  /-- MAPW (R99). -/
  | mapw (fields : List Field)
  /-- TEST_CH (R92). -/
  | testCh (fields : List Field)
  /-- TEST_LIFT (R137). -/
  | testLift (fields : List Field)
  /-- CLRL (R91). -/
  | clrl (fields : List Field)
  /-- RSPR (R146). -/
  | rspr (fields : List Field)
  /-- RSPW (R146). -/
  | rspw (fields : List Field)
  /-- FLTR (R150). -/
  | fltr (fields : List Field)
  /-- FLTC (R151). -/
  | fltc (fields : List Field)
  /-- TRCT (R158). -/
  | trct (fields : List Field)
  /-- TRCR (R159). -/
  | trcr (fields : List Field)
  /-- TRCF (R160). -/
  | trcf (fields : List Field)
  /-- SAVE (R165). -/
  | save (guardOn : Bool) (fields : List Field)
  /-- SWEP (R169). -/
  | swep (fields : List Field)
  /-- ABRT (R168). -/
  | abrt (fields : List Field)
  /-- PAGE (R170). -/
  | page (fields : List Field)
  /-- STST (R171). -/
  | stst (guardOn : Bool) (fields : List Field)
  /-- LOCK (R163). -/
  | lock (fields : List Field)
  /-- CHARACTER_RECEIVED (R179). -/
  | characterReceived (dt : Nat) (c : Byte)
deriving DecidableEq, Repr, Inhabited

end Sys2Proof
end

