-- ==== Sys2Proof/Decode.lean ====
section
/-! DEFINITION. The commands that words of the opcode table spell. No row of the table gives bits: a command reaches
the part as an event on a line, a handover or a line of text, never as a word. -/

namespace Sys2Proof

/-- The command a word of the table spells: none, since no row of the table has bits. -/
def decodeTableWord (_nbits _w : Nat) : Option Instr := none

end Sys2Proof
end

