-- ==== Sys2Proof/Machine/Types.lean ====
section
/-! DEFINITION. The records that the thirteen blocks keep, as plain data, with the built-in defaults of the tables and
the values of each block's record after a reset. Nothing here says how a record changes. -/

namespace Sys2Proof.Machine

/-! ### One value for each channel, unit, output, region or fault kind -/

/-- One value for each phaser channel. -/
structure PerChan (α : Type) where
  in1 : α
  ex1 : α
  in2 : α
  ex2 : α
deriving DecidableEq, Repr, Inhabited

/-- One value for each lift unit. -/
structure PerUnit (α : Type) where
  l1 : α
  l2 : α
deriving DecidableEq, Repr, Inhabited

/-- One value for each of the lines A to D. -/
structure PerOcv (α : Type) where
  a : α
  b : α
  c : α
  d : α
deriving DecidableEq, Repr, Inhabited

/-- One value for each of the lines A and B. -/
structure PerLs (α : Type) where
  a : α
  b : α
deriving DecidableEq, Repr, Inhabited

/-- The value `a` for every channel. -/
def PerChan.all {α : Type} (a : α) : PerChan α := ⟨a, a, a, a⟩
/-- The value `a` for both units. -/
def PerUnit.all {α : Type} (a : α) : PerUnit α := ⟨a, a⟩
/-- The value `a` for all four lines. -/
def PerOcv.all {α : Type} (a : α) : PerOcv α := ⟨a, a, a, a⟩
/-- The value `a` for both lines. -/
def PerLs.all {α : Type} (a : α) : PerLs α := ⟨a, a⟩

/-- The sixteen fault kinds, in the order of R139. -/
inductive FaultKind
  | syncSlip | crankNoise | camPattern | camMissing | phaserStuck | parkFail | driverShort | driverOpen | oilLow | hostStale | liftNoConfirm | liftPosition | liftMismatch | supplyLow | storeDamaged | traceMissed
deriving DecidableEq, Repr, Inhabited

/-- One value for each fault kind (R145). -/
structure PerKind (α : Type) where
  syncSlip : α
  crankNoise : α
  camPattern : α
  camMissing : α
  phaserStuck : α
  parkFail : α
  driverShort : α
  driverOpen : α
  oilLow : α
  hostStale : α
  liftNoConfirm : α
  liftPosition : α
  liftMismatch : α
  supplyLow : α
  storeDamaged : α
  traceMissed : α
deriving DecidableEq, Repr, Inhabited

/-- The eight regions of the store, in the order of their region ids (R162). -/
inductive Region
  | ident | layout | tuning | response | mapIn1 | mapEx1 | mapIn2 | mapEx2
deriving DecidableEq, Repr, Inhabited

/-- One value for each region. -/
structure PerRegion (α : Type) where
  ident : α
  layout : α
  tuning : α
  response : α
  mapIn1 : α
  mapEx1 : α
  mapIn2 : α
  mapEx2 : α
deriving DecidableEq, Repr, Inhabited

/-- The value `a` for every region. -/
def PerRegion.all {α : Type} (a : α) : PerRegion α := ⟨a, a, a, a, a, a, a, a⟩

/-! ### Working tables (TBM) -/

/-- A channel's direction away from park (00, Phase and direction). -/
inductive Dir
  | adv | ret
deriving DecidableEq, Repr, Inhabited

/-- The WHEEL item (R2). -/
structure Wheel where
  positions : Nat
  missing : Nat
  gapFactor : Nat
  firstTooth : Nat
  stallMs : Nat
deriving DecidableEq, Repr, Inhabited

/-- A CAM item (R2). -/
structure CamItem where
  dir : Dir
  range : Nat
  halfWidth : Nat
  reference : Bool
deriving DecidableEq, Repr, Inhabited

/-- One expected edge of an EDGE item (R2). -/
structure EdgeItem where
  angle : Nat
  pol : Polarity
deriving DecidableEq, Repr, Inhabited

/-- A BIND item; `none` is the binding 0 (R2). -/
structure BindItem where
  cam : Option LineABCD
  driver : Option LineABCD
deriving DecidableEq, Repr, Inhabited

/-- A LIFT item; `none` is the binding 0, or an absent angle (R2). -/
structure LiftItem where
  driver : Option LineAB
  sense : Option LineAB
  decision : Option Nat
  windowOpen : Option Nat
  windowClose : Option Nat
deriving DecidableEq, Repr, Inhabited

/-- The Layout table (R2). An absent EDGE item is the empty list. -/
structure Layout where
  wheel : Option Wheel
  cyl : Option Nat
  cam : PerChan (Option CamItem)
  edges : PerChan (List EdgeItem)
  bind : PerChan BindItem
  lift : PerUnit LiftItem
  pwm : PerOcv Nat
deriving DecidableEq, Repr, Inhabited

/-- The blank layout (R2, last column). -/
def Layout.blank : Layout where
  wheel := none
  cyl := none
  cam := .all none
  edges := .all []
  bind := .all ⟨none, none⟩
  lift := .all ⟨none, none, none, none, none⟩
  pwm := .all 4000

/-- The per-channel items of the Tuning table, in the order of R13. -/
structure ChanTune where
  kp : Nat
  ki : Nat
  ilim : Nat
  hold0 : Nat
  dmin : Nat
  dmax : Nat
  deadband : Nat
  slew : Nat
  releaseRpm : Nat
  releaseKpa : Nat
  holdKpa : Nat
  releaseDuty : Nat
  releaseMs : Nat
  parkTol : Nat
  parkMs : Nat
  step : Nat
  stuckCycles : Nat
  moveMin : Nat
deriving DecidableEq, Repr, Inhabited

/-- The per-unit items of the Tuning table (R14); times in tenths of a ms. -/
structure UnitTune where
  travelMs : Nat
  marginMs : Nat
deriving DecidableEq, Repr, Inhabited

/-- The device items of the Tuning table, in the order of R14. -/
structure DevTune where
  ceilingRpm : Nat
  upRpm : Nat
  upLoad : Nat
  downRpm : Nat
  downLoad : Nat
  staleMs : Nat
  holdLimitMs : Nat
deriving DecidableEq, Repr, Inhabited

/-- The Tuning table (R13, R14). -/
structure Tuning where
  chan : PerChan ChanTune
  unit : PerUnit UnitTune
  dev : DevTune
deriving DecidableEq, Repr, Inhabited

/-- Built-in defaults of R13. -/
def ChanTune.builtIn : ChanTune where
  kp := 40
  ki := 8
  ilim := 200
  hold0 := 500
  dmin := 100
  dmax := 900
  deadband := 8
  slew := 48
  releaseRpm := 1600
  releaseKpa := 150
  holdKpa := 90
  releaseDuty := 700
  releaseMs := 40
  parkTol := 16
  parkMs := 300
  step := 48
  stuckCycles := 12
  moveMin := 16

/-- Built-in defaults of R14. -/
def UnitTune.builtIn : UnitTune where
  travelMs := 20
  marginMs := 5

/-- Built-in defaults of R14. -/
def DevTune.builtIn : DevTune where
  ceilingRpm := 11000
  upRpm := 7500
  upLoad := 600
  downRpm := 6800
  downLoad := 450
  staleMs := 100
  holdLimitMs := 500

/-- The Tuning table's built-in defaults (R13, R14). -/
def Tuning.builtIn : Tuning := ⟨.all .builtIn, .all .builtIn, .builtIn⟩

/-- Phaser action of a response record, and the response in force of a channel (R145, R147). -/
inductive PhaserAction
  | none | hold | park
deriving DecidableEq, Repr, Inhabited

/-- One response record (R145). `phaserAll` and `liftAll` are the scope ALL; `liftLow` the lift action LOW. -/
structure ResponseRec where
  phaser : PhaserAction
  phaserAll : Bool
  liftLow : Bool
  liftAll : Bool
  debounce : Nat
  capture : Bool
  notify : Bool
deriving DecidableEq, Repr, Inhabited

/-- The Response table (R145). -/
abbrev ResponseTable := PerKind ResponseRec

/-- The Response table's built-in defaults (R145). -/
def ResponseTable.builtIn : ResponseTable where
  syncSlip := ⟨.none, false, false, false, 1, false, true⟩
  crankNoise := ⟨.none, false, false, false, 3, false, false⟩
  camPattern := ⟨.park, false, false, false, 1, false, true⟩
  camMissing := ⟨.park, false, false, false, 1, false, true⟩
  phaserStuck := ⟨.park, false, false, false, 1, true, true⟩
  parkFail := ⟨.park, false, false, false, 1, true, true⟩
  driverShort := ⟨.none, false, false, false, 1, true, true⟩
  driverOpen := ⟨.none, false, false, false, 1, false, true⟩
  oilLow := ⟨.park, true, false, false, 1, false, true⟩
  hostStale := ⟨.park, true, true, true, 1, false, true⟩
  liftNoConfirm := ⟨.none, false, true, true, 1, false, true⟩
  liftPosition := ⟨.none, false, true, true, 1, false, true⟩
  liftMismatch := ⟨.none, false, true, true, 1, true, true⟩
  supplyLow := ⟨.none, false, false, false, 1, false, false⟩
  storeDamaged := ⟨.none, false, false, false, 1, false, true⟩
  traceMissed := ⟨.none, false, false, false, 1, false, false⟩

/-- The contents of one Phase Map (R98). -/
structure MapData where
  rpm : List Nat
  load : List Nat
  cells : List (List Nat)
  temps : List Int
  factors : List Nat
deriving DecidableEq, Repr, Inhabited

/-- A Phase Map with its written marks and its available flag (R98). -/
structure PhaseMap where
  data : MapData
  rpmMark : Bool
  loadMark : Bool
  derateMark : Bool
  cellMarks : List (List Bool)
  available : Bool
deriving DecidableEq, Repr, Inhabited

/-- The contents of a blank map (R98). -/
def MapData.blank : MapData :=
  ⟨List.replicate 16 0, List.replicate 12 0, List.replicate 16 (List.replicate 12 0), List.replicate 8 0,
    List.replicate 8 0⟩

/-- A blank map (R98). -/
def PhaseMap.blank : PhaseMap :=
  ⟨.blank, false, false, false, List.replicate 16 (List.replicate 12 false), false⟩

/-- The content of a store region that holds a working table (R162). -/
inductive TableImage
  | layout (l : Layout) | tuning (t : Tuning) | response (r : ResponseTable) | map (m : MapData)
deriving DecidableEq, Repr, Inhabited

/-- Origin of a working table (R1). The Layout takes LOADED, EDITED, BLANK; the others LOADED, EDITED, DEFAULT. -/
inductive Origin
  | loaded | edited | blank | default
deriving DecidableEq, Repr, Inhabited

/-- The kinds of line that CONFLICT examines (R10). -/
inductive ConflictKind
  | camin | ocv | ls | sense
deriving DecidableEq, Repr, Inhabited

/-- The layout validation record's check with its detail (R7 to R12). -/
inductive LayoutFailure
  | origin | wheelAbsent | wheelTeeth (n : Nat) | cyl | partialChan (ch : Chan) | partialUnit (u : LiftUnit)
  | channel (ch : Chan) | refCount (n : Nat) | refUnbound (ch : Chan) | refWide (ch : Chan)
  | order (ch : Chan) (k : Nat) | overlap (ch : Chan) (k : Nat)
  | conflict (kind : ConflictKind) (line : LineABCD) (a b : Nat)
  | intake (u : LiftUnit) | lead (u : LiftUnit) (dist : Nat) | capacity (n : Nat)
deriving DecidableEq, Repr, Inhabited

/-- Table Memory (00, Block diagram). `inForce` is the layout validated at the latest RUN entry (R94, R110; log 33). -/
structure Tbm where
  layout : Layout
  layoutOrigin : Origin
  tuning : Tuning
  tuningOrigin : Origin
  response : ResponseTable
  responseOrigin : Origin
  maps : PerChan PhaseMap
  validation : Option LayoutFailure
  inForce : Layout
deriving DecidableEq, Repr, Inhabited

/-- The working tables after any reset (R18, R98). -/
def Tbm.reset : Tbm :=
  ⟨.blank, .blank, .builtIn, .default, .builtIn, .default, .all .blank, none, .blank⟩

/-! ### Supply and Mode Control -/

/-- Part modes (R174, R175). -/
inductive Mode
  | init | standby | run
deriving DecidableEq, Repr, Inhabited

/-- Supply states (R172). -/
inductive SupplyState
  | normal | belowProgram | belowDrive
deriving DecidableEq, Repr, Inhabited

/-- Reset kinds (R173). -/
inductive ResetCause
  | powerOn | brownout | line | lineRequest
deriving DecidableEq, Repr, Inhabited

/-- Supply and Mode Control (R172 to R176). `supply` is in tenths of a volt. `inReset` says that a reset cause still
holds the part; `resetAsked` that an accepted RSET waits for its reply to be sent (R176). -/
structure Smc where
  mode : Mode
  supplyState : SupplyState
  supply : Nat
  cause : ResetCause
  inReset : Bool
  rstnLow : Bool
  resetAsked : Bool
  startTimer : Option Time
  supplyReported : Bool
  repeatTimer : Option Time
deriving DecidableEq, Repr, Inhabited

/-! ### Crank Tracker and Angle Scheduler -/

/-- States of the Crank Tracker (R19). -/
inductive CrankState
  | stopped | seeking | crankLocked | cycleLocked
deriving DecidableEq, Repr, Inhabited

/-- Causes of a !SYN notice (R40). -/
inductive SynCause
  | start | teeth | half | count | halfSlip | stall
deriving DecidableEq, Repr, Inhabited

/-- One tooth anchor of the angle clock (R35). `expected` is X, in units of the time base. -/
structure Anchor where
  time : Word32
  angle : Nat
  span : Nat
  expected : Nat
deriving DecidableEq, Repr, Inhabited

/-- The angle clock (R35): its latest anchor, the one before it where there is one, and how many au the clock has
passed since the latest anchor (log 10). -/
structure AngleClock where
  anchor : Anchor
  previous : Option Anchor
  reached : Nat
deriving DecidableEq, Repr, Inhabited

/-- The tracker record (R19). `halfCandidate` is `some true` for the second revolution half. `lap` is the model's own:
it tells two successive revolutions of the clock apart, and so the revolution in which a reference report arrives (R29,
R32; log 11). -/
structure Ckt where
  state : CrankState
  lastEdge : Option Word32
  lastInterval : Option Word32
  intervalBefore : Option Word32
  pitch : Option Nat
  tooth : Option Nat
  lastGap : Option Word32
  clock : Option AngleClock
  stall : Option Time
  rpm : Nat
  cycles : Word32
  noiseTally : Nat
  noiseReported : Bool
  halfCandidate : Option Bool
  notSeen : Nat
  missingReported : Bool
  awaySeen : Bool
  wrongHalf : Nat
  lap : Bool
deriving DecidableEq, Repr, Inhabited

/-- The tracker record after any reset (R19). -/
def Ckt.reset : Ckt where
  state := .stopped
  lastEdge := none
  lastInterval := none
  intervalBefore := none
  pitch := none
  tooth := none
  lastGap := none
  clock := none
  stall := none
  rpm := 0
  cycles := 0
  noiseTally := 0
  noiseReported := false
  halfCandidate := none
  notSeen := 0
  missingReported := false
  awaySeen := false
  wrongHalf := 0
  lap := false

/-- Kind and owner index of a schedule entry (R41); edge indexes count from 1. -/
inductive EntryKind
  | cycleStart | edgeClose (ch : Chan) (k : Nat) | liftDecide (u : LiftUnit) | liftOpen (u : LiftUnit)
  | liftClose (u : LiftUnit)
deriving DecidableEq, Repr, Inhabited

/-- One entry of the Angle Schedule (R41). -/
structure Entry where
  angle : Nat
  kind : EntryKind
  fired : Bool
deriving DecidableEq, Repr, Inhabited

/-- One entry of the schedule plan (R41): for a moving entry the angle is that at phase 0, and `moves` holds the
direction and range of the unit's intake channel. -/
structure PlanEntry where
  angle : Nat
  kind : EntryKind
  moves : Option (Dir × Nat)
deriving DecidableEq, Repr, Inhabited

/-- The Angle Scheduler (R41). -/
structure Asc where
  entries : List Entry
  plan : List PlanEntry
deriving DecidableEq, Repr, Inhabited

/-! ### Cam Edge Unit -/

/-- One expected edge's window: its two flags (R58), and `ended`, the cycle count of the EDGE_CLOSE with which its latest
occurrence ended, by which a late edge is told (R60). None stands where no occurrence has ended under the lock in being.
The count is the model's own (log 12). -/
structure WindowFlags where
  matched : Bool
  opened : Bool
  ended : Option Word32
deriving DecidableEq, Repr, Inhabited

/-- A window of whose occurrences the unit knows nothing: both flags clear (R58). -/
def WindowFlags.clear : WindowFlags := ⟨false, false, none⟩

/-- Measured phase record and working state of one channel (R57, R58). `windows` has one entry for each of the six
possible expected edges; `opened` in it is the flag window partial. -/
structure CeuChan where
  phase : Int
  valid : Bool
  windows : List WindowFlags
  cycMatches : Nat
  cycStrays : Nat
  noMatchRun : Nat
  strayRun : Nat
  missingReported : Bool
  patternReported : Bool
  firstAfterLock : Bool
deriving DecidableEq, Repr, Inhabited

/-- The Cam Edge Unit (R57, R58). `reportSent` says that a reference report has been sent since the clock last became
present, by which a late edge is told (R70, R71; log 12). `stamps` is the model's own: when the latest edge on each input
was captured, so that the edges of one input are taken in the order of their time stamps (R59; log 42). -/
structure Ceu where
  chans : PerChan CeuChan
  matching : Bool
  partialCycle : Bool
  refSeen : Bool
  reportSent : Bool
  stamps : PerOcv Time
deriving DecidableEq, Repr, Inhabited

/-- One channel of the Cam Edge Unit after any reset (R57, R58). -/
def CeuChan.reset : CeuChan :=
  ⟨0, false, List.replicate 6 .clear, 0, 0, 0, 0, false, false, false⟩

/-- The Cam Edge Unit after any reset (R57, R58; log 42). -/
def Ceu.reset : Ceu := ⟨.all .reset, false, false, false, false, .all 0⟩

/-! ### Phaser Controllers -/

/-- States of a channel (R73). -/
inductive ChanState
  | unused | parked | releasing | tracking | holding | parking | driveTest | faulted | lockout
deriving DecidableEq, Repr, Inhabited

/-- Cause words of a !CHS notice (05, the table of transitions). -/
inductive ChanCause
  | run | release | released | hold | resume | lock | response | source | supply | lost | oil | limit | settled | timeout | test | testEnd | abandon | mode | driver | driverClear | double | clrl
deriving DecidableEq, Repr, Inhabited

/-- The set of hold causes (R73, R82). -/
structure HoldCauses where
  claim : Bool
  supply : Bool
  measure : Bool
  response : Bool
deriving DecidableEq, Repr, Inhabited

/-- No hold cause. -/
def HoldCauses.empty : HoldCauses := ⟨false, false, false, false⟩

/-- The stuck monitor (R73, R81): WATCHING or IDLE, its reference phase, and its start phase and start cycle
(log 38). -/
structure StuckMonitor where
  watching : Bool
  reference : Int
  start : Int
  startCycle : Word32
deriving DecidableEq, Repr, Inhabited

/-- Kinds of a channel's timer (R73). -/
inductive ChanTimer
  | release | holdLimit | park | test
deriving DecidableEq, Repr, Inhabited

/-- A channel record (R73). -/
structure ChanRec where
  state : ChanState
  holds : HoldCauses
  presented : Nat
  duty : Nat
  integral : Int
  learned : Nat
  stuck : StuckMonitor
  timer : Option (ChanTimer × Time)
  inBand : Nat
  parkCount : Nat
deriving DecidableEq, Repr, Inhabited

/-- A channel record after any reset (R73). -/
def ChanRec.reset : ChanRec := ⟨.unused, .empty, 0, 0, 0, 500, ⟨false, 0, 0, 0⟩, none, 0, 0⟩

/-- The Phaser Controllers (R73). -/
structure Phc where
  chans : PerChan ChanRec
  lowOilRun : Nat
  oilReported : Bool
deriving DecidableEq, Repr, Inhabited

/-- The Phaser Controllers after any reset (R73). -/
def Phc.reset : Phc := ⟨.all .reset, 0, false⟩

/-! ### Target Arbiter -/

/-- An operating point (R95). `lift` is `some true` for the request H. -/
structure Oppt where
  load : Nat
  oilTemp : Int
  oilKpa : Nat
  targets : PerChan (Option Nat)
  lift : Option Bool
deriving DecidableEq, Repr, Inhabited

/-- Freshness of the last OPPT record (R97). -/
inductive Freshness
  | none | fresh | stale
deriving DecidableEq, Repr, Inhabited

/-- Target sources (R102). -/
inductive Source
  | park | host | map
deriving DecidableEq, Repr, Inhabited

/-- The arbiter's state for one channel (R102 to R104). `response` is the response in force as handed by the Fault
Manager (R102; log 24). -/
structure TgaChan where
  source : Source
  output : Nat
  mapOutput : Option Nat
  response : PhaserAction
deriving DecidableEq, Repr, Inhabited

/-- The Target Arbiter (R96, R97, R109). The staleness timer holds its expiry and the period that restarts it. -/
structure Tga where
  record : Option Oppt
  fresh : Freshness
  stale : Option (Time × Time)
  staleReported : Bool
  chans : PerChan TgaChan
deriving DecidableEq, Repr, Inhabited

/-- The Target Arbiter after any reset (R109). -/
def Tga.reset : Tga := ⟨none, .none, none, false, .all ⟨.park, 0, none, .none⟩⟩

/-! ### Valve Drivers -/

/-- An OCV record (R110); the period is in µs. -/
structure OcvRec where
  enabled : Bool
  binding : Option Chan
  period : Nat
  active : Nat
  pending : Nat
  periodStart : Option Word32
  lineOn : Bool
  tripped : Bool
  openTally : Nat
  openReported : Bool
deriving DecidableEq, Repr, Inhabited

/-- An LS record (R110). -/
structure LsRec where
  enabled : Bool
  binding : Option LiftUnit
  lineOn : Bool
  onSince : Option Word32
  tripped : Bool
  openTally : Nat
  openReported : Bool
deriving DecidableEq, Repr, Inhabited

/-- The Valve Drivers (R110). -/
structure Vdr where
  ocv : PerOcv OcvRec
  ls : PerLs LsRec
deriving DecidableEq, Repr, Inhabited

/-- The Valve Drivers after any reset (R110). -/
def Vdr.reset : Vdr :=
  ⟨.all ⟨false, none, 4000, 0, 0, none, false, false, 0, false⟩, .all ⟨false, none, false, none, false, 0, false⟩⟩

/-! ### Lift Sequencer -/

/-- States of a lift unit (R122). -/
inductive LiftState
  | low | raiseWait | raising | high | lowerWait | lowering | stuck
deriving DecidableEq, Repr, Inhabited

/-- Cause words of a !LFT notice (R125). -/
inductive LiftCause
  | run | confirm | withdrawn | noConfirm | lock | driver | clear | testEnd | abandon | response | mode
deriving DecidableEq, Repr, Inhabited

/-- A unit record (R122). -/
structure UnitRec where
  state : LiftState
  attempts : Nat
  claim : Bool
  travel : Option Time
  test : Option Time
  posTally : Nat
  posReported : Bool
deriving DecidableEq, Repr, Inhabited

/-- A sense input: its debounced position (`true` is HIGH) and how many samples in a row read the other value (R123). -/
structure SenseRec where
  high : Bool
  differing : Nat
deriving DecidableEq, Repr, Inhabited

/-- The pair record: leading unit, profile (`true` is HIGH), cycle count (R122, R133). -/
structure PairRec where
  lead : LiftUnit
  high : Bool
  cycle : Word32
deriving DecidableEq, Repr, Inhabited

/-- The Lift Sequencer (R122, R123). `request` is `true` for H. -/
structure Lfs where
  units : PerUnit UnitRec
  request : Bool
  pair : Option PairRec
  mismatchReported : Bool
  senses : PerLs SenseRec
  nextSample : Time
deriving DecidableEq, Repr, Inhabited

/-- The Lift Sequencer after a reset released at time `t` (R122); the first sample falls 0.5 ms after release (R123). -/
def Lfs.reset (t : Time) : Lfs :=
  ⟨.all ⟨.low, 0, false, none, none, 0, false⟩, false, none, false, .all ⟨false, 0⟩, t + 1000⟩

/-! ### Fault Manager -/

/-- States of a fault record (R140). -/
inductive RecState
  | inactive | pending | active | latched
deriving DecidableEq, Repr, Inhabited

/-- Types of a report (R139). -/
inductive ReportKind
  | present | gone | event
deriving DecidableEq, Repr, Inhabited

/-- The scope part of a record's context (R141). -/
inductive ScopeContext
  | device
  | channel (state : ChanState) (presented : Nat) (phase : Int) (valid : Bool) (duty : Nat)
  | ocv (lineOn : Bool) (bound : Option (Chan × ChanState))
  | ls (lineOn : Bool) (bound : Option (LiftUnit × LiftState))
  | unit (state : LiftState) (intake : ChanState)
deriving DecidableEq, Repr, Inhabited

/-- A record's context (R141). -/
structure Context where
  mode : Mode
  crank : CrankState
  rpm : Nat
  supplyState : SupplyState
  supply : Nat
  scope : ScopeContext
deriving DecidableEq, Repr, Inhabited

/-- A fault record (R140). -/
structure FaultRec where
  state : RecState
  count : Nat
  tally : Nat
  firstSeen : Option Word32
  lastSeen : Option Word32
  context : Option Context
deriving DecidableEq, Repr, Inhabited

/-- A record of which nothing is known (R152). -/
def FaultRec.clean : FaultRec := ⟨.inactive, 0, 0, none, none, none⟩

/-- One value for each of the six outputs. -/
structure PerOut (α : Type) where
  ocv : PerOcv α
  ls : PerLs α
deriving DecidableEq, Repr, Inhabited

/-- The value `a` for every output. -/
def PerOut.all {α : Type} (a : α) : PerOut α := ⟨.all a, .all a⟩

/-- The Fault Record Table: 40 records (R140). -/
structure FaultTable where
  syncSlip : FaultRec
  crankNoise : FaultRec
  camPattern : PerChan FaultRec
  camMissing : PerChan FaultRec
  phaserStuck : PerChan FaultRec
  parkFail : PerChan FaultRec
  driverShort : PerOut FaultRec
  driverOpen : PerOut FaultRec
  oilLow : FaultRec
  hostStale : FaultRec
  liftNoConfirm : PerUnit FaultRec
  liftPosition : PerUnit FaultRec
  liftMismatch : FaultRec
  supplyLow : FaultRec
  storeDamaged : FaultRec
  traceMissed : FaultRec
deriving DecidableEq, Repr, Inhabited

/-- Every record INACTIVE with count 0 (R152). -/
def FaultTable.clean : FaultTable where
  syncSlip := .clean
  crankNoise := .clean
  camPattern := .all .clean
  camMissing := .all .clean
  phaserStuck := .all .clean
  parkFail := .all .clean
  driverShort := .all .clean
  driverOpen := .all .clean
  oilLow := .clean
  hostStale := .clean
  liftNoConfirm := .all .clean
  liftPosition := .all .clean
  liftMismatch := .clean
  supplyLow := .clean
  storeDamaged := .clean
  traceMissed := .clean

/-- The Fault Manager (R140, R147, R149). `unitLow` is the response LOW in force for a unit; `flt` the FLT line. -/
structure Fmg where
  table : FaultTable
  chanResponse : PerChan PhaserAction
  unitLow : PerUnit Bool
  flt : Bool
deriving DecidableEq, Repr, Inhabited

/-! ### Trace Buffer -/

/-- A trigger cause (R153). -/
inductive TraceCause
  | request | fault (id : FaultId)
deriving DecidableEq, Repr, Inhabited

/-- An edge record (R154): `edge` is the index of the matched expected edge with the phase, or `none` for a stray. -/
structure EdgeRecord where
  input : LineABCD
  pol : Polarity
  angle : Nat
  outcome : Option (Nat × Int)
deriving DecidableEq, Repr, Inhabited

/-- States of a trace slot (R154). -/
inductive SlotState
  | free | filling | ready
deriving DecidableEq, Repr, Inhabited

/-- The summary of one channel in a trace slot (R154). -/
structure ChanSummary where
  state : ChanState
  presented : Nat
  phase : Int
  duty : Nat
deriving DecidableEq, Repr, Inhabited

/-- A trace slot (R154). -/
structure TraceSlot where
  state : SlotState
  cause : Option TraceCause
  startCycle : Option Word32
  startRpm : Option Nat
  edges : List EdgeRecord
  offered : Nat
  truncated : Bool
  incomplete : Bool
  chanSummary : Option (PerChan ChanSummary)
  unitSummary : Option (PerUnit LiftState)
deriving DecidableEq, Repr, Inhabited

/-- A trace slot after any reset (R154). -/
def TraceSlot.reset : TraceSlot := ⟨.free, none, none, none, [], 0, false, false, none, none⟩

/-- The Trace Buffer (R153, R154): the queue, oldest cause first, and slots 1 to 4. -/
structure Trb where
  queue : List TraceCause
  slots : List TraceSlot
deriving DecidableEq, Repr, Inhabited

/-- The Trace Buffer after any reset (R153, R154). -/
def Trb.reset : Trb := ⟨[], List.replicate 4 .reset⟩

/-! ### Calibration Store -/

/-- Status of a region (R162). -/
inductive RegionStatus
  | valid | blank | invalid
deriving DecidableEq, Repr, Inhabited

/-- A region record (R162). -/
structure RegionRec where
  status : RegionStatus
  gen : Gen
deriving DecidableEq, Repr, Inhabited

/-- A page: its 128 bytes (R161), and the table whose encoding its payload carries where a SAVE of this model wrote
it (log 8). -/
structure Page where
  bytes : List Byte
  image : Option TableImage
deriving DecidableEq, Repr, Inhabited

/-- An erased page (R161). -/
def Page.erased : Page := ⟨List.replicate 128 0xFF#8, none⟩

/-- The kind of the store operation; a save holds its region, the generation it writes and the content its working
table had at acceptance (R164, R165). -/
inductive StoreKind
  | none | save (r : Region) (gen : Gen) (image : TableImage) | sweep
deriving DecidableEq, Repr, Inhabited

/-- The operation record (R164). `running` is the state RUNNING; `suspendPending` a suspension that waits for the
page's end (R167). -/
structure StoreOp where
  kind : StoreKind
  running : Bool
  suspendPending : Bool
  page : Nat
  resume : Option Time
deriving DecidableEq, Repr, Inhabited

/-- No store operation (R164). With the kind NONE the state and the current page have no meaning; not RUNNING, no suspension
pending and page 0 are the model's choice (log 54). -/
def StoreOp.idle : StoreOp := ⟨.none, false, false, 0, none⟩

/-- Sweep result (R164). -/
inductive SweepResult
  | none | clean | damaged (page : Nat) | abandoned
deriving DecidableEq, Repr, Inhabited

/-- Last save result (R164). -/
structure SaveResult where
  region : Region
  complete : Bool
  gen : Gen
deriving DecidableEq, Repr, Inhabited

/-- The identity fields (R185). -/
structure Identity where
  part : Field
  issue : Field
  serial : Field
  date : Field
deriving DecidableEq, Repr, Inhabited

/-- The Calibration Store (R161 to R171, R185). -/
structure Cst where
  pages : List Page
  locks : PerRegion Bool
  regions : PerRegion RegionRec
  op : StoreOp
  sweep : SweepResult
  lastSave : Option SaveResult
  guardOn : Bool
  identStatus : RegionStatus
  identity : Option Identity
deriving DecidableEq, Repr, Inhabited

/-! ### Command Line Port -/

/-- The notices (R183). -/
inductive NoticeKind
  | flt | syn | chs | lft | trc | sto | mod | rdy
deriving DecidableEq, Repr, Inhabited

/-- Reply status codes (R180). -/
inductive Status
  | ok | accepted | check | long | unknown | format | range | mode | state | unbound | busy | protect | notArmed | empty | layout
deriving DecidableEq, Repr, Inhabited

/-- Operations that arming may name (R181). -/
inductive ArmOp
  | reset | lock | clrl
deriving DecidableEq, Repr, Inhabited

/-- A notice with what the rule that hands it in gives it to carry (R40, R75, R125, R144, R155, R164, R174, R175). -/
inductive Notice
  | flt (id : FaultId) (state : RecState) (count : Nat) (lastSeen : Option Word32)
  | syn (new old : CrankState) (cause : SynCause) (rpm : Nat) (cycle : Word32)
  | chs (ch : Chan) (new old : ChanState) (cause : ChanCause) (holds : Option HoldCauses) (cycle : Word32)
  | lft (u : LiftUnit) (new old : LiftState) (cause : LiftCause) (cycle : Word32)
  | trc (slot : Nat) (cause : Option TraceCause) (start : Option Word32) (edges : Nat) (truncated incomplete : Bool)
  | stoSave (r : Region) (complete : Bool) (gen : Gen)
  | stoSweep (result : SweepResult)
  | mod (new old : Mode) (cycle : Word32)
  | rdy (cause : ResetCause) (regions : PerRegion RegionRec)
deriving DecidableEq, Repr, Inhabited

/-- Lead character of a line (R178). -/
inductive Lead
  | request | reply | notice
deriving DecidableEq, Repr, Inhabited

/-- What stands after the lead character: a keyword, "----", a keyword not in the list, or a notice's name (R178,
R180). -/
inductive LineKey
  | kw (k : Keyword) | dashes | raw (codes : List Byte) | notice (k : NoticeKind)
deriving DecidableEq, Repr, Inhabited

/-- A line (R178). Its characters, with checksum, are given by `Line.codes`. -/
structure Line where
  lead : Lead
  key : LineKey
  fields : List Field
deriving DecidableEq, Repr, Inhabited

/-- A request: keyword and fields (R180). -/
structure Request where
  key : Keyword
  fields : List Field
deriving DecidableEq, Repr, Inhabited

/-- A line under assembly (R179). `fromInit` marks a line whose first character arrived in INIT. -/
structure Assembly where
  codes : List Byte
  long : Bool
  bad : Bool
  fromInit : Bool
  last : Time
deriving DecidableEq, Repr, Inhabited

/-- A completed line in the receive buffer: its characters, whether it is a long entry, whether it is marked bad
(R179). -/
structure RxLine where
  codes : List Byte
  long : Bool
  bad : Bool
deriving DecidableEq, Repr, Inhabited

/-- The notice mask: which kinds are ON (R177, R183). -/
structure Mask where
  flt : Bool
  syn : Bool
  chs : Bool
  lft : Bool
  trc : Bool
  sto : Bool
  mod : Bool
deriving DecidableEq, Repr, Inhabited

/-- The line in progress on TXD (R182). -/
inductive Sending
  | reply (l : Line) | notice (n : Notice)
deriving DecidableEq, Repr, Inhabited

/-- The Command Line Port (R177 to R183). `buffer` holds the lines that hold a place, oldest first; `answering` says
that its head has been taken and its reply is not yet sent in full; `request` is the request dispatched to its owner
and not yet performed; `replies` the reply lines given and not yet begun on TXD. -/
structure Clp where
  rx : Option Assembly
  buffer : List RxLine
  answering : Bool
  request : Option Request
  replies : List Line
  sending : Option Sending
  queue : List Notice
  mask : Mask
  overlap : Bool
  dropped : Bool
  lineError : Bool
  lastRefusal : Option (LineKey × Status)
  arm : Option (ArmOp × Time)
deriving DecidableEq, Repr, Inhabited

/-- The Command Line Port after any reset (R177). -/
def Clp.reset : Clp where
  rx := none
  buffer := []
  answering := false
  request := none
  replies := []
  sending := none
  queue := []
  mask := ⟨true, false, false, true, true, true, true⟩
  overlap := false
  dropped := false
  lineError := false
  lastRefusal := none
  arm := none

/-! ### Handovers in flight -/

/-- A handover that one block has made and its receiver has not yet taken (log 2). Each constructor names the step
that takes it. An entry of the Angle Schedule carries its kind and owner index, its angle and the cycle count (R52); a
reference report carries the clock's `lap` at its sending (log 11). -/
inductive Handover
  | referenceReport (seen lap : Bool)
  | ascLock (gained : Bool)
  | ceuLock (gained : Bool)
  | ceuEdgeClose (ch : Chan) (k angle : Nat) (cycle : Word32)
  | ceuCycleStart (angle : Nat) (cycle : Word32)
  | phcMatch (ch : Chan) (k : Nat) (phase : Int) (stamp : Word32) (cycle : Word32)
  | phcMissing (ch : Chan) (k : Nat) (cycle : Word32)
  | phcLockLost (ch : Chan)
  | phcStart (ch : Chan)
  | phcClaim (ch : Chan) (placed : Bool)
  | phcSupply (ch : Chan) (state : SupplyState)
  | phcResponse (ch : Chan) (action : PhaserAction)
  | phcSource (ch : Chan) (source : Source)
  | phcDriverFault (ch : Chan) (class1 : Bool)
  | phcClass1 (ch : Chan)
  | phcDriverClear (ch : Chan)
  | phcOil (kpa : Nat)
  | phcOpptChanged
  | tgaCycleStart (angle : Nat) (cycle : Word32)
  | tgaResponse (ch : Chan) (action : PhaserAction)
  | trbCycleStart (angle : Nat) (cycle : Word32)
  | trbEdge (rec : EdgeRecord)
  | trbLockLost
  | trbPush (cause : TraceCause)
  | liftEntry (kind : EntryKind) (angle : Nat) (cycle : Word32)
  | lfsLockLost (u : LiftUnit)
  | lfsStart (u : LiftUnit)
  | lfsResponse (u : LiftUnit) (low : Bool)
  | stuckAction (u : LiftUnit)
  | unitClear (u : LiftUnit)
  | senseChange (u : LiftUnit) (high : Bool)
  | dutyWrite (o : LineABCD) (duty : Nat) (immediate : Bool)
  | solenoid (o : LineAB) (on : Bool)
  | enableEvaluation (out : Out)
  | vdrDriverClear (out : Out)
  | report (src : Block) (id : FaultId) (kind : ReportKind)
  | lockoutChange
  | cstSupply (state : SupplyState)
  | notice (src : Block) (n : Notice)
deriving DecidableEq, Repr, Inhabited

end Sys2Proof.Machine
end

