-- ==== Sys2Proof/Config.lean ====
section
/-! DEFINITION. What the manual leaves open, as constants without a body: nothing in Lean can evaluate them, and a
statement about them holds whatever they are. -/

namespace Sys2Proof.Config

open Sys2Proof.Machine

/-- The payload bytes that a SAVE writes into page `k` (from 0) of a region whose table is `image`. R161: "This manual
does not give that encoding or the payload length of each page". At most the first 116 bytes are used (log 8). -/
opaque encodePayload (image : TableImage) (k : Nat) : List Byte

/-- What the payloads of a region decode to, where no SAVE of this model wrote them all: a table, or nothing where
they decode to no table of the region's kind (R161; log 8). -/
opaque decodePayloads (r : Region) (payloads : List (List Byte)) : Option TableImage

/-- The identity fields decoded from the IDENT region's payloads (R185; log 8). -/
opaque decodeIdentity (payloads : List (List Byte)) : Identity

/-- Whether a page cut off in its erase or programming is left erased, not damaged: R168 says "damaged or erased,
depending on how far it had come". The argument is the model's counter of free values (log 9). -/
opaque cutOffErased (n : Nat) : Bool

/-- The bytes a page cut off part way is left with (R168; log 9). -/
opaque cutOffBytes (n : Nat) : List Byte

/-- The level of GUARD as a start-up reads it, asserted or not (R162): a fact of the outside for which the row has no
operand. The argument is the model's counter of free values (log 15). -/
opaque guardAtStartUp (n : Nat) : Bool

/-- A quotient by zero that the manual does not state (log 13). -/
opaque quotientByZero (dividend : Nat) : Nat

/-- Whether the window-time condition of R128 holds at rpm 0, where its quotient has no value: of the window length in
au and the time needed in µs (log 13). -/
opaque windowFitsAtZeroRpm (window needed : Nat) : Bool

end Sys2Proof.Config
end

