-- ==== Sys2Proof/Machine/State.lean ====
section
/-! DEFINITION. The whole state of the part, the reasons a step can stop (there is none), and the state right after
reset. -/

namespace Sys2Proof.Machine

/-- Why a step could stop with a fault. It has no constructor: nothing in the manual stops the part; what the manual
calls faults are records of the Fault Manager (R139, R140). Nobody raises it, so there is nothing unsafe in it. -/
inductive Fault
deriving DecidableEq, Repr

/-- Why a command could be refused. -/
inductive Refusal
  /-- Raised only by an arm of `exec` whose command has no meaning yet; safe, since the model then says nothing. No
  arm of this model raises it. -/
  | notModelled (mnemonic : String)
deriving DecidableEq, Repr

/-- The part: the commands waiting, the time, the handovers in flight, and the record each block keeps. -/
structure State where
  pending : List Instr
  now : Time
  handovers : List Handover
  smc : Smc
  clp : Clp
  tbm : Tbm
  ckt : Ckt
  asc : Asc
  ceu : Ceu
  phc : Phc
  tga : Tga
  vdr : Vdr
  lfs : Lfs
  fmg : Fmg
  trb : Trb
  cst : Cst
  freeCount : Nat
deriving DecidableEq, Repr

/-- The Calibration Store of a part with a blank store, after a reset: every page erased, the IDENT mark alone set
(R163), no operation and no result (R164), the region records not yet read (log 6, 7). -/
def Cst.blankStore : Cst where
  pages := List.replicate 36 .erased
  locks := ⟨true, false, false, false, false, false, false, false⟩
  regions := .all ⟨.blank, 0⟩
  op := .idle
  sweep := .none
  lastSave := none
  guardOn := false
  identStatus := .blank
  identity := none

/-- The part right after the release of a POWER_ON reset with 13.5 V on VSNS: INIT, with the start-up timer running
for 20 ms (R173, R174; log 5). -/
def State.reset : State where
  pending := []
  now := 0
  handovers := []
  smc := ⟨.init, .normal, 135, .powerOn, false, false, false, some 40000, false, none⟩
  clp := .reset
  tbm := .reset
  ckt := .reset
  asc := ⟨[], []⟩
  ceu := .reset
  phc := .reset
  tga := .reset
  vdr := .reset
  lfs := .reset 0
  fmg := ⟨.clean, .all .none, .all false, false⟩
  trb := .reset
  cst := .blankStore
  freeCount := 0

/-- The outcome of one step. -/
abbrev Outcome := Host.Outcome State Fault Refusal

end Sys2Proof.Machine
end

