-- ==== Sys2Proof/Machine/Ops.lean ====
section
/-! DEFINITION. The operations that the meanings share: reading and writing one channel's, unit's or output's record,
the order of names and their numbers, time, handing work from one block to another and taking it, reports, notices,
replies and the transmitter. -/

namespace Sys2Proof.Machine

/-! ### One value among several -/

/-- The value for one channel. -/
def PerChan.get {α : Type} (p : PerChan α) : Chan → α
  | .IN1 => p.in1
  | .EX1 => p.ex1
  | .IN2 => p.in2
  | .EX2 => p.ex2

/-- Replaces the value for one channel. -/
def PerChan.set {α : Type} (p : PerChan α) (i : Chan) (a : α) : PerChan α :=
  match i with
  | .IN1 => { p with in1 := a }
  | .EX1 => { p with ex1 := a }
  | .IN2 => { p with in2 := a }
  | .EX2 => { p with ex2 := a }

/-- Applies `f` to every value. -/
def PerChan.map {α β : Type} (f : Chan → α → β) (p : PerChan α) : PerChan β :=
  ⟨f .IN1 p.in1, f .EX1 p.ex1, f .IN2 p.in2, f .EX2 p.ex2⟩

/-- The values in order. -/
def PerChan.toList {α : Type} (p : PerChan α) : List α := [p.in1, p.ex1, p.in2, p.ex2]

/-- The value for one unit. -/
def PerUnit.get {α : Type} (p : PerUnit α) : LiftUnit → α
  | .L1 => p.l1
  | .L2 => p.l2

/-- Replaces the value for one unit. -/
def PerUnit.set {α : Type} (p : PerUnit α) (i : LiftUnit) (a : α) : PerUnit α :=
  match i with
  | .L1 => { p with l1 := a }
  | .L2 => { p with l2 := a }

/-- Applies `f` to every value. -/
def PerUnit.map {α β : Type} (f : LiftUnit → α → β) (p : PerUnit α) : PerUnit β :=
  ⟨f .L1 p.l1, f .L2 p.l2⟩

/-- The values in order. -/
def PerUnit.toList {α : Type} (p : PerUnit α) : List α := [p.l1, p.l2]

/-- The value for one line A to D. -/
def PerOcv.get {α : Type} (p : PerOcv α) : LineABCD → α
  | .A => p.a
  | .B => p.b
  | .C => p.c
  | .D => p.d

/-- Replaces the value for one line A to D. -/
def PerOcv.set {α : Type} (p : PerOcv α) (i : LineABCD) (a : α) : PerOcv α :=
  match i with
  | .A => { p with a := a }
  | .B => { p with b := a }
  | .C => { p with c := a }
  | .D => { p with d := a }

/-- Applies `f` to every value. -/
def PerOcv.map {α β : Type} (f : LineABCD → α → β) (p : PerOcv α) : PerOcv β :=
  ⟨f .A p.a, f .B p.b, f .C p.c, f .D p.d⟩

/-- The values in order. -/
def PerOcv.toList {α : Type} (p : PerOcv α) : List α := [p.a, p.b, p.c, p.d]

/-- The value for one line A or B. -/
def PerLs.get {α : Type} (p : PerLs α) : LineAB → α
  | .A => p.a
  | .B => p.b

/-- Replaces the value for one line A or B. -/
def PerLs.set {α : Type} (p : PerLs α) (i : LineAB) (a : α) : PerLs α :=
  match i with
  | .A => { p with a := a }
  | .B => { p with b := a }

/-- Applies `f` to every value. -/
def PerLs.map {α β : Type} (f : LineAB → α → β) (p : PerLs α) : PerLs β :=
  ⟨f .A p.a, f .B p.b⟩

/-- The values in order. -/
def PerLs.toList {α : Type} (p : PerLs α) : List α := [p.a, p.b]

/-- The value for one fault kind. -/
def PerKind.get {α : Type} (p : PerKind α) : FaultKind → α
  | .syncSlip => p.syncSlip
  | .crankNoise => p.crankNoise
  | .camPattern => p.camPattern
  | .camMissing => p.camMissing
  | .phaserStuck => p.phaserStuck
  | .parkFail => p.parkFail
  | .driverShort => p.driverShort
  | .driverOpen => p.driverOpen
  | .oilLow => p.oilLow
  | .hostStale => p.hostStale
  | .liftNoConfirm => p.liftNoConfirm
  | .liftPosition => p.liftPosition
  | .liftMismatch => p.liftMismatch
  | .supplyLow => p.supplyLow
  | .storeDamaged => p.storeDamaged
  | .traceMissed => p.traceMissed

/-- Replaces the value for one fault kind. -/
def PerKind.set {α : Type} (p : PerKind α) (i : FaultKind) (a : α) : PerKind α :=
  match i with
  | .syncSlip => { p with syncSlip := a }
  | .crankNoise => { p with crankNoise := a }
  | .camPattern => { p with camPattern := a }
  | .camMissing => { p with camMissing := a }
  | .phaserStuck => { p with phaserStuck := a }
  | .parkFail => { p with parkFail := a }
  | .driverShort => { p with driverShort := a }
  | .driverOpen => { p with driverOpen := a }
  | .oilLow => { p with oilLow := a }
  | .hostStale => { p with hostStale := a }
  | .liftNoConfirm => { p with liftNoConfirm := a }
  | .liftPosition => { p with liftPosition := a }
  | .liftMismatch => { p with liftMismatch := a }
  | .supplyLow => { p with supplyLow := a }
  | .storeDamaged => { p with storeDamaged := a }
  | .traceMissed => { p with traceMissed := a }

/-- Applies `f` to every value. -/
def PerKind.map {α β : Type} (f : FaultKind → α → β) (p : PerKind α) : PerKind β :=
  ⟨f .syncSlip p.syncSlip, f .crankNoise p.crankNoise, f .camPattern p.camPattern, f .camMissing p.camMissing, f .phaserStuck p.phaserStuck, f .parkFail p.parkFail, f .driverShort p.driverShort, f .driverOpen p.driverOpen, f .oilLow p.oilLow, f .hostStale p.hostStale, f .liftNoConfirm p.liftNoConfirm, f .liftPosition p.liftPosition, f .liftMismatch p.liftMismatch, f .supplyLow p.supplyLow, f .storeDamaged p.storeDamaged, f .traceMissed p.traceMissed⟩

/-- The values in order. -/
def PerKind.toList {α : Type} (p : PerKind α) : List α := [p.syncSlip, p.crankNoise, p.camPattern, p.camMissing, p.phaserStuck, p.parkFail, p.driverShort, p.driverOpen, p.oilLow, p.hostStale, p.liftNoConfirm, p.liftPosition, p.liftMismatch, p.supplyLow, p.storeDamaged, p.traceMissed]

/-- The value for one region. -/
def PerRegion.get {α : Type} (p : PerRegion α) : Region → α
  | .ident => p.ident
  | .layout => p.layout
  | .tuning => p.tuning
  | .response => p.response
  | .mapIn1 => p.mapIn1
  | .mapEx1 => p.mapEx1
  | .mapIn2 => p.mapIn2
  | .mapEx2 => p.mapEx2

/-- Replaces the value for one region. -/
def PerRegion.set {α : Type} (p : PerRegion α) (i : Region) (a : α) : PerRegion α :=
  match i with
  | .ident => { p with ident := a }
  | .layout => { p with layout := a }
  | .tuning => { p with tuning := a }
  | .response => { p with response := a }
  | .mapIn1 => { p with mapIn1 := a }
  | .mapEx1 => { p with mapEx1 := a }
  | .mapIn2 => { p with mapIn2 := a }
  | .mapEx2 => { p with mapEx2 := a }

/-- Applies `f` to every value. -/
def PerRegion.map {α β : Type} (f : Region → α → β) (p : PerRegion α) : PerRegion β :=
  ⟨f .ident p.ident, f .layout p.layout, f .tuning p.tuning, f .response p.response, f .mapIn1 p.mapIn1, f .mapEx1 p.mapEx1, f .mapIn2 p.mapIn2, f .mapEx2 p.mapEx2⟩

/-- The values in order. -/
def PerRegion.toList {α : Type} (p : PerRegion α) : List α := [p.ident, p.layout, p.tuning, p.response, p.mapIn1, p.mapEx1, p.mapIn2, p.mapEx2]

/-- The value for one output. -/
def PerOut.get {α : Type} (p : PerOut α) : Out → α
  | .ocv o => p.ocv.get o
  | .ls o => p.ls.get o

/-- Replaces the value for one output. -/
def PerOut.set {α : Type} (p : PerOut α) (i : Out) (a : α) : PerOut α :=
  match i with
  | .ocv o => { p with ocv := p.ocv.set o a }
  | .ls o => { p with ls := p.ls.set o a }
/-! ### Names in their order (00, Names) -/

/-- Channels 1 to 4. -/
def allChans : List Chan := [.IN1, .EX1, .IN2, .EX2]
/-- Units 1 and 2. -/
def allUnits : List LiftUnit := [.L1, .L2]
/-- Lines A to D. -/
def allABCD : List LineABCD := [.A, .B, .C, .D]
/-- Lines A and B. -/
def allAB : List LineAB := [.A, .B]
/-- The six outputs, in the order of R140. -/
def allOuts : List Out := [.ocv .A, .ocv .B, .ocv .C, .ocv .D, .ls .A, .ls .B]
/-- The regions in the order of their ids (R162), which is the order of the start-up load (R174). -/
def allRegions : List Region := [.ident, .layout, .tuning, .response, .mapIn1, .mapEx1, .mapIn2, .mapEx2]

/-- The number of a channel (00, Names). -/
def chanNum : Chan → Nat
  | .IN1 => 1
  | .EX1 => 2
  | .IN2 => 3
  | .EX2 => 4

/-- The number of a unit (00, Names). -/
def unitNum : LiftUnit → Nat
  | .L1 => 1
  | .L2 => 2

/-- The channel of a number 1 to 4. -/
def chanOf : Nat → Option Chan
  | 1 => some .IN1
  | 2 => some .EX1
  | 3 => some .IN2
  | 4 => some .EX2
  | _ => none

/-- The unit of a number 1 or 2. -/
def unitOf : Nat → Option LiftUnit
  | 1 => some .L1
  | 2 => some .L2
  | _ => none

/-- A unit's intake channel (00, Names). -/
def intake : LiftUnit → Chan
  | .L1 => .IN1
  | .L2 => .IN2

/-- The other unit of the pair. -/
def otherUnit : LiftUnit → LiftUnit
  | .L1 => .L2
  | .L2 => .L1

/-- Cam inputs and OCV drivers share their letters with the kinds of line of CONFLICT (R10). -/
def abOf : LineAB → LineABCD
  | .A => .A
  | .B => .B

/-! ### Time (log 1) -/

/-- A number of milliseconds in units of 0.5 µs. -/
def ms (n : Nat) : Time := 2000 * n
/-- A number of tenths of a millisecond in units of 0.5 µs. -/
def tenthsMs (n : Nat) : Time := 200 * n
/-- A number of microseconds in units of 0.5 µs. -/
def micros (n : Nat) : Time := 2 * n

/-- The free-running 32-bit time base (00, Other quantities). -/
def State.timeBase (s : State) : Word32 := BitVec.ofNat 32 s.now

/-- `dt` units pass. -/
def State.pass (s : State) (dt : Nat) : State := { s with now := s.now + dt }

/-- The time is at least `t`: an expiry at `t` is taken (log 4). -/
def State.reachTime (s : State) (t : Time) : State := { s with now := max s.now t }

/-! ### One record of the state -/

/-- Replaces a channel record. -/
def State.setChan (s : State) (ch : Chan) (r : ChanRec) : State := { s with phc := { s.phc with chans := s.phc.chans.set ch r } }
/-- Changes a channel record. -/
def State.updChan (s : State) (ch : Chan) (f : ChanRec → ChanRec) : State := s.setChan ch (f (s.phc.chans.get ch))
/-- Replaces a unit record. -/
def State.setUnit (s : State) (u : LiftUnit) (r : UnitRec) : State := { s with lfs := { s.lfs with units := s.lfs.units.set u r } }
/-- Changes a unit record. -/
def State.updUnit (s : State) (u : LiftUnit) (f : UnitRec → UnitRec) : State := s.setUnit u (f (s.lfs.units.get u))
/-- Replaces an OCV record. -/
def State.setOcv (s : State) (o : LineABCD) (r : OcvRec) : State := { s with vdr := { s.vdr with ocv := s.vdr.ocv.set o r } }
/-- Changes an OCV record. -/
def State.updOcv (s : State) (o : LineABCD) (f : OcvRec → OcvRec) : State := s.setOcv o (f (s.vdr.ocv.get o))
/-- Replaces an LS record. -/
def State.setLs (s : State) (o : LineAB) (r : LsRec) : State := { s with vdr := { s.vdr with ls := s.vdr.ls.set o r } }
/-- Changes an LS record. -/
def State.updLs (s : State) (o : LineAB) (f : LsRec → LsRec) : State := s.setLs o (f (s.vdr.ls.get o))
/-- Replaces a channel's record in the Cam Edge Unit. -/
def State.setCeu (s : State) (ch : Chan) (r : CeuChan) : State := { s with ceu := { s.ceu with chans := s.ceu.chans.set ch r } }
/-- Changes a channel's record in the Cam Edge Unit. -/
def State.updCeu (s : State) (ch : Chan) (f : CeuChan → CeuChan) : State := s.setCeu ch (f (s.ceu.chans.get ch))
/-- Replaces a channel's record in the Target Arbiter. -/
def State.setTga (s : State) (ch : Chan) (r : TgaChan) : State := { s with tga := { s.tga with chans := s.tga.chans.set ch r } }
/-- Changes a channel's record in the Target Arbiter. -/
def State.updTga (s : State) (ch : Chan) (f : TgaChan → TgaChan) : State := s.setTga ch (f (s.tga.chans.get ch))

/-- Applies a change for each element, in order. -/
def forEach {α : Type} (l : List α) (f : State → α → State) (s : State) : State := l.foldl f s

/-! ### Angles and what the layout in force says (R3) -/

/-- The forward distance from `a` to `b` in a circle of `m` units (00, Angles). -/
def forward (m a b : Nat) : Nat := (b + m - a % m) % m

/-- One engine cycle, in au. -/
def cycleAu : Nat := 11520
/-- One crank revolution, in au. -/
def revAu : Nat := 5760

/-- An angle later by `d`. -/
def later (a d : Nat) : Nat := (a + d) % cycleAu

/-- The end of the matching window of an expected edge with nominal angle `n` (R3). -/
def CamItem.windowEnd (c : CamItem) (n : Nat) : Nat :=
  match c.dir with
  | .adv => later n c.halfWidth
  | .ret => later n (c.range + c.halfWidth)

/-- The angle of the EDGE_CLOSE of expected edge `k`, from 1, of a channel of the layout in force (R42). -/
def State.closeAngle (s : State) (ch : Chan) (k : Nat) : Option Nat :=
  match s.tbm.inForce.cam.get ch, (s.tbm.inForce.edges.get ch)[k - 1]? with
  | some c, some e => some (c.windowEnd e.angle)
  | _, _ => none

/-- Whether the layout in force binds a channel (R3, R94; log 33). -/
def BindItem.bound (b : BindItem) : Bool := b.cam.isSome && b.driver.isSome
/-- Whether the layout binds a unit (R3). -/
def LiftItem.bound (b : LiftItem) : Bool := b.driver.isSome && b.sense.isSome
/-- Whether the layout in force binds a channel. -/
def State.chanBound (s : State) (ch : Chan) : Bool := (s.tbm.inForce.bind.get ch).bound
/-- Whether the layout in force binds a unit. -/
def State.unitBound (s : State) (u : LiftUnit) : Bool := (s.tbm.inForce.lift.get u).bound
/-- The output that a channel of the layout in force binds. -/
def State.chanDriver (s : State) (ch : Chan) : Option LineABCD := if s.chanBound ch then (s.tbm.inForce.bind.get ch).driver else none
/-- The LS output that a unit of the layout in force binds. -/
def State.unitDriver (s : State) (u : LiftUnit) : Option LineAB := if s.unitBound u then (s.tbm.inForce.lift.get u).driver else none
/-- A save of a region exists, running or suspended (R165). -/
def State.saving (s : State) (r : Region) : Bool :=
  match s.cst.op.kind with
  | .save r' _ _ => r' == r
  | _ => false

/-- The part is in RUN (R175). -/
def State.inRun (s : State) : Bool := s.smc.mode == .run

/-! ### Handovers (log 2) -/

/-- The path on which a handover travels: handovers of one lane keep their order, handovers of different lanes have
none (R39, R52, R96, R117, R147) but for those that `State.heldBack` gives. Reports of one block have a lane for each
record, so those to different records have no order among themselves (R139; log 2). -/
inductive Lane
  | refReport | ascLock | ceuLock | ceuSchedule | phcMeasure (ch : Chan) | phcCrank (ch : Chan) | phcClaim (ch : Chan)
  | phcSupply (ch : Chan) | phcResponse (ch : Chan) | phcSource (ch : Chan) | phcDriver (ch : Chan) | phcOil | phcOppt
  | tgaCycle | tgaResponse (ch : Chan) | trbCycle | trbEdge | trbLock | trbPush | lift | lfsCrank (u : LiftUnit)
  | lfsResponse (u : LiftUnit) | lfsStuck (u : LiftUnit) | sense (u : LiftUnit) | duty (o : LineABCD)
  | solenoid (o : LineAB) | enable (out : Out) | driverClear (out : Out) | report (src : Block) (id : FaultId)
  | lockout | supply | notice (src : Block)
deriving DecidableEq, Repr

/-- The lane of a handover. -/
def Handover.lane : Handover → Lane
  | .referenceReport _ _ => .refReport
  | .ascLock _ => .ascLock
  | .ceuLock _ => .ceuLock
  | .ceuEdgeClose _ _ _ _ => .ceuSchedule
  | .ceuCycleStart _ _ => .ceuSchedule
  | .phcMatch ch _ _ _ _ => .phcMeasure ch
  | .phcMissing ch _ _ => .phcMeasure ch
  | .phcLockLost ch => .phcCrank ch
  | .phcStart ch => .phcCrank ch
  | .phcClaim ch _ => .phcClaim ch
  | .phcSupply ch _ => .phcSupply ch
  | .phcResponse ch _ => .phcResponse ch
  | .phcSource ch _ => .phcSource ch
  | .phcDriverFault ch _ => .phcDriver ch
  | .phcClass1 ch => .phcDriver ch
  | .phcDriverClear ch => .phcDriver ch
  | .phcOil _ => .phcOil
  | .phcOpptChanged => .phcOppt
  | .tgaCycleStart _ _ => .tgaCycle
  | .tgaResponse ch _ => .tgaResponse ch
  | .trbCycleStart _ _ => .trbCycle
  | .trbEdge _ => .trbEdge
  | .trbLockLost => .trbLock
  | .trbPush _ => .trbPush
  | .liftEntry _ _ _ => .lift
  | .lfsLockLost u => .lfsCrank u
  | .lfsStart u => .lfsCrank u
  | .lfsResponse u _ => .lfsResponse u
  | .stuckAction u => .lfsStuck u
  | .unitClear u => .lfsStuck u
  | .senseChange u _ => .sense u
  | .dutyWrite o _ _ => .duty o
  | .solenoid o _ => .solenoid o
  | .enableEvaluation out => .enable out
  | .vdrDriverClear out => .driverClear out
  | .report src id _ => .report src id
  | .lockoutChange => .lockout
  | .cstSupply _ => .supply
  | .notice src _ => .notice src

/-- Hands work to its receiver, which takes it in a later step. -/
def State.hand (s : State) (h : Handover) : State := { s with handovers := s.handovers ++ [h] }

/-- Takes out the first handover that `want` accepts and that no earlier one of its lane stands before. -/
def takeFrom {α : Type} (want : Handover → Option α) (blocked : List Lane) :
    List Handover → Option (α × List Handover)
  | [] => none
  | h :: t =>
    match if blocked.contains h.lane then none else want h with
    | some a => some (a, t)
    | none => (takeFrom want (h.lane :: blocked) t).map fun r => (r.1, h :: r.2)

/-- What a handover has to wait for beside the earlier ones of its lane. An entry of the schedule, at its own angle of its
own cycle, where R43 gives the order of entries that share an angle a purpose: an EDGE_CLOSE is not taken before a
LIFT_CLOSE there, which ends a switch; a LIFT_DECIDE is not taken before its unit's intake channel has been told of an
edge missing there, so neither before an EDGE_CLOSE of that channel nor before the measurement missing that comes of one
(log 2). A duty write or a solenoid request to a DISABLED output is not taken before an enable evaluation of that output
which is on its way, so that none is lost to an evaluation still to come (R114, R117; log 53). -/
def State.heldBack (s : State) : Handover → Bool
  | .ceuEdgeClose _ _ angle cycle => s.handovers.any fun h =>
    match h with
    | .liftEntry (.liftClose _) a c => a == angle && c == cycle
    | _ => false
  | .liftEntry (.liftDecide u) angle cycle => s.handovers.any fun h =>
    match h with
    | .ceuEdgeClose ch _ a c => ch == intake u && a == angle && c == cycle
    | .phcMissing ch k c => ch == intake u && s.closeAngle ch k == some angle && c == cycle
    | _ => false
  | .dutyWrite o _ _ => !(s.vdr.ocv.get o).enabled && s.handovers.contains (.enableEvaluation (.ocv o))
  | .solenoid o _ => !(s.vdr.ls.get o).enabled && s.handovers.contains (.enableEvaluation (.ls o))
  | _ => false

/-- Takes a handover from those in flight. One that is held back is not there to be taken yet. -/
def State.take {α : Type} (s : State) (want : Handover → Option α) : Option (α × State) :=
  (takeFrom (fun h => if s.heldBack h then none else want h) [] s.handovers).map fun r =>
    (r.1, { s with handovers := r.2 })

/-- A step that takes a handover: what `act` makes of it, or the state unchanged where none is in flight (log 3). -/
def State.taking {α : Type} (s : State) (want : Handover → Option α) (act : α → State → State) : State :=
  match s.take want with
  | some (a, s) => act a s
  | none => s

/-- A step that takes a handover after which nothing counts that is `stale` and was handed out before it: such handovers
are dropped with it. -/
def State.takingOver {α : Type} (s : State) (want : Handover → Option α) (stale : Handover → Bool)
    (act : α → State → State) : State :=
  let before := s.handovers.takeWhile fun h => (want h).isNone
  let rest := (before.filter fun h => !stale h) ++ s.handovers.drop (before.length + 1)
  s.taking want fun a s => act a { s with handovers := rest }

/-- A report to the Fault Manager (R139). -/
def State.report (s : State) (src : Block) (id : FaultId) (kind : ReportKind) : State := s.hand (.report src id kind)

/-- A notice for the CLP (R183). -/
def State.notice (s : State) (src : Block) (n : Notice) : State := s.hand (.notice src n)

/-! ### The transmitter and the replies (R180, R182) -/

/-- An idle transmitter begins the next reply line, else the oldest notice (R182). -/
def Clp.pump (c : Clp) : Clp :=
  match c.sending with
  | some _ => c
  | none =>
    match c.replies with
    | l :: rest => { c with sending := some (.reply l), replies := rest }
    | [] =>
      match c.queue with
      | n :: rest => { c with sending := some (.notice n), queue := rest }
      | [] => c

/-- Changes the port's record. -/
def State.updClp (s : State) (f : Clp → Clp) : State := { s with clp := f s.clp }

/-- Status codes that are no refusal (R180). -/
def Status.accepts : Status → Bool
  | .ok => true
  | .accepted => true
  | _ => false

/-- The word of a status code (R180). -/
def Status.token : Status → Token
  | .ok => .OK
  | .accepted => .ACCEPTED
  | .check => .CHECK
  | .long => .LONG
  | .unknown => .UNKNOWN
  | .format => .FORMAT
  | .range => .RANGE
  | .mode => .MODE
  | .state => .STATE
  | .unbound => .UNBOUND
  | .busy => .BUSY
  | .protect => .PROTECTED
  | .notArmed => .NOT_ARMED
  | .empty => .EMPTY
  | .layout => .LAYOUT

/-- Gives a single-line reply: keyword, status code, fields. A status other than OK or ACCEPTED is kept in the
last-refusal record (R180). -/
def Clp.answer (c : Clp) (key : LineKey) (status : Status) (fields : List Field) : Clp :=
  Clp.pump { c with
    replies := c.replies ++ [⟨.reply, key, .word status.token :: fields⟩]
    lastRefusal := if status.accepts then c.lastRefusal else some (key, status) }

/-- Gives a run of reply lines closed by an end line (R180). -/
def Clp.answerRun (c : Clp) (key : LineKey) (lines : List (List Field)) : Clp :=
  Clp.pump { c with replies := c.replies ++ (lines.map fun f => Line.mk .reply key f)
      ++ [⟨.reply, key, [.word .END, .num lines.length]⟩] }

/-- A single-line reply to a request. -/
def State.answer (s : State) (k : Keyword) (status : Status) (fields : List Field := []) : State :=
  s.updClp fun c => c.answer (.kw k) status fields

/-- A run of lines in reply to a request. -/
def State.answerRun (s : State) (k : Keyword) (lines : List (List Field)) : State :=
  s.updClp fun c => c.answerRun (.kw k) lines

/-- Requests that read the arm record before emptying it (R181). -/
def consumesArm : Keyword → Bool
  | .RSET => true
  | .LOCK => true
  | .CLRL => true
  | _ => false

/-- The reply to the request before has been sent in full (R180). -/
def Clp.free (c : Clp) : Bool :=
  !c.answering && c.replies.isEmpty &&
    match c.sending with
    | some (.reply _) => false
    | _ => true

/-- Requests are taken in STANDBY and RUN, until an accepted RSET (R174, R176; log 30). -/
def State.takesRequests (s : State) : Bool := !s.smc.inReset && s.smc.mode != .init && !s.smc.resetAsked

/-- Whether a request row performs now: it is the request the CLP has dispatched, or none is being answered and it is
handed in whole (log 3). -/
def State.dispatches (s : State) (k : Keyword) (fields : List Field) : Bool :=
  s.takesRequests &&
    match s.clp.request with
    | some r => r == ⟨k, fields⟩
    | none => s.clp.free

/-- Performs a request: the dispatched request is done with, and the arm record is empty unless the request consumes
it (R180, R181). Nothing happens where the row does not perform now. -/
def State.request (s : State) (k : Keyword) (fields : List Field) (act : State → State) : State :=
  if s.dispatches k fields then
    act (s.updClp fun c => { c with request := none, arm := if consumesArm k then c.arm else none })
  else s

/-! ### Numbers -/

/-- Division of the manual's positive quantities; a quotient by zero is left open (log 13). -/
def quotient (n d : Nat) : Nat := if d = 0 then Config.quotientByZero n else n / d

/-- An integer clamped between two bounds. -/
def clampInt (lo hi x : Int) : Int := if x < lo then lo else if hi < x then hi else x

/-- Plus one, up to a bound where it saturates. -/
def bump (bound n : Nat) : Nat := if n < bound then n + 1 else n

end Sys2Proof.Machine
end

