-- ==== Sys2Proof/Machine/Operands.lean ====
section
/-! DEFINITION. How the fields of lines are spelled and read: words, decimal values, hexadecimal digits, the checksum,
whole lines; and the words that stand for the values of the part's records (R178, R180; log 18, 19). -/

namespace Sys2Proof.Machine

/-! ### Characters -/

/-- The codes of a text. -/
def codes (t : String) : List Byte := t.toList.map fun c => BitVec.ofNat 8 c.toNat

/-- The characters of a word of the manual. -/
def tokenCodes : Token → List Byte
  | .WHEEL => codes "WHEEL"
  | .CYL => codes "CYL"
  | .CAM => codes "CAM"
  | .EDGE => codes "EDGE"
  | .BIND => codes "BIND"
  | .LIFT => codes "LIFT"
  | .PWM => codes "PWM"
  | .ORIGIN => codes "ORIGIN"
  | .ADV => codes "ADV"
  | .RET => codes "RET"
  | .YES => codes "YES"
  | .NO => codes "NO"
  | .RISE => codes "RISE"
  | .FALL => codes "FALL"
  | .A => codes "A"
  | .B => codes "B"
  | .C => codes "C"
  | .D => codes "D"
  | .KP => codes "KP"
  | .KI => codes "KI"
  | .ILIM => codes "ILIM"
  | .HOLD0 => codes "HOLD0"
  | .DMIN => codes "DMIN"
  | .DMAX => codes "DMAX"
  | .DEADBAND => codes "DEADBAND"
  | .SLEW => codes "SLEW"
  | .RELEASE_RPM => codes "RELEASE_RPM"
  | .RELEASE_KPA => codes "RELEASE_KPA"
  | .HOLD_KPA => codes "HOLD_KPA"
  | .RELEASE_DUTY => codes "RELEASE_DUTY"
  | .RELEASE_MS => codes "RELEASE_MS"
  | .PARK_TOL => codes "PARK_TOL"
  | .PARK_MS => codes "PARK_MS"
  | .STEP => codes "STEP"
  | .STUCK_CYCLES => codes "STUCK_CYCLES"
  | .MOVE_MIN => codes "MOVE_MIN"
  | .TRAVEL_MS => codes "TRAVEL_MS"
  | .MARGIN_MS => codes "MARGIN_MS"
  | .CEILING_RPM => codes "CEILING_RPM"
  | .UP_RPM => codes "UP_RPM"
  | .UP_LOAD => codes "UP_LOAD"
  | .DOWN_RPM => codes "DOWN_RPM"
  | .DOWN_LOAD => codes "DOWN_LOAD"
  | .STALE_MS => codes "STALE_MS"
  | .HOLD_LIMIT_MS => codes "HOLD_LIMIT_MS"
  | .CH => codes "CH"
  | .ROW => codes "ROW"
  | .RPM => codes "RPM"
  | .LOAD => codes "LOAD"
  | .DERATE => codes "DERATE"
  | .AVAIL => codes "AVAIL"
  | .RUN => codes "RUN"
  | .STANDBY => codes "STANDBY"
  | .RESET => codes "RESET"
  | .LOCK => codes "LOCK"
  | .CLRL => codes "CLRL"
  | .FLT => codes "FLT"
  | .SYN => codes "SYN"
  | .CHS => codes "CHS"
  | .LFT => codes "LFT"
  | .TRC => codes "TRC"
  | .STO => codes "STO"
  | .MOD => codes "MOD"
  | .RDY => codes "RDY"
  | .ON => codes "ON"
  | .OFF => codes "OFF"
  | .L => codes "L"
  | .H => codes "H"
  | .SYNC_SLIP => codes "SYNC_SLIP"
  | .CRANK_NOISE => codes "CRANK_NOISE"
  | .CAM_PATTERN => codes "CAM_PATTERN"
  | .CAM_MISSING => codes "CAM_MISSING"
  | .PHASER_STUCK => codes "PHASER_STUCK"
  | .PARK_FAIL => codes "PARK_FAIL"
  | .DRIVER_SHORT => codes "DRIVER_SHORT"
  | .DRIVER_OPEN => codes "DRIVER_OPEN"
  | .OIL_LOW => codes "OIL_LOW"
  | .HOST_STALE => codes "HOST_STALE"
  | .LIFT_NO_CONFIRM => codes "LIFT_NO_CONFIRM"
  | .LIFT_POSITION => codes "LIFT_POSITION"
  | .LIFT_MISMATCH => codes "LIFT_MISMATCH"
  | .SUPPLY_LOW => codes "SUPPLY_LOW"
  | .STORE_DAMAGED => codes "STORE_DAMAGED"
  | .TRACE_MISSED => codes "TRACE_MISSED"
  | .OCVA => codes "OCVA"
  | .OCVB => codes "OCVB"
  | .OCVC => codes "OCVC"
  | .OCVD => codes "OCVD"
  | .LSA => codes "LSA"
  | .LSB => codes "LSB"
  | .FORCE => codes "FORCE"
  | .ALL => codes "ALL"
  | .NONE => codes "NONE"
  | .HOLD => codes "HOLD"
  | .PARK => codes "PARK"
  | .OWN => codes "OWN"
  | .LOW => codes "LOW"
  | .IDENT => codes "IDENT"
  | .LAYOUT => codes "LAYOUT"
  | .TUNING => codes "TUNING"
  | .RESPONSE => codes "RESPONSE"
  | .MAP_IN1 => codes "MAP_IN1"
  | .MAP_EX1 => codes "MAP_EX1"
  | .MAP_IN2 => codes "MAP_IN2"
  | .MAP_EX2 => codes "MAP_EX2"
  | .OK => codes "OK"
  | .ACCEPTED => codes "ACCEPTED"
  | .CHECK => codes "CHECK"
  | .LONG => codes "LONG"
  | .UNKNOWN => codes "UNKNOWN"
  | .FORMAT => codes "FORMAT"
  | .RANGE => codes "RANGE"
  | .MODE => codes "MODE"
  | .STATE => codes "STATE"
  | .UNBOUND => codes "UNBOUND"
  | .BUSY => codes "BUSY"
  | .PROTECTED => codes "PROTECTED"
  | .NOT_ARMED => codes "NOT_ARMED"
  | .EMPTY => codes "EMPTY"
  | .END => codes "END"
  | .STOPPED => codes "STOPPED"
  | .SEEKING => codes "SEEKING"
  | .CRANK_LOCKED => codes "CRANK_LOCKED"
  | .CYCLE_LOCKED => codes "CYCLE_LOCKED"
  | .INIT => codes "INIT"
  | .POWER_ON => codes "POWER_ON"
  | .BROWNOUT => codes "BROWNOUT"
  | .LINE => codes "LINE"
  | .LINE_REQUEST => codes "LINE_REQUEST"
  | .NORMAL => codes "NORMAL"
  | .BELOW_PROGRAM => codes "BELOW_PROGRAM"
  | .BELOW_DRIVE => codes "BELOW_DRIVE"
  | .LOADED => codes "LOADED"
  | .EDITED => codes "EDITED"
  | .BLANK => codes "BLANK"
  | .DEFAULT => codes "DEFAULT"
  | .UNUSED => codes "UNUSED"
  | .PARKED => codes "PARKED"
  | .RELEASING => codes "RELEASING"
  | .TRACKING => codes "TRACKING"
  | .HOLDING => codes "HOLDING"
  | .PARKING => codes "PARKING"
  | .DRIVE_TEST => codes "DRIVE_TEST"
  | .FAULTED => codes "FAULTED"
  | .LOCKOUT => codes "LOCKOUT"
  | .CLAIM => codes "CLAIM"
  | .SUPPLY => codes "SUPPLY"
  | .MEASURE => codes "MEASURE"
  | .RELEASE => codes "RELEASE"
  | .RELEASED => codes "RELEASED"
  | .RESUME => codes "RESUME"
  | .SOURCE => codes "SOURCE"
  | .LOST => codes "LOST"
  | .OIL => codes "OIL"
  | .LIMIT => codes "LIMIT"
  | .SETTLED => codes "SETTLED"
  | .TIMEOUT => codes "TIMEOUT"
  | .TEST => codes "TEST"
  | .TEST_END => codes "TEST_END"
  | .ABANDON => codes "ABANDON"
  | .DRIVER => codes "DRIVER"
  | .DRIVER_CLEAR => codes "DRIVER_CLEAR"
  | .DOUBLE => codes "DOUBLE"
  | .HOST => codes "HOST"
  | .MAP => codes "MAP"
  | .RAISE_WAIT => codes "RAISE_WAIT"
  | .RAISING => codes "RAISING"
  | .HIGH => codes "HIGH"
  | .LOWER_WAIT => codes "LOWER_WAIT"
  | .LOWERING => codes "LOWERING"
  | .STUCK => codes "STUCK"
  | .CONFIRM => codes "CONFIRM"
  | .WITHDRAWN => codes "WITHDRAWN"
  | .NO_CONFIRM => codes "NO_CONFIRM"
  | .CLEAR => codes "CLEAR"
  | .INACTIVE => codes "INACTIVE"
  | .PENDING => codes "PENDING"
  | .ACTIVE => codes "ACTIVE"
  | .LATCHED => codes "LATCHED"
  | .START => codes "START"
  | .TEETH => codes "TEETH"
  | .HALF => codes "HALF"
  | .COUNT => codes "COUNT"
  | .HALF_SLIP => codes "HALF_SLIP"
  | .STALL => codes "STALL"
  | .SET => codes "SET"
  | .FREE => codes "FREE"
  | .FILLING => codes "FILLING"
  | .READY => codes "READY"
  | .REQUEST => codes "REQUEST"
  | .STRAY => codes "STRAY"
  | .SAVE => codes "SAVE"
  | .SWEEP => codes "SWEEP"
  | .RUNNING => codes "RUNNING"
  | .SUSPENDED => codes "SUSPENDED"
  | .COMPLETE => codes "COMPLETE"
  | .ABORTED => codes "ABORTED"
  | .CLEAN => codes "CLEAN"
  | .DAMAGED => codes "DAMAGED"
  | .ABANDONED => codes "ABANDONED"
  | .VALID => codes "VALID"
  | .INVALID => codes "INVALID"
  | .GOOD => codes "GOOD"
  | .ERASED => codes "ERASED"
  | .ASSERTED => codes "ASSERTED"
  | .PARTIAL => codes "PARTIAL"
  | .CHANNEL => codes "CHANNEL"
  | .REFERENCE => codes "REFERENCE"
  | .ORDER => codes "ORDER"
  | .OVERLAP => codes "OVERLAP"
  | .CONFLICT => codes "CONFLICT"
  | .INTAKE => codes "INTAKE"
  | .LEAD => codes "LEAD"
  | .CAPACITY => codes "CAPACITY"
  | .CAMIN => codes "CAMIN"
  | .OCV => codes "OCV"
  | .LS => codes "LS"
  | .SENSE => codes "SENSE"

/-- Words of the manual, part 1. -/
def tokens1 : List Token :=
  [.WHEEL, .CYL, .CAM, .EDGE, .BIND, .LIFT, .PWM, .ORIGIN, .ADV, .RET, .YES, .NO, .RISE, .FALL, .A, .B, .C, .D,
   .KP, .KI, .ILIM, .HOLD0, .DMIN, .DMAX, .DEADBAND, .SLEW, .RELEASE_RPM, .RELEASE_KPA, .HOLD_KPA, .RELEASE_DUTY,
   .RELEASE_MS, .PARK_TOL, .PARK_MS, .STEP, .STUCK_CYCLES, .MOVE_MIN, .TRAVEL_MS, .MARGIN_MS, .CEILING_RPM,
   .UP_RPM]

/-- Words of the manual, part 2. -/
def tokens2 : List Token :=
  [.UP_LOAD, .DOWN_RPM, .DOWN_LOAD, .STALE_MS, .HOLD_LIMIT_MS, .CH, .ROW, .RPM, .LOAD, .DERATE, .AVAIL, .RUN,
   .STANDBY, .RESET, .LOCK, .CLRL, .FLT, .SYN, .CHS, .LFT, .TRC, .STO, .MOD, .RDY, .ON, .OFF, .L, .H, .SYNC_SLIP,
   .CRANK_NOISE, .CAM_PATTERN, .CAM_MISSING, .PHASER_STUCK, .PARK_FAIL, .DRIVER_SHORT, .DRIVER_OPEN, .OIL_LOW,
   .HOST_STALE, .LIFT_NO_CONFIRM, .LIFT_POSITION]

/-- Words of the manual, part 3. -/
def tokens3 : List Token :=
  [.LIFT_MISMATCH, .SUPPLY_LOW, .STORE_DAMAGED, .TRACE_MISSED, .OCVA, .OCVB, .OCVC, .OCVD, .LSA, .LSB, .FORCE,
   .ALL, .NONE, .HOLD, .PARK, .OWN, .LOW, .IDENT, .LAYOUT, .TUNING, .RESPONSE, .MAP_IN1, .MAP_EX1, .MAP_IN2,
   .MAP_EX2, .OK, .ACCEPTED, .CHECK, .LONG, .UNKNOWN, .FORMAT, .RANGE, .MODE, .STATE, .UNBOUND, .BUSY,
   .PROTECTED, .NOT_ARMED, .EMPTY, .END]

/-- Words of the manual, part 4. -/
def tokens4 : List Token :=
  [.STOPPED, .SEEKING, .CRANK_LOCKED, .CYCLE_LOCKED, .INIT, .POWER_ON, .BROWNOUT, .LINE, .LINE_REQUEST, .NORMAL,
   .BELOW_PROGRAM, .BELOW_DRIVE, .LOADED, .EDITED, .BLANK, .DEFAULT, .UNUSED, .PARKED, .RELEASING, .TRACKING,
   .HOLDING, .PARKING, .DRIVE_TEST, .FAULTED, .LOCKOUT, .CLAIM, .SUPPLY, .MEASURE, .RELEASE, .RELEASED, .RESUME,
   .SOURCE, .LOST, .OIL, .LIMIT, .SETTLED, .TIMEOUT, .TEST, .TEST_END, .ABANDON]

/-- Words of the manual, part 5. -/
def tokens5 : List Token :=
  [.DRIVER, .DRIVER_CLEAR, .DOUBLE, .HOST, .MAP, .RAISE_WAIT, .RAISING, .HIGH, .LOWER_WAIT, .LOWERING, .STUCK,
   .CONFIRM, .WITHDRAWN, .NO_CONFIRM, .CLEAR, .INACTIVE, .PENDING, .ACTIVE, .LATCHED, .START, .TEETH, .HALF,
   .COUNT, .HALF_SLIP, .STALL, .SET, .FREE, .FILLING, .READY, .REQUEST, .STRAY, .SAVE, .SWEEP, .RUNNING,
   .SUSPENDED, .COMPLETE, .ABORTED, .CLEAN, .DAMAGED, .ABANDONED]

/-- Words of the manual, part 6. -/
def tokens6 : List Token :=
  [.VALID, .INVALID, .GOOD, .ERASED, .ASSERTED, .PARTIAL, .CHANNEL, .REFERENCE, .ORDER, .OVERLAP, .CONFLICT,
   .INTAKE, .LEAD, .CAPACITY, .CAMIN, .OCV, .LS, .SENSE]

/-- The words of the manual. -/
def allTokens : List Token := tokens1 ++ tokens2 ++ tokens3 ++ tokens4 ++ tokens5 ++ tokens6

/-- The four letters of a keyword (R178). -/
def keywordCodes : Keyword → List Byte
  | .STAT => codes "STAT"
  | .ARMS => codes "ARMS"
  | .NMSK => codes "NMSK"
  | .IDNT => codes "IDNT"
  | .MODE => codes "MODE"
  | .RSET => codes "RSET"
  | .LAYR => codes "LAYR"
  | .LAYW => codes "LAYW"
  | .TUNR => codes "TUNR"
  | .TUNW => codes "TUNW"
  | .OPPT => codes "OPPT"
  | .MAPR => codes "MAPR"
  | .MAPW => codes "MAPW"
  | .TEST => codes "TEST"
  | .CLRL => codes "CLRL"
  | .RSPR => codes "RSPR"
  | .RSPW => codes "RSPW"
  | .FLTR => codes "FLTR"
  | .FLTC => codes "FLTC"
  | .TRCT => codes "TRCT"
  | .TRCR => codes "TRCR"
  | .TRCF => codes "TRCF"
  | .SAVE => codes "SAVE"
  | .SWEP => codes "SWEP"
  | .ABRT => codes "ABRT"
  | .PAGE => codes "PAGE"
  | .STST => codes "STST"
  | .LOCK => codes "LOCK"

/-- The dispatch list (R180). -/
def allKeywords : List Keyword :=
  [.STAT, .ARMS, .NMSK, .IDNT, .MODE, .RSET, .LAYR, .LAYW, .TUNR, .TUNW, .OPPT, .MAPR, .MAPW, .TEST, .CLRL,
   .RSPR, .RSPW, .FLTR, .FLTC, .TRCT, .TRCR, .TRCF, .SAVE, .SWEP, .ABRT, .PAGE, .STST, .LOCK]

/-- The three letters of a notice's name (R178, R183). -/
def noticeCodes : NoticeKind → List Byte
  | .flt => codes "FLT"
  | .syn => codes "SYN"
  | .chs => codes "CHS"
  | .lft => codes "LFT"
  | .trc => codes "TRC"
  | .sto => codes "STO"
  | .mod => codes "MOD"
  | .rdy => codes "RDY"

/-- A decimal digit's value. -/
def digit? (c : Byte) : Option Nat := if 0x30#8 ≤ c ∧ c ≤ 0x39#8 then some (c.toNat - 48) else none

/-- A hexadecimal digit's value, either case (R178). -/
def hexDigit? (c : Byte) : Option Nat :=
  if 0x30#8 ≤ c ∧ c ≤ 0x39#8 then some (c.toNat - 48)
  else if 0x41#8 ≤ c ∧ c ≤ 0x46#8 then some (c.toNat - 55)
  else if 0x61#8 ≤ c ∧ c ≤ 0x66#8 then some (c.toNat - 87)
  else none

/-- The hexadecimal digit of a value below 16, a capital: R178 says so of the checksum, and the model sends the bytes of a
PAGE in capitals too (R170; log 18). -/
def hexDigit (n : Nat) : Byte := if n < 10 then BitVec.ofNat 8 (48 + n) else BitVec.ofNat 8 (55 + n)

/-- A byte as two hexadecimal digits. -/
def hexByte (b : Byte) : List Byte := [hexDigit (b.toNat / 16), hexDigit (b.toNat % 16)]

/-- The decimal digits of a natural number. -/
def natCodes (n : Nat) : List Byte := (Nat.toDigits 10 n).map fun c => BitVec.ofNat 8 c.toNat

/-- A decimal value, with a leading minus sign where negative (R178). -/
def intCodes : Int → List Byte
  | .ofNat n => natCodes n
  | .negSucc n => 0x2D#8 :: natCodes (n + 1)

/-- The value of a run of decimal digits, or nothing where another character stands in it or it is empty. -/
def readNat? : List Byte → Option Nat
  | [] => none
  | l => l.foldl (fun acc c => do let n ← acc; let d ← digit? c; pure (10 * n + d)) (some 0)

/-- A decimal value (R178). Leading zeros are read, and "-0" is read as 0 (log 19). -/
def readInt? : List Byte → Option Int
  | [] => none
  | c :: rest => if c = 0x2D#8 then (readNat? rest).map fun n => -(n : Int) else (readNat? (c :: rest)).map Int.ofNat

/-! ### Lines (R178) -/

/-- The characters of one field (R178). The bytes of a page are sent in capitals (R170; log 18). -/
def fieldCodes : Field → List Byte
  | .num v => intCodes v
  | .word t => tokenCodes t
  | .absent => [0x2D#8]
  | .other c => c
  | .hex b => b.flatMap hexByte

/-- The field that a run of characters spells. -/
def readField (c : List Byte) : Field :=
  if c = [0x2D#8] then .absent
  else
    match readInt? c with
    | some v => .num v
    | none =>
      match allTokens.find? (fun t => tokenCodes t == c) with
      | some t => .word t
      | none => .other c

/-- The exclusive-or of the codes of a run of characters (R178). -/
def checksum (body : List Byte) : Byte := body.foldl (· ^^^ ·) 0#8

/-- What stands after the lead character. -/
def keyCodes : LineKey → List Byte
  | .kw k => keywordCodes k
  | .dashes => codes "----"
  | .raw c => c
  | .notice k => noticeCodes k

/-- The lead character of a line (R178). -/
def leadCode : Lead → Byte
  | .request => 0x3E#8
  | .reply => 0x3C#8
  | .notice => 0x21#8

/-- The characters of a line between its lead character and its '*'. -/
def Line.body (l : Line) : List Byte := keyCodes l.key ++ l.fields.flatMap fun f => 0x20#8 :: fieldCodes f

/-- The characters of a line, without the closing CR LF (R178). -/
def Line.codes (l : Line) : List Byte := leadCode l.lead :: l.body ++ 0x2A#8 :: hexByte (checksum l.body)

/-- Splits a run of characters at its spaces. -/
def splitSpaces (l : List Byte) : List (List Byte) :=
  l.foldr (fun c acc =>
    if c = 0x20#8 then [] :: acc
    else
      match acc with
      | [] => [[c]]
      | h :: t => (c :: h) :: t) [[]]

/-- The parts of a received line: the characters between lead character and '*', and the checksum received. Nothing
where the lead character is not '>' or no '*' followed by two hexadecimal digits stands at the end (R180). -/
def splitLine (c : List Byte) : Option (List Byte × Byte) :=
  match c with
  | [] => none
  | lead :: rest =>
    match lead == 0x3E#8, rest.reverse with
    | true, lo :: hi :: star :: body =>
      match star == 0x2A#8, hexDigit? hi, hexDigit? lo with
      | true, some h, some l => some (body.reverse, BitVec.ofNat 8 (16 * h + l))
      | _, _, _ => none
    | _, _ => none

/-- A capital letter. -/
def capital (c : Byte) : Bool := decide (0x41#8 ≤ c) && decide (c ≤ 0x5A#8)

/-- What the checks of R180 make of a line taken: a request, or the reply that answers it. -/
inductive Checked
  | request (r : Request) | refuse (key : LineKey) (status : Status)
deriving DecidableEq, Repr

/-- The checks on a line taken, in their order (R180). -/
def checkLine (l : RxLine) : Checked :=
  if l.long then .refuse .dashes .long
  else if l.bad then .refuse .dashes .format
  else
    match splitLine l.codes with
    | none => .refuse .dashes .format
    | some (body, sum) =>
      if checksum body != sum then .refuse .dashes .check
      else
        match splitSpaces body with
        | [] => .refuse .dashes .format
        | key :: fields =>
          if key.length != 4 || !key.all capital then .refuse .dashes .format
          else
            match allKeywords.find? (fun k => keywordCodes k == key) with
            | some k => .request ⟨k, fields.map readField⟩
            | none => .refuse (.raw key) .unknown

/-! ### Fields of values -/

/-- A number as a field. -/
def nat (n : Nat) : Field := .num n
/-- A counter as a field. -/
def word32 (w : Word32) : Field := .num w.toNat
/-- A value that may be absent. -/
def optField {α : Type} (f : α → Field) : Option α → Field
  | some a => f a
  | none => .absent
/-- YES or NO. -/
def yesNo (b : Bool) : Field := .word (if b then .YES else .NO)
/-- ON or OFF. -/
def onOff (b : Bool) : Field := .word (if b then .ON else .OFF)
/-- SET or CLEAR. -/
def setClear (b : Bool) : Field := .word (if b then .SET else .CLEAR)

/-- Words of the modes. -/
def modeWord : Mode → Token
  | .init => .INIT
  | .standby => .STANDBY
  | .run => .RUN

/-- Words of the supply states (R172). -/
def supplyWord : SupplyState → Token
  | .normal => .NORMAL
  | .belowProgram => .BELOW_PROGRAM
  | .belowDrive => .BELOW_DRIVE

/-- Words of the reset kinds (R173). -/
def resetWord : ResetCause → Token
  | .powerOn => .POWER_ON
  | .brownout => .BROWNOUT
  | .line => .LINE
  | .lineRequest => .LINE_REQUEST

/-- Words of the tracker states (R19). -/
def crankWord : CrankState → Token
  | .stopped => .STOPPED
  | .seeking => .SEEKING
  | .crankLocked => .CRANK_LOCKED
  | .cycleLocked => .CYCLE_LOCKED

/-- Causes of !SYN (R40). -/
def synWord : SynCause → Token
  | .start => .START
  | .teeth => .TEETH
  | .half => .HALF
  | .count => .COUNT
  | .halfSlip => .HALF_SLIP
  | .stall => .STALL

/-- Words of the channel states (R73). -/
def chanStateWord : ChanState → Token
  | .unused => .UNUSED
  | .parked => .PARKED
  | .releasing => .RELEASING
  | .tracking => .TRACKING
  | .holding => .HOLDING
  | .parking => .PARKING
  | .driveTest => .DRIVE_TEST
  | .faulted => .FAULTED
  | .lockout => .LOCKOUT

/-- Causes of !CHS (05). -/
def chanCauseWord : ChanCause → Token
  | .run => .RUN
  | .release => .RELEASE
  | .released => .RELEASED
  | .hold => .HOLD
  | .resume => .RESUME
  | .lock => .LOCK
  | .response => .RESPONSE
  | .source => .SOURCE
  | .supply => .SUPPLY
  | .lost => .LOST
  | .oil => .OIL
  | .limit => .LIMIT
  | .settled => .SETTLED
  | .timeout => .TIMEOUT
  | .test => .TEST
  | .testEnd => .TEST_END
  | .abandon => .ABANDON
  | .mode => .MODE
  | .driver => .DRIVER
  | .driverClear => .DRIVER_CLEAR
  | .double => .DOUBLE
  | .clrl => .CLRL

/-- Words of the unit states (R122). -/
def liftStateWord : LiftState → Token
  | .low => .LOW
  | .raiseWait => .RAISE_WAIT
  | .raising => .RAISING
  | .high => .HIGH
  | .lowerWait => .LOWER_WAIT
  | .lowering => .LOWERING
  | .stuck => .STUCK

/-- Causes of !LFT (R125). -/
def liftCauseWord : LiftCause → Token
  | .run => .RUN
  | .confirm => .CONFIRM
  | .withdrawn => .WITHDRAWN
  | .noConfirm => .NO_CONFIRM
  | .lock => .LOCK
  | .driver => .DRIVER
  | .clear => .CLEAR
  | .testEnd => .TEST_END
  | .abandon => .ABANDON
  | .response => .RESPONSE
  | .mode => .MODE

/-- Words of the record states (R140). -/
def recStateWord : RecState → Token
  | .inactive => .INACTIVE
  | .pending => .PENDING
  | .active => .ACTIVE
  | .latched => .LATCHED

/-- Words of the target sources (R102). -/
def sourceWord : Source → Token
  | .park => .PARK
  | .host => .HOST
  | .map => .MAP

/-- Words of the phaser actions (R145). -/
def actionWord : PhaserAction → Token
  | .none => .NONE
  | .hold => .HOLD
  | .park => .PARK

/-- Words of the origin flags (R1). -/
def originWord : Origin → Token
  | .loaded => .LOADED
  | .edited => .EDITED
  | .blank => .BLANK
  | .default => .DEFAULT

/-- Names of the regions (R162). -/
def regionWord : Region → Token
  | .ident => .IDENT
  | .layout => .LAYOUT
  | .tuning => .TUNING
  | .response => .RESPONSE
  | .mapIn1 => .MAP_IN1
  | .mapEx1 => .MAP_EX1
  | .mapIn2 => .MAP_IN2
  | .mapEx2 => .MAP_EX2

/-- Words of the region statuses (R162). -/
def regionStatusWord : RegionStatus → Token
  | .valid => .VALID
  | .blank => .BLANK
  | .invalid => .INVALID

/-- Words of the slot states (R154). -/
def slotWord : SlotState → Token
  | .free => .FREE
  | .filling => .FILLING
  | .ready => .READY

/-- Kinds of line of CONFLICT (R10). -/
def conflictWord : ConflictKind → Token
  | .camin => .CAMIN
  | .ocv => .OCV
  | .ls => .LS
  | .sense => .SENSE

/-- Names of the fault kinds (R139). -/
def kindWord : FaultKind → Token
  | .syncSlip => .SYNC_SLIP
  | .crankNoise => .CRANK_NOISE
  | .camPattern => .CAM_PATTERN
  | .camMissing => .CAM_MISSING
  | .phaserStuck => .PHASER_STUCK
  | .parkFail => .PARK_FAIL
  | .driverShort => .DRIVER_SHORT
  | .driverOpen => .DRIVER_OPEN
  | .oilLow => .OIL_LOW
  | .hostStale => .HOST_STALE
  | .liftNoConfirm => .LIFT_NO_CONFIRM
  | .liftPosition => .LIFT_POSITION
  | .liftMismatch => .LIFT_MISMATCH
  | .supplyLow => .SUPPLY_LOW
  | .storeDamaged => .STORE_DAMAGED
  | .traceMissed => .TRACE_MISSED

/-- Letters of the lines. -/
def abcdWord : LineABCD → Token
  | .A => .A
  | .B => .B
  | .C => .C
  | .D => .D

/-- Letters of the lines. -/
def abWord : LineAB → Token
  | .A => .A
  | .B => .B

/-- Words of the polarities (R2). -/
def polWord : Polarity → Token
  | .rise => .RISE
  | .fall => .FALL

/-- Words of the directions (R2). -/
def dirWord : Dir → Token
  | .adv => .ADV
  | .ret => .RET

/-- Names of the outputs (R140). -/
def outWord : Out → Token
  | .ocv .A => .OCVA
  | .ocv .B => .OCVB
  | .ocv .C => .OCVC
  | .ocv .D => .OCVD
  | .ls .A => .LSA
  | .ls .B => .LSB

/-! ### Fault kinds (R139) -/

/-- The sixteen kinds, in the order of R139. -/
def allKinds : List FaultKind :=
  [.syncSlip, .crankNoise, .camPattern, .camMissing, .phaserStuck, .parkFail, .driverShort, .driverOpen, .oilLow,
   .hostStale, .liftNoConfirm, .liftPosition, .liftMismatch, .supplyLow, .storeDamaged, .traceMissed]

/-- The kind of a record. -/
def faultKind : FaultId → FaultKind
  | .syncSlip => .syncSlip
  | .crankNoise => .crankNoise
  | .camPattern _ => .camPattern
  | .camMissing _ => .camMissing
  | .phaserStuck _ => .phaserStuck
  | .parkFail _ => .parkFail
  | .driverShort _ => .driverShort
  | .driverOpen _ => .driverOpen
  | .oilLow => .oilLow
  | .hostStale => .hostStale
  | .liftNoConfirm _ => .liftNoConfirm
  | .liftPosition _ => .liftPosition
  | .liftMismatch => .liftMismatch
  | .supplyLow => .supplyLow
  | .storeDamaged => .storeDamaged
  | .traceMissed => .traceMissed

/-- The records of a kind, in ascending order (R140). -/
def kindRecords : FaultKind → List FaultId
  | .syncSlip => [.syncSlip]
  | .crankNoise => [.crankNoise]
  | .camPattern => allChans.map .camPattern
  | .camMissing => allChans.map .camMissing
  | .phaserStuck => allChans.map .phaserStuck
  | .parkFail => allChans.map .parkFail
  | .driverShort => allOuts.map .driverShort
  | .driverOpen => allOuts.map .driverOpen
  | .oilLow => [.oilLow]
  | .hostStale => [.hostStale]
  | .liftNoConfirm => allUnits.map .liftNoConfirm
  | .liftPosition => allUnits.map .liftPosition
  | .liftMismatch => [.liftMismatch]
  | .supplyLow => [.supplyLow]
  | .storeDamaged => [.storeDamaged]
  | .traceMissed => [.traceMissed]

/-- The 40 records, in the order of R140. -/
def allFaultIds : List FaultId := allKinds.flatMap kindRecords

/-- The scope instance of a record as a field: "-" for device scope (R150). -/
def faultInstance : FaultId → Field
  | .syncSlip => .absent
  | .crankNoise => .absent
  | .camPattern ch => nat (chanNum ch)
  | .camMissing ch => nat (chanNum ch)
  | .phaserStuck ch => nat (chanNum ch)
  | .parkFail ch => nat (chanNum ch)
  | .driverShort out => .word (outWord out)
  | .driverOpen out => .word (outWord out)
  | .oilLow => .absent
  | .hostStale => .absent
  | .liftNoConfirm u => nat (unitNum u)
  | .liftPosition u => nat (unitNum u)
  | .liftMismatch => .absent
  | .supplyLow => .absent
  | .storeDamaged => .absent
  | .traceMissed => .absent

/-- The class of a kind (R139). -/
def faultClass : FaultKind → Nat
  | .syncSlip => 2
  | .crankNoise => 3
  | .camPattern => 2
  | .camMissing => 2
  | .phaserStuck => 2
  | .parkFail => 1
  | .driverShort => 1
  | .driverOpen => 2
  | .oilLow => 2
  | .hostStale => 2
  | .liftNoConfirm => 2
  | .liftPosition => 2
  | .liftMismatch => 1
  | .supplyLow => 3
  | .storeDamaged => 3
  | .traceMissed => 3

/-- The kinds that are events; the others are conditions (R139). -/
def isEvent : FaultKind → Bool
  | .syncSlip => true
  | .crankNoise => false
  | .camPattern => false
  | .camMissing => false
  | .phaserStuck => true
  | .parkFail => true
  | .driverShort => true
  | .driverOpen => false
  | .oilLow => false
  | .hostStale => false
  | .liftNoConfirm => true
  | .liftPosition => false
  | .liftMismatch => false
  | .supplyLow => false
  | .storeDamaged => true
  | .traceMissed => true

/-! ### Notices (R40, R75, R125, R144, R155, R164, R174, R175; log 18) -/

/-- The fields of a trigger cause (R153). -/
def causeFields : Option TraceCause → List Field
  | none => [.absent]
  | some .request => [.word .REQUEST]
  | some (.fault id) => [.word (kindWord (faultKind id)), faultInstance id]

/-- The words of the hold causes that are set (R73). -/
def holdFields (h : HoldCauses) : List Field :=
  (if h.claim then [.word .CLAIM] else []) ++ (if h.supply then [.word .SUPPLY] else []) ++
  (if h.measure then [.word .MEASURE] else []) ++ (if h.response then [.word .RESPONSE] else [])

/-- The fields of a sweep result (R164). -/
def sweepFields : SweepResult → List Field
  | .none => [.word .NONE]
  | .clean => [.word .CLEAN]
  | .damaged p => [.word .DAMAGED, nat p]
  | .abandoned => [.word .ABANDONED]

/-- COMPLETE or ABORTED (R164). -/
def saveOutcome (complete : Bool) : Field := .word (if complete then .COMPLETE else .ABORTED)

/-- The kind of a notice (R183). -/
def noticeKind : Notice → NoticeKind
  | .flt _ _ _ _ => .flt
  | .syn _ _ _ _ _ => .syn
  | .chs _ _ _ _ _ _ => .chs
  | .lft _ _ _ _ _ => .lft
  | .trc _ _ _ _ _ _ => .trc
  | .stoSave _ _ _ => .sto
  | .stoSweep _ => .sto
  | .mod _ _ _ => .mod
  | .rdy _ _ => .rdy

/-- The fields of a notice. A !CHS of an entry to a state other than HOLDING has "-" for the hold causes (R75; log 18). The
flags truncated and incomplete of a !TRC are YES or NO (R155; log 18). -/
def noticeFields : Notice → List Field
  | .flt id st count seen =>
    [.word (kindWord (faultKind id)), faultInstance id, nat (faultClass (faultKind id)), .word (recStateWord st),
      nat count, optField word32 seen]
  | .syn new old cause rpm cycle =>
    [.word (crankWord new), .word (crankWord old), .word (synWord cause), nat rpm, word32 cycle]
  | .chs ch new old cause holds cycle =>
    [nat (chanNum ch), .word (chanStateWord new), .word (chanStateWord old), .word (chanCauseWord cause)] ++
      (match holds with
        | some h => holdFields h
        | none => [.absent]) ++ [word32 cycle]
  | .lft u new old cause cycle =>
    [nat (unitNum u), .word (liftStateWord new), .word (liftStateWord old), .word (liftCauseWord cause), word32 cycle]
  | .trc slot cause start edges truncated incomplete =>
    nat slot :: causeFields cause ++ [optField word32 start, nat edges, yesNo truncated, yesNo incomplete]
  | .stoSave r complete gen => [.word .SAVE, .word (regionWord r), saveOutcome complete, .num gen.toNat]
  | .stoSweep result => .word .SWEEP :: sweepFields result
  | .mod new old cycle => [.word (modeWord new), .word (modeWord old), word32 cycle]
  | .rdy cause regions =>
    .word (resetWord cause) :: regions.toList.flatMap fun r => [.word (regionStatusWord r.status), .num r.gen.toNat]

/-- The line of a notice. -/
def noticeLine (n : Notice) : Line := ⟨.notice, .notice (noticeKind n), noticeFields n⟩

/-- The characters of the line in progress on TXD, without CR LF (R178, R182). -/
def sendingCodes : Sending → List Byte
  | .reply l => l.codes
  | .notice n => (noticeLine n).codes

/-! ### Reading the fields of requests -/

/-- A decimal field. -/
def int? : Field → Option Int
  | .num v => some v
  | _ => none

/-- Whether a field is decimal. -/
def isNum : Field → Bool
  | .num _ => true
  | _ => false

/-- A decimal field within a range. -/
def within? (lo hi : Nat) : Field → Option Nat
  | .num v => if (lo : Int) ≤ v ∧ v ≤ (hi : Int) then some v.toNat else none
  | _ => none

/-- Every field of a list within a range. -/
def allWithin? (lo hi : Nat) (l : List Field) : Option (List Nat) := l.mapM (within? lo hi)

/-- A decimal field within a range that goes below 0. -/
def intWithin? (lo hi : Int) : Field → Option Int
  | .num v => if lo ≤ v ∧ v ≤ hi then some v else none
  | _ => none

/-- A channel 1 to 4. -/
def chan? (f : Field) : Option Chan := (within? 1 4 f).bind chanOf
/-- A unit 1 or 2. -/
def unit? (f : Field) : Option LiftUnit := (within? 1 2 f).bind unitOf

/-- A region's name (R162). -/
def region? : Field → Option Region
  | .word t => allRegions.find? fun r => regionWord r == t
  | _ => none

/-- A fault kind's name (R139). -/
def kind? : Field → Option FaultKind
  | .word t => allKinds.find? fun k => kindWord k == t
  | _ => none

/-- YES or NO. -/
def yesNo? : Field → Option Bool
  | .word .YES => some true
  | .word .NO => some false
  | _ => none

/-- Values in strictly ascending order (R98). -/
def ascending : List Int → Bool
  | a :: b :: rest => decide (a < b) && ascending (b :: rest)
  | _ => true

end Sys2Proof.Machine
end

