-- ==== Sys2Proof/Machine/Engine.lean ====
section
/-! DEFINITION. The quantities that other blocks derive from the Layout table: matching windows, lift angles, teeth and
their angles (R3, R20, R25), and layout validation (R7 to R12). -/

namespace Sys2Proof.Machine

/-! ### Windows and lift angles (R3) -/

/-- An angle earlier by `d`. -/
def earlier (a d : Nat) : Nat := (a + cycleAu - d % cycleAu) % cycleAu

/-- The width of every matching window of a channel. -/
def CamItem.width (c : CamItem) : Nat := c.range + 2 * c.halfWidth

/-- The start of the matching window of an expected edge with nominal angle `n`. -/
def CamItem.windowStart (c : CamItem) (n : Nat) : Nat :=
  match c.dir with
  | .adv => earlier n (c.range + c.halfWidth)
  | .ret => earlier n c.halfWidth

/-- Whether a cycle angle lies in the matching window of an expected edge, both ends included (R60). -/
def CamItem.contains (c : CamItem) (n a : Nat) : Bool := decide (forward cycleAu (c.windowStart n) a ≤ c.width)

/-- The cycle angle of a lift angle of a unit. -/
def Layout.liftCycleAngle (l : Layout) (u : LiftUnit) (a : Nat) : Nat :=
  match u with
  | .L1 => a % cycleAu
  | .L2 => later a (l.cyl.getD 0)

/-- An angle moved by a phase: earlier for ADV, later for RET. -/
def moveBy (d : Dir) (a p : Nat) : Nat :=
  match d with
  | .adv => earlier a p
  | .ret => later a p

/-! ### Teeth (R20, R25) -/

/-- Teeth per revolution. -/
def Wheel.teeth (w : Wheel) : Nat := w.positions - w.missing

/-- The minimum interval: the tooth interval at 18,000 rpm, in time base units. -/
def Wheel.minInterval (w : Wheel) : Nat := quotient 6666 w.positions

/-- The revolution angle of tooth `n`. -/
def Wheel.toothAngle (w : Wheel) (n : Nat) : Nat := (w.firstTooth + quotient ((n - 1) * revAu) w.positions) % revAu

/-- The span in pitches from tooth `n` to the next tooth. -/
def Wheel.spanPitches (w : Wheel) (n : Nat) : Nat := if n = w.teeth then w.missing + 1 else 1

/-- The number of the tooth after tooth `n`. -/
def Wheel.nextTooth (w : Wheel) (n : Nat) : Nat := if n = w.teeth then 1 else n + 1

/-- The span in au from tooth `n` to the next tooth. -/
def Wheel.spanAu (w : Wheel) (n : Nat) : Nat := forward revAu (w.toothAngle n) (w.toothAngle (w.nextTooth n))

/-! ### The reference channel -/

/-- The channels whose CAM item carries reference YES, bound or not (R8). -/
def Layout.references (l : Layout) : List Chan :=
  allChans.filter fun ch =>
    match l.cam.get ch with
    | some c => c.reference
    | none => false

/-- The reference channel of a validated layout with its CAM item and its first expected edge (R8, R70). -/
def Layout.reference (l : Layout) : Option (Chan × CamItem × EdgeItem) := do
  let ch ← l.references.head?
  let c ← l.cam.get ch
  let e ← (l.edges.get ch).head?
  pure (ch, c, e)

/-! ### Validation (R7 to R12) -/

/-- The bound channels, in order. -/
def Layout.boundChans (l : Layout) : List Chan := allChans.filter fun ch => (l.bind.get ch).bound
/-- The bound units, in order. -/
def Layout.boundUnits (l : Layout) : List LiftUnit := allUnits.filter fun u => (l.lift.get u).bound

/-- Check 1, ORIGIN (R8). -/
def checkOrigin (o : Origin) : Option LayoutFailure := if o = .blank then some .origin else none

/-- Check 2, WHEEL (R8). -/
def checkWheel (l : Layout) : Option LayoutFailure :=
  match l.wheel with
  | none => some .wheelAbsent
  | some w => if w.teeth < 10 then some (.wheelTeeth w.teeth) else none

/-- Check 3, CYL (R8). -/
def checkCyl (l : Layout) : Option LayoutFailure := if l.cyl.isNone then some .cyl else none

/-- Check 4, PARTIAL (R8). -/
def checkPartial (l : Layout) : Option LayoutFailure :=
  match allChans.find? fun ch => (l.bind.get ch).cam.isSome != (l.bind.get ch).driver.isSome with
  | some ch => some (.partialChan ch)
  | none => (allUnits.find? fun u => (l.lift.get u).driver.isSome != (l.lift.get u).sense.isSome).map .partialUnit

/-- Check 5, CHANNEL (R8). -/
def checkChannel (l : Layout) : Option LayoutFailure :=
  (l.boundChans.find? fun ch => (l.cam.get ch).isNone || (l.edges.get ch).isEmpty).map .channel

/-- Check 6, REFERENCE (R8). -/
def checkReference (l : Layout) : Option LayoutFailure :=
  match l.references with
  | [ch] =>
    if !(l.bind.get ch).bound then some (.refUnbound ch)
    else
      match l.cam.get ch with
      | some c => if 2880 ≤ c.width then some (.refWide ch) else none
      | none => none
  | refs => some (.refCount refs.length)

/-- The first index `k` from 2 whose nominal angle is not greater than that of edge `k` - 1 (R9). -/
def firstDescent (k : Nat) : List EdgeItem → Option Nat
  | a :: b :: rest => if b.angle ≤ a.angle then some (k + 1) else firstDescent (k + 1) (b :: rest)
  | _ => none

/-- Check 7, ORDER (R9). -/
def checkOrder (l : Layout) : Option LayoutFailure :=
  l.boundChans.findSome? fun ch => (firstDescent 1 (l.edges.get ch)).map fun k => .order ch k

/-- The spacings of a ring of edges, each to the next, the last to the first across the cycle end (R9). -/
def spacings (first : Nat) : List EdgeItem → List Nat
  | a :: b :: rest => (b.angle - a.angle) :: spacings first (b :: rest)
  | [a] => [first + cycleAu - a.angle]
  | [] => []

/-- Check 8, OVERLAP (R9). -/
def checkOverlap (l : Layout) : Option LayoutFailure :=
  l.boundChans.findSome? fun ch =>
    match l.cam.get ch, l.edges.get ch with
    | some c, e :: rest =>
      ((spacings e.angle (e :: rest)).findIdx? fun d => d < c.width + 1).map fun i => .overlap ch (i + 1)
    | _, _ => none

/-- The first two owners of one line, lowest owner first, of a list of owners with their lines (R10). -/
def firstClash : List (Nat × LineABCD) → Option (LineABCD × Nat × Nat)
  | [] => none
  | (n, x) :: rest =>
    match rest.find? fun p => p.2 == x with
    | some p => some (x, n, p.1)
    | none => firstClash rest

/-- The owners of lines among the bound channels. -/
def Layout.chanOwners (l : Layout) (line : BindItem → Option LineABCD) : List (Nat × LineABCD) :=
  l.boundChans.filterMap fun ch => (line (l.bind.get ch)).map fun x => (chanNum ch, x)

/-- The owners of lines among the bound units. -/
def Layout.unitOwners (l : Layout) (line : LiftItem → Option LineAB) : List (Nat × LineABCD) :=
  l.boundUnits.filterMap fun u => (line (l.lift.get u)).map fun x => (unitNum u, abOf x)

/-- Check 9, CONFLICT (R10). -/
def checkConflict (l : Layout) : Option LayoutFailure :=
  [(ConflictKind.camin, l.chanOwners BindItem.cam), (.ocv, l.chanOwners BindItem.driver),
    (.ls, l.unitOwners LiftItem.driver), (.sense, l.unitOwners LiftItem.sense)].findSome? fun p =>
      (firstClash p.2).map fun c => .conflict p.1 c.1 c.2.1 c.2.2

/-- Check 10, INTAKE (R11). -/
def checkIntake (l : Layout) : Option LayoutFailure :=
  (l.boundUnits.find? fun u => !(l.bind.get (intake u)).bound).map .intake

/-- Forward distances from the decision angle to window open and window close at phase `p` (R11). -/
def Layout.leads (l : Layout) (u : LiftUnit) (d : Dir) (p : Nat) : Nat × Nat :=
  let i := l.lift.get u
  let from_ := l.liftCycleAngle u (i.decision.getD 0)
  (forward cycleAu from_ (moveBy d (l.liftCycleAngle u (i.windowOpen.getD 0)) p),
    forward cycleAu from_ (moveBy d (l.liftCycleAngle u (i.windowClose.getD 0)) p))

/-- Check 11, LEAD (R11). -/
def checkLead (l : Layout) : Option LayoutFailure :=
  l.boundUnits.findSome? fun u =>
    match l.cam.get (intake u) with
    | some c =>
      let atPark := l.leads u c.dir 0
      let atRange := l.leads u c.dir c.range
      if atPark.1 < atPark.2 ∧ 320 ≤ atPark.1 ∧ atRange.1 < atRange.2 ∧ 320 ≤ atRange.1 then none
      else some (.lead u (min atPark.1 atRange.1))
    | none => none

/-- The entries the Angle Schedule would hold (R12, R42). -/
def Layout.entryCount (l : Layout) : Nat :=
  1 + (l.boundChans.map fun ch => (l.edges.get ch).length).sum + 3 * l.boundUnits.length

/-- Check 12, CAPACITY (R12). -/
def checkCapacity (l : Layout) : Option LayoutFailure := if 32 < l.entryCount then some (.capacity l.entryCount) else none

/-- Layout validation: the first of the twelve checks that fails (R7). -/
def validate (o : Origin) (l : Layout) : Option LayoutFailure :=
  (checkOrigin o).or <| (checkWheel l).or <| (checkCyl l).or <| (checkPartial l).or <| (checkChannel l).or <|
  (checkReference l).or <| (checkOrder l).or <| (checkOverlap l).or <| (checkConflict l).or <| (checkIntake l).or <|
  (checkLead l).or <| checkCapacity l

/-- The check name with its detail (R7; log 18). -/
def failureFields : LayoutFailure → List Field
  | .origin => [.word .ORIGIN]
  | .wheelAbsent => [.word .WHEEL, .word .WHEEL]
  | .wheelTeeth n => [.word .WHEEL, nat n]
  | .cyl => [.word .CYL]
  | .partialChan ch => [.word .PARTIAL, .word .CH, nat (chanNum ch)]
  | .partialUnit u => [.word .PARTIAL, .word .LIFT, nat (unitNum u)]
  | .channel ch => [.word .CHANNEL, nat (chanNum ch)]
  | .refCount n => [.word .REFERENCE, nat n]
  | .refUnbound ch => [.word .REFERENCE, .word .CH, nat (chanNum ch)]
  | .refWide ch => [.word .REFERENCE, .word .EDGE, nat (chanNum ch)]
  | .order ch k => [.word .ORDER, nat (chanNum ch), nat k]
  | .overlap ch k => [.word .OVERLAP, nat (chanNum ch), nat k]
  | .conflict kind line a b => [.word .CONFLICT, .word (conflictWord kind), .word (abcdWord line), nat a, nat b]
  | .intake u => [.word .INTAKE, nat (unitNum u)]
  | .lead u d => [.word .LEAD, nat (unitNum u), nat d]
  | .capacity n => [.word .CAPACITY, nat n]

end Sys2Proof.Machine
end

