-- ==== Sys2Proof/Machine/Schedule.lean ====
section
/-! DEFINITION. The angle clock and the Angle Scheduler: the plan, the list and its order, firing, the cycle start, the
passing of angles, building, loss of lock (R34 to R38, R41 to R56; log 10, 12, 31, 32, 43, 55). -/

namespace Sys2Proof.Machine

/-! ### The angle clock (R35, R38) -/

/-- The circle the clock counts: the cycle in CYCLE_LOCKED, the revolution otherwise (R35). -/
def State.clockCircle (s : State) : Nat := if s.ckt.state = .cycleLocked then cycleAu else revAu

/-- The value of the clock (R35; log 10). -/
def AngleClock.value (c : AngleClock) (m : Nat) : Nat := (c.anchor.angle + c.reached) % m

/-- The value of the clock, where it is present. -/
def State.clockValue (s : State) : Option Nat := s.ckt.clock.map fun c => c.value s.clockCircle

/-- How many units of the time base have passed since a captured time, modulo 2^32 (00, Other quantities). -/
def State.since (s : State) (t : Word32) : Nat := (s.timeBase - t).toNat

/-- How far past its angle an anchor puts a time stamp: at its rate, halting one au short of its span (R35). -/
def Anchor.advance (a : Anchor) (t : Word32) : Nat := min (quotient ((t - a.time).toNat * a.span) a.expected) (a.span - 1)

/-- The angle of a captured cam edge from its time stamp (R38). With no previous anchor, a time stamp before the
latest anchor's is given that anchor's angle (log 32). -/
def State.angleAt (s : State) (t : Word32) : Option Nat :=
  s.ckt.clock.map fun c =>
    if s.since t ≤ s.since c.anchor.time then (c.anchor.angle + c.anchor.advance t) % s.clockCircle
    else
      match c.previous with
      | none => c.anchor.angle
      | some p => if s.since t ≤ s.since p.time then (p.angle + p.advance t) % s.clockCircle else p.angle

/-- The cycle in which the clock gives a captured cam edge its angle, by the cycle counter (R34, R38; log 12). The count at
the latest anchor is the present one less the passages of angle 0 that the clock has made since; the edge's is that one, or
the one at the anchor before, with the passages between that anchor and the edge. So it does not hang on how far the clock
has been moved: an edge can lie ahead of it as well as behind. -/
def State.cycleAt (s : State) (t : Word32) : Option Word32 :=
  s.ckt.clock.map fun c =>
    let passages (a : Nat) : Word32 := BitVec.ofNat 32 (a / s.clockCircle)
    let latest := s.ckt.cycles - passages (c.anchor.angle + c.reached)
    if s.since t ≤ s.since c.anchor.time then latest + passages (c.anchor.angle + c.anchor.advance t)
    else
      match c.previous with
      | none => latest
      | some p =>
        let before := latest - passages (p.angle + p.span)
        if s.since t ≤ s.since p.time then before + passages (p.angle + p.advance t) else before

/-! ### The plan (R42, R44) -/

/-- The entries of one bound channel. -/
def Layout.chanPlan (l : Layout) (ch : Chan) : List PlanEntry :=
  match l.cam.get ch with
  | some c => (l.edges.get ch).mapIdx fun i e => ⟨c.windowEnd e.angle, .edgeClose ch (i + 1), none⟩
  | none => []

/-- The entries of one bound unit. -/
def Layout.unitPlan (l : Layout) (u : LiftUnit) : List PlanEntry :=
  let i := l.lift.get u
  let moves := (l.cam.get (intake u)).map fun c => (c.dir, c.range)
  [⟨l.liftCycleAngle u (i.decision.getD 0), .liftDecide u, none⟩,
    ⟨l.liftCycleAngle u (i.windowOpen.getD 0), .liftOpen u, moves⟩,
    ⟨l.liftCycleAngle u (i.windowClose.getD 0), .liftClose u, moves⟩]

/-- The schedule plan of a validated layout (R42). -/
def Layout.plan (l : Layout) : List PlanEntry :=
  ⟨0, .cycleStart, none⟩ :: l.boundChans.flatMap l.chanPlan ++ l.boundUnits.flatMap l.unitPlan

/-! ### The list and its order (R43) -/

/-- Kinds in the order in which they share an angle. -/
def EntryKind.rank : EntryKind → Nat
  | .cycleStart => 0
  | .liftClose _ => 1
  | .edgeClose _ _ => 2
  | .liftDecide _ => 3
  | .liftOpen _ => 4

/-- The owner index: channel then edge, or unit. -/
def EntryKind.owner : EntryKind → Nat × Nat
  | .cycleStart => (0, 0)
  | .edgeClose ch k => (chanNum ch, k)
  | .liftDecide u => (unitNum u, 0)
  | .liftOpen u => (unitNum u, 0)
  | .liftClose u => (unitNum u, 0)

/-- One entry stands at or before another: by angle, then kind, then owner index (R43). -/
def Entry.upTo (a b : Entry) : Bool :=
  if a.angle ≠ b.angle then decide (a.angle < b.angle)
  else if a.kind.rank ≠ b.kind.rank then decide (a.kind.rank < b.kind.rank)
  else if a.kind.owner.1 ≠ b.kind.owner.1 then decide (a.kind.owner.1 < b.kind.owner.1)
  else decide (a.kind.owner.2 ≤ b.kind.owner.2)

/-- Inserts an entry at its place. -/
def insertEntry (e : Entry) : List Entry → List Entry
  | [] => [e]
  | x :: rest => if e.upTo x then e :: x :: rest else x :: insertEntry e rest

/-- The entries in the order of R43. -/
def sortEntries (l : List Entry) : List Entry := l.foldr insertEntry []

/-- The unit that a moving entry serves. -/
def EntryKind.unit? : EntryKind → Option LiftUnit
  | .liftOpen u => some u
  | .liftClose u => some u
  | _ => none

/-- The placement phase of a unit with intake range `g`: the measured phase of its intake channel clamped to 0..g, or
0 where it is not valid (R45). -/
def State.placementPhase (s : State) (u : LiftUnit) (g : Nat) : Nat :=
  let r := s.ceu.chans.get (intake u)
  if r.valid then (clampInt 0 g r.phase).toNat else 0

/-- The angle at which an entry of the plan is placed now (R45). -/
def State.placedAngle (s : State) (p : PlanEntry) : Nat :=
  match p.kind.unit?, p.moves with
  | some u, some (d, g) => moveBy d p.angle (s.placementPhase u g)
  | _, _ => p.angle

/-- The list that the plan gives now, each entry's fired flag by `fired` (R46, R50). -/
def State.placeAll (s : State) (fired : Nat → EntryKind → Bool) : List Entry :=
  sortEntries (s.asc.plan.map fun p => ⟨s.placedAngle p, p.kind, fired (s.placedAngle p) p.kind⟩)

/-! ### Firing (R47, R52) -/

/-- What firing an entry hands to its owner: kind, owner index, angle, and the cycle counter as it stands (R52).
CYCLE_START is not fired this way (R47). -/
def Entry.handovers (cycle : Word32) (e : Entry) : List Handover :=
  match e.kind with
  | .cycleStart => []
  | .edgeClose ch k => [.ceuEdgeClose ch k e.angle cycle]
  | k => [.liftEntry k e.angle cycle]

/-- An entry is due when the clock stands at or past its angle and it has not fired (R47). -/
def Entry.due (clock : Nat) (e : Entry) : Bool := !e.fired && decide (e.angle ≤ clock)

/-- The entries due at a value of the clock, in list order (R47). -/
def State.due (s : State) (clock : Nat) : List Entry := s.asc.entries.filter (Entry.due clock)

/-- Fires the due entries in list order, but for the last `hold` of them (R47; R54 gives where any are left). -/
def State.fireDue (s : State) (clock hold : Nat) : State :=
  let now := (s.due clock).take ((s.due clock).length - hold)
  { s with
    handovers := s.handovers ++ now.flatMap (Entry.handovers s.ckt.cycles)
    asc := { s.asc with entries := s.asc.entries.map fun e => if now.contains e then { e with fired := true } else e } }

/-- CYCLE_START: flags cleared, moving entries placed anew, the list sorted, the three receivers told (R50, R52). With an
empty list nothing fires (log 31). -/
def State.fireCycleStart (s : State) : State :=
  if s.asc.entries.isEmpty then s
  else
    { s with
      handovers := s.handovers ++
        [.tgaCycleStart 0 s.ckt.cycles, .trbCycleStart 0 s.ckt.cycles, .ceuCycleStart 0 s.ckt.cycles]
      asc := { s.asc with entries := s.placeAll fun _ k => k == .cycleStart } }

/-! ### The passing of angles (R34, R36, R48, R49) -/

/-- Whether the clock, standing at `c`, begins an odd number of revolutions within the next `n` angles. -/
def oddLaps (c n : Nat) : Bool := decide (((c + n) / revAu - c / revAu) % 2 = 1)

/-- The clock goes `n` angles on from `c` and takes the value of `new`. -/
def State.moveClock (s : State) (c n : Nat) (new : AngleClock) : State :=
  { s with ckt := { s.ckt with clock := some new, lap := s.ckt.lap ^^ oddLaps c n } }

/-- The passage of cycle angle 0 counts a cycle (R34). -/
def State.countCycle (s : State) : State := { s with ckt := { s.ckt with cycles := s.ckt.cycles + 1 } }

/-- The clock goes `n` angles on from `c` and takes the value of `new`. In CYCLE_LOCKED the entries it reaches fire, and
where it passes cycle angle 0 first those of the ending cycle, then CYCLE_START, then those of the new cycle (R47 to
R49). The last `hold` of all these are left unfired; a cycle that begins in the stretch counts all the same, also where
the report that ends the lock lies before it (R34; log 11). The list fires as it stands: where a new lock is gained before
the scheduler has taken the lock lost of the old one, which is what empties it (R53), the list of the old lock fires under
the new one, CYCLE_START included, though R39, R43 and R55 have it empty in between; that is the model's DESIGN CHOICE (log
58). -/
def State.advance (s : State) (c n : Nat) (new : AngleClock) (hold : Nat) : State :=
  let s := s.moveClock c n new
  if s.ckt.state ≠ .cycleLocked then s
  else if c + n < cycleAu then s.fireDue (new.value cycleAu) hold
  else
    let begun := (s.fireDue cycleAu 0).countCycle.fireCycleStart
    let left := (begun.due (new.value cycleAu)).length
    if hold ≤ left then begun.fireDue (new.value cycleAu) hold
    else (s.fireDue cycleAu (hold - left - 1)).countCycle

/-- The revolution angle at which reference reports are sent: the end of the reference window (R29, R70). -/
def Layout.reportAngle (l : Layout) : Option Nat := l.reference.map fun r => r.2.1.windowEnd r.2.2.angle % revAu

/-- How far ahead of `c` the clock reaches the end of the reference window, where that lies among the next `n` angles. -/
def State.reportDue (s : State) (c n : Nat) : Option Nat :=
  s.tbm.inForce.reportAngle.bind fun w =>
    let d := forward revAu (c % revAu) w
    let d := if d = 0 then revAu else d
    if d ≤ n then some d else none

/-! ### Building and emptying the list (R46, R53) -/

/-- Accepts a lock notification of the scheduler. -/
def wantAscLock (gained : Bool) : Handover → Option Unit
  | .ascLock g => if g = gained then some () else none
  | _ => none

/-- Builds the list; entries at or below the clock are marked fired (R46). Where the lock is already lost again and the
clock is absent, every entry is marked fired, and where the clock is a revolution angle again, it is compared with that as
it stands: the model's DESIGN CHOICE (log 43). The moving entries are placed by the measured phase record as it
stands (R45). R46 and R55 say that the records are not valid then and a first build is at phase 0; where one is valid all
the same, since the Cam Edge Unit in its own lane has taken lock gained and a match first, or has not yet taken the lock
lost before, following R45 is the model's DESIGN CHOICE (log 55). -/
def State.buildList (s : State) : State :=
  { s with asc := { s.asc with entries := s.placeAll fun a _ =>
      match s.clockValue with
      | some c => decide (a ≤ c)
      | none => true } }

/-- ASC_LOCK_GAINED (R46). -/
def execAscLockGained (s : State) : Outcome := .next (s.taking (wantAscLock true) fun _ s => s.buildList)

/-- Empties the list; the plan is kept (R53). Until the notification is taken the list stands (log 58). -/
def State.emptyList (s : State) : State := { s with asc := { s.asc with entries := [] } }

/-- ASC_LOCK_LOST (R53). -/
def execAscLockLost (s : State) : Outcome := .next (s.taking (wantAscLock false) fun _ s => s.emptyList)

end Sys2Proof.Machine
end

