-- ==== Sys2Proof/Machine/Cam.lean ====
section
/-! DEFINITION. The Cam Edge Unit: taking an edge, matches and strays, the reference look, the window checks, lock and
the cycle checks, RUN entry and leaving RUN (R57 to R72; log 12, 34, 35, 42, 44, 45). -/

namespace Sys2Proof.Machine

/-! ### Placing an edge (R59, R60, R62, R70) -/

/-- The bound channel whose cam input an edge arrived on (R59). -/
def State.chanOfInput (s : State) (i : LineABCD) : Option Chan :=
  allChans.find? fun ch => s.chanBound ch && (s.tbm.inForce.bind.get ch).cam == some i

/-- The clock has gone from `a` to its present value over the end `e`, on a circle of `m` units. -/
def passedEnd (m a e clock : Nat) : Bool :=
  let d := forward m (a % m) clock
  decide (d < m / 2) && decide (forward m (a % m) e ≤ d)

/-- The cycle count with which the occurrence ends that an edge at angle `a` of a cycle belongs to: an occurrence that
straddles cycle angle 0 ends in the next cycle (R52, R60). -/
def closingCycle (edgeCycle : Word32) (a windowEnd : Nat) : Word32 := if a ≤ windowEnd then edgeCycle else edgeCycle + 1

/-- The flags of window `k`, from 1. -/
def CeuChan.window (r : CeuChan) (k : Nat) : WindowFlags := r.windows.getD (k - 1) .clear

/-- Replaces the flags of window `k`, from 1. -/
def CeuChan.setWindow (r : CeuChan) (k : Nat) (w : WindowFlags) : CeuChan := { r with windows := r.windows.set (k - 1) w }

/-- An edge captured at `stamp`, at angle `a` in window `k`, is late when the unit has taken the EDGE_CLOSE ending that
occurrence (R60). One whose EDGE_CLOSE is never handed to the unit is not (log 12). -/
def State.edgeLate (s : State) (ch : Chan) (k a windowEnd : Nat) (stamp : Word32) : Bool :=
  match s.cycleAt stamp with
  | some cycle => ((s.ceu.chans.get ch).window k).ended == some (closingCycle cycle a windowEnd)
  | none => false

/-- The index from 1 of the expected edge whose matching window holds an angle, with that edge (R60). -/
def windowOf (c : CamItem) (a : Nat) (k : Nat) : List EdgeItem → Option (Nat × EdgeItem)
  | [] => none
  | e :: rest => if c.contains e.angle a then some (k, e) else windowOf c a (k + 1) rest

/-- The phase of a match of an expected edge with nominal angle `n` at angle `a` (R62). -/
def CamItem.phase (c : CamItem) (n a : Nat) : Int :=
  let d : Int := forward cycleAu (c.windowStart n) a
  match c.dir with
  | .adv => (c.range : Int) + c.halfWidth - d
  | .ret => d - c.halfWidth

/-- The reference look: an edge of the right polarity inside the reference window and not late sets reference seen
(R70). An edge is late once the report that ends its occurrence of the window has been sent: that is as the clock comes to
the window's end, but for a clock that stands there as CRANK_LOCKED is entered, where none has been sent yet (R71; log
12). -/
def State.look (s : State) (a : Nat) (p : Polarity) : State :=
  match s.tbm.inForce.reference, s.clockValue with
  | some (_, c, e), some clock =>
    let start := c.windowStart e.angle % revAu
    let stop := c.windowEnd e.angle % revAu
    let inside := decide (forward revAu start (a % revAu) ≤ c.width)
    if e.pol == p && inside && !(s.ceu.reportSent && passedEnd revAu a stop (clock % revAu)) then
      { s with ceu := { s.ceu with refSeen := true } }
    else s
  | _, _ => s

/-- Whether a channel is the reference channel. -/
def State.isReference (s : State) (ch : Chan) : Bool :=
  match s.tbm.inForce.reference with
  | some (r, _, _) => r == ch
  | none => false

/-! ### Matches and strays (R61, R63, R64) -/

/-- A match of edge `k` (R63). -/
def State.takeMatch (s : State) (ch : Chan) (k : Nat) (phase : Int) (stamp : Word32) (rec : EdgeRecord) : State :=
  let r := s.ceu.chans.get ch
  let gone := r.missingReported || r.firstAfterLock
  let s := s.setCeu ch { r.setWindow k { r.window k with matched := true } with
    cycMatches := bump 255 r.cycMatches
    phase := phase
    valid := true
    missingReported := false
    firstAfterLock := false }
  let s := if gone then s.report .ceu (.camMissing ch) .gone else s
  (s.hand (.phcMatch ch k phase stamp s.ckt.cycles)).hand (.trbEdge rec)

/-- A stray (R64). -/
def State.takeStray (s : State) (ch : Chan) (rec : EdgeRecord) : State :=
  (s.updCeu ch fun r => { r with cycStrays := bump 255 r.cycStrays }).hand (.trbEdge rec)

/-- What R61 makes of a placed edge: the matched expected edge, or nothing for a stray. Where a half slip has made the
tracker CRANK_LOCKED and matching is still set, the revolution angle is placed as it stands, and its occurrence told by
the revolution it lies in, as if each were a cycle (log 44). -/
def State.classifyEdge (s : State) (ch : Chan) (c : CamItem) (a : Nat) (p : Polarity) (stamp : Word32) :
    Option (Nat × EdgeItem) :=
  match windowOf c a 1 (s.tbm.inForce.edges.get ch) with
  | none => none
  | some (k, e) =>
    if s.edgeLate ch k a (c.windowEnd e.angle) stamp then none
    else if e.pol ≠ p then none
    else if ((s.ceu.chans.get ch).window k).matched then none
    else some (k, e)

/-- An edge with matching set (R60 to R64). -/
def State.placeEdge (s : State) (ch : Chan) (i : LineABCD) (p : Polarity) (a : Nat) (stamp : Word32) : State :=
  match s.tbm.inForce.cam.get ch with
  | none => s
  | some c =>
    match s.classifyEdge ch c a p stamp with
    | some (k, e) =>
      let phase := c.phase e.angle a
      s.takeMatch ch k phase stamp ⟨i, p, a, some (k, phase)⟩
    | none => s.takeStray ch ⟨i, p, a, none⟩

/-- An edge with its time stamp, under the first row of R59 that applies. -/
def State.takeCamEdge (s : State) (i : LineABCD) (p : Polarity) (stamp : Word32) : State :=
  match s.chanOfInput i, s.inRun, s.angleAt stamp with
  | some ch, true, some a =>
    let s := if s.isReference ch then s.look a p else s
    if s.ceu.matching then s.placeEdge ch i p a stamp else s
  | _, _, _ => s

/-- CAM_EDGE: an edge captured `age` units before this moment is taken (R59). The clock is absent in STOPPED and
SEEKING, where edges are ignored. The edges of one input are taken in the order of their time stamps: one captured before
the last edge taken on its input is no edge still to be taken (log 42). -/
def execCamEdge (dt age : Nat) (input : LineABCD) (pol : Polarity) (s : State) : Outcome :=
  let s := s.pass dt
  let t := s.now - age
  if t < s.ceu.stamps.get input then .next s
  else
    let s : State := { s with ceu := { s.ceu with stamps := s.ceu.stamps.set input t } }
    .next (s.takeCamEdge input pol (BitVec.ofNat 32 t))

/-! ### Window ends (R65) -/

/-- Accepts an entry EDGE_CLOSE. -/
def wantEdgeClose : Handover → Option (Chan × Nat × Word32)
  | .ceuEdgeClose ch k _ cycle => some (ch, k, cycle)
  | _ => none

/-- The unit takes an EDGE_CLOSE (R65). Either way the occurrence ends with both flags clear (log 34), and an edge of it
that comes now is late (R60). -/
def State.closeWindow (s : State) (ch : Chan) (k : Nat) (cycle : Word32) : State :=
  if !s.ceu.matching then s
  else
    let w := (s.ceu.chans.get ch).window k
    let s := s.updCeu ch fun r => r.setWindow k ⟨false, false, some cycle⟩
    if !w.matched && !w.opened then s.hand (.phcMissing ch k cycle) else s

/-- CEU_EDGE_CLOSE (R65). -/
def execCeuEdgeClose (s : State) : Outcome := .next (s.taking wantEdgeClose fun e s => s.closeWindow e.1 e.2.1 e.2.2)

/-! ### Lock and the cycle checks (R66 to R69) -/

/-- Accepts a lock notification of the unit. -/
def wantCeuLock (gained : Bool) : Handover → Option Unit
  | .ceuLock g => if g = gained then some () else none
  | _ => none

/-- Whether the clock stands inside the window of an expected edge other than at its end (R66). R66 speaks of a cycle angle;
where the lock is lost again before the unit takes lock gained, and the clock is absent, the answer is no, and where it is a
revolution angle again, that is read as it stands: the model's DESIGN CHOICE (log 59). -/
def State.windowOpen (s : State) (c : CamItem) (e : EdgeItem) : Bool :=
  match s.clockValue with
  | some v => c.contains e.angle v && v != c.windowEnd e.angle
  | none => false

/-- The cycle count with which a window's latest occurrence counts as ended at lock gained: one whose end lies at or
below the clock is ended for this cycle (R66), and so the latest one of another window is that of the cycle before (log
12). With the clock absent, as the lock is lost again already, none is kept, and a revolution angle is read as it stands:
the model's DESIGN CHOICE (log 59). -/
def State.endedAtLock (s : State) (windowEnd : Nat) : Option Word32 :=
  s.clockValue.map fun v => if windowEnd ≤ v then s.ckt.cycles else s.ckt.cycles - 1

/-- The flags that lock gained gives the windows of a channel (R66). -/
def State.freshWindows (s : State) (ch : Chan) : List WindowFlags :=
  let fresh := match s.tbm.inForce.cam.get ch with
    | some c => (s.tbm.inForce.edges.get ch).map fun e =>
        WindowFlags.mk false (s.windowOpen c e) (s.endedAtLock (c.windowEnd e.angle))
    | none => []
  fresh ++ List.replicate (6 - fresh.length) .clear

/-- The unit takes lock gained (R66). An EDGE_CLOSE that is still on its way to it was fired before it took the
notification, so its window is not checked (R66; log 45). A CYCLE_START on its way ends the partial cycle (R67). -/
def State.ceuLockGained (s : State) : State :=
  let fresh (ch : Chan) (r : CeuChan) : CeuChan :=
    let r := { r with cycMatches := 0, cycStrays := 0 }
    if s.chanBound ch then { r with firstAfterLock := true, windows := s.freshWindows ch } else r
  { s with
    handovers := s.handovers.filter fun h => (wantEdgeClose h).isNone
    ceu := { s.ceu with matching := true, partialCycle := true, chans := s.ceu.chans.map fresh } }

/-- CEU_LOCK_GAINED (R66). -/
def execCeuLockGained (s : State) : Outcome := .next (s.taking (wantCeuLock true) fun _ s => s.ceuLockGained)

/-- One channel after lock is lost (R69). -/
def CeuChan.lockLost (r : CeuChan) : CeuChan :=
  { r with
    valid := false
    windows := List.replicate 6 .clear
    cycMatches := 0
    cycStrays := 0
    noMatchRun := 0
    strayRun := 0 }

/-- The unit takes lock lost (R69). -/
def State.ceuLockLost (s : State) : State :=
  { s with ceu := { s.ceu with
    chans := s.ceu.chans.map fun _ => CeuChan.lockLost, matching := false, partialCycle := false, refSeen := false } }

/-- CEU_LOCK_LOST (R69). An entry of the schedule that was handed out before the notification and comes after it is
handled as matching clear, so it has no effect whenever it comes (R65, R69; log 35). -/
def execCeuLockLost (s : State) : Outcome :=
  .next (s.takingOver (wantCeuLock false) (fun h => h.lane == .ceuSchedule) fun _ s => s.ceuLockLost)

/-- Step 2 of R67 for a full cycle: the no-match run. -/
def State.checkMatches (s : State) (ch : Chan) : State :=
  let r := s.ceu.chans.get ch
  if r.cycMatches = 0 then
    let run := bump 255 r.noMatchRun
    if 3 ≤ run then
      (s.setCeu ch { r with noMatchRun := run, missingReported := true }).report .ceu (.camMissing ch) .present
    else s.setCeu ch { r with noMatchRun := run }
  else s.setCeu ch { r with noMatchRun := 0 }

/-- The stray check of a full cycle (R68). -/
def State.checkStrays (s : State) (ch : Chan) : State :=
  let r := s.ceu.chans.get ch
  if 2 ≤ r.cycStrays then
    let run := bump 255 r.strayRun
    if 4 ≤ run then
      (s.setCeu ch { r with strayRun := run, patternReported := true, firstAfterLock := false }).report .ceu
        (.camPattern ch) .present
    else s.setCeu ch { r with strayRun := run, firstAfterLock := false }
  else
    let gone := r.patternReported || r.firstAfterLock
    let s := s.setCeu ch { r with strayRun := 0, patternReported := false, firstAfterLock := false }
    if gone then s.report .ceu (.camPattern ch) .gone else s

/-- One bound channel at CYCLE_START (R67). -/
def State.chanCycle (full : Bool) (s : State) (ch : Chan) : State :=
  if !s.chanBound ch then s
  else
    let s := s.updCeu ch fun r => { r with valid := r.valid && r.cycMatches != 0 }
    let s := if full then (s.checkMatches ch).checkStrays ch else s
    s.updCeu ch fun r => { r with cycMatches := 0, cycStrays := 0 }

/-- The unit takes CYCLE_START (R67). -/
def State.ceuCycle (s : State) : State :=
  let full := !s.ceu.partialCycle
  let s := forEach allChans (State.chanCycle full) s
  { s with ceu := { s.ceu with partialCycle := false } }

/-- Accepts a CYCLE_START for the unit. -/
def wantCeuCycle : Handover → Option Word32
  | .ceuCycleStart _ cycle => some cycle
  | _ => none

/-- With matching clear the unit takes a CYCLE_START with no effect: R69 has the same thing taken after lock lost handled
as matching clear, and one of a new lock taken before its lock-gained notification is handled so too (log 35). -/
def State.ceuCycleStart (s : State) : State := if s.ceu.matching then s.ceuCycle else s

/-- CEU_CYCLE_START (R67). -/
def execCeuCycleStart (s : State) : Outcome := .next (s.taking wantCeuCycle fun _ s => s.ceuCycleStart)

/-! ### RUN entry and leaving RUN (R58, R72) -/

/-- One channel's working state at RUN entry: reset values; the two reported flags are kept for a bound channel, and
for an unbound one their conditions are reported gone (R58, R72). -/
def State.ceuEnterChan (s : State) (ch : Chan) : State :=
  let r := s.ceu.chans.get ch
  if s.chanBound ch then
    s.setCeu ch { CeuChan.reset with
      phase := r.phase, valid := r.valid, missingReported := r.missingReported, patternReported := r.patternReported }
  else
    let s := s.setCeu ch { CeuChan.reset with phase := r.phase }
    let s := if r.missingReported then s.report .ceu (.camMissing ch) .gone else s
    if r.patternReported then s.report .ceu (.camPattern ch) .gone else s

/-- The unit at RUN entry (R58, R72). -/
def State.ceuEnterRun (s : State) : State :=
  let s := forEach allChans State.ceuEnterChan s
  { s with ceu := { s.ceu with matching := false, partialCycle := false, refSeen := false, reportSent := false } }

/-- The unit when the part leaves RUN: lock has been lost, so matching is clear and no record is valid (R72), whether
or not the unit has taken the notification (log 45). -/
def State.ceuLeaveRun (s : State) : State := s.ceuLockLost

end Sys2Proof.Machine
end

