-- ==== Sys2Proof/Machine/Crank.lean ====
section
/-! DEFINITION. The Crank Tracker: the reference reports, the running clock with the reports it sends, accepting an edge,
noise, gaps and teeth, the four states, speed, the stall timer (R19 to R36, R39, R40, R71; log 10, 11, 27, 41). -/

namespace Sys2Proof.Machine

/-! ### Notifications (R39, R40) -/

/-- Changes the tracker record. -/
def State.updCkt (s : State) (f : Ckt → Ckt) : State := { s with ckt := f s.ckt }

/-- The start notification. -/
def State.notifyStart (s : State) : State :=
  forEach allUnits (fun s u => s.hand (.lfsStart u)) (forEach allChans (fun s ch => s.hand (.phcStart ch)) s)

/-- The lock-gained notification. -/
def State.notifyLockGained (s : State) : State := (s.hand (.ascLock true)).hand (.ceuLock true)

/-- The lock-lost notification. -/
def State.notifyLockLost (s : State) : State :=
  let s := (s.hand (.ascLock false)).hand (.ceuLock false)
  let s := forEach allChans (fun s ch => s.hand (.phcLockLost ch)) s
  let s := forEach allUnits (fun s u => s.hand (.lfsLockLost u)) s
  s.hand .trbLockLost

/-- !SYN, after a change of state from `old` (R40). -/
def State.synNotice (s : State) (old : CrankState) (cause : SynCause) : State :=
  s.notice .ckt (.syn s.ckt.state old cause s.ckt.rpm s.ckt.cycles)

/-- Accepts a reference report: what it says, and the lap in which it arrived. -/
def wantReferenceReport : Handover → Option (Bool × Bool)
  | .referenceReport seen lap => some (seen, lap)
  | _ => none

/-- The tracker enters SEEKING or STOPPED: the clock becomes absent, with it the reference look is empty and no report has been sent (R31, R70), and a
reference report still on its way is ignored, since the slip or the stall is taken first (R29). -/
def State.dropClock (s : State) : State :=
  { s with
    ckt := { s.ckt with clock := none }
    ceu := { s.ceu with refSeen := false, reportSent := false }
    handovers := s.handovers.filter fun h => (wantReferenceReport h).isNone }

/-! ### Reference reports (R29, R30, R32) -/

/-- Whether the reference window ends in the second half of the cycle (R29): the home half. -/
def Layout.homeHalf (l : Layout) : Option Bool :=
  l.reference.map fun r => decide (revAu ≤ r.2.1.windowEnd r.2.2.angle)

/-- CAM_MISSING of the reference channel (R30). -/
def State.reportMissing (s : State) (kind : ReportKind) : State :=
  match s.tbm.inForce.reference with
  | some (ch, _, _) => s.report .ckt (.camMissing ch) kind
  | none => s

/-- A SEEN report with missing reported set (R30). -/
def State.seenAgain (s : State) (seen : Bool) : State :=
  if seen && s.ckt.missingReported then
    (s.updCkt fun k => { k with missingReported := false }).reportMissing .gone
  else s

/-- The not-seen tally and CAM_MISSING present (R30). -/
def State.countNotSeen (s : State) (seen : Bool) : State :=
  if seen then s.updCkt fun k => { k with notSeen := 0 }
  else
    let s := s.updCkt fun k => { k with notSeen := k.notSeen + 1 }
    if 4 ≤ s.ckt.notSeen then
      (s.updCkt fun k => { k with missingReported := true }).reportMissing .present
    else s

/-- The clock relabelled to a value `v` of the same moment, on a circle of `m` units. Its anchors go with it, each set
back from that value by the distance it lies behind (R29, R32, R37). Where an anchor lies before revolution angle 0
and the clock after it, that is not the same as adding one constant to all three (log 41). -/
def AngleClock.relabel (c : AngleClock) (v m : Nat) : AngleClock :=
  let a := (v + m - c.reached % m) % m
  { c with
    anchor := { c.anchor with angle := a }
    previous := c.previous.map fun p => { p with angle := (a + m - p.span % m) % m } }

/-- Two agreeing reports: CYCLE_LOCKED, the current revolution in half `second` (R29). -/
def State.enterCycleLocked (s : State) (second : Bool) : State :=
  let s := s.updCkt fun k => { k with
    state := .cycleLocked
    clock := k.clock.map fun c => c.relabel (c.value revAu + if second then revAu else 0) cycleAu
    wrongHalf := 0
    awaySeen := false }
  s.notifyLockGained.synNotice .crankLocked .half

/-- A report in CRANK_LOCKED (R29, R30); `on` says that the clock has gone on into the revolution after the one in which
the report arrived (log 11). -/
def State.crankReport (s : State) (seen home on : Bool) : State :=
  let s := s.countNotSeen seen
  let proposal := if seen then home else !home
  match s.ckt.halfCandidate with
  | some c =>
    if c != proposal then s.enterCycleLocked (proposal ^^ on)
    else s.updCkt fun k => { k with halfCandidate := some proposal }
  | none => s.updCkt fun k => { k with halfCandidate := some proposal }

/-- The second wrong-half cycle in a row: CRANK_LOCKED, SYNC_SLIP, lock lost (R32). -/
def State.halfSlip (s : State) : State :=
  let s := s.updCkt fun k => { k with
    state := .crankLocked
    clock := k.clock.map fun c => c.relabel (c.value cycleAu % revAu) revAu
    halfCandidate := none
    notSeen := 0
    awaySeen := false
    wrongHalf := 0 }
  ((s.report .ckt .syncSlip .event).notifyLockLost).synNotice .cycleLocked .halfSlip

/-- A report in CYCLE_LOCKED, in the half in which it arrived (R32; log 11). -/
def State.cycleReport (s : State) (seen home on : Bool) : State :=
  let second := decide (revAu ≤ s.clockValue.getD 0) ^^ on
  if second != home then s.updCkt fun k => { k with awaySeen := seen }
  else
    let wrong := if s.ckt.awaySeen && !seen then s.ckt.wrongHalf + 1 else 0
    let s := s.updCkt fun k => { k with wrongHalf := wrong, awaySeen := false }
    if 2 ≤ wrong then s.halfSlip else s

/-- The tracker takes a reference report that arrived while its `lap` was the one given (R29, R30, R32). -/
def State.takeReport (s : State) (seen lap : Bool) : State :=
  let home := s.tbm.inForce.homeHalf.getD false
  let on := s.ckt.lap ^^ lap
  match s.ckt.state with
  | .crankLocked => (s.seenAgain seen).crankReport seen home on
  | .cycleLocked => (s.seenAgain seen).cycleReport seen home on
  | _ => s

/-- REFERENCE_REPORT (R29). -/
def execReferenceReport (s : State) : Outcome := .next (s.taking wantReferenceReport fun r s => s.takeReport r.1 r.2)

/-! ### The clock runs on (R35, R36, R47 to R49, R54, R71) -/

/-- A reference report is on its way to the tracker. -/
def State.reportInFlight (s : State) : Bool := s.handovers.any fun h => (wantReferenceReport h).isSome

/-- The clock passes the `n` angles after `c` and takes the value of `new`. A reference report whose angle lies there is
sent, and reference seen cleared (R36, R70, R71). `hold` has a meaning only where that report ends the lock: the tracker then
takes it within the step, and the scheduler its loss before the last `hold` of the entries due (R54; log 10). A report
that brings a lock is taken after the whole stretch, so a passage of revolution angle 0 that lies after it in the stretch
of an early tooth counts as no passage of cycle angle 0 (R34; log 11). -/
def State.passAngles (s : State) (c n : Nat) (new : AngleClock) (hold : Nat) : State :=
  match s.reportDue c n with
  | none => s.advance c n new 0
  | some d =>
    let seen := s.ceu.refSeen
    let lap := s.ckt.lap ^^ oddLaps c d
    let s : State := { s with ceu := { s.ceu with refSeen := false, reportSent := true } }
    let lost := (s.advance c n new hold).takeReport seen lap
    if decide (0 < hold) && s.ckt.state == .cycleLocked && lost.ckt.state == .crankLocked && !s.reportInFlight then lost
    else (s.hand (.referenceReport seen lap)).advance c n new 0

/-- How long after its anchor's time the clock reaches `k` au past the anchor (R35). -/
def Anchor.reachTime (a : Anchor) (k : Nat) : Nat := quotient (k * a.expected + (a.span - 1)) a.span

/-- Between teeth the clock runs `n` angles on. -/
def State.run (s : State) (n hold : Nat) : State :=
  match s.ckt.clock, n with
  | none, _ => s
  | some _, 0 => s
  | some c, n + 1 => s.passAngles (c.value s.clockCircle) (n + 1) { c with reached := c.reached + (n + 1) } hold

/-- Between teeth the clock runs `n` angles on, reaching them one by one: those before the angle of a reference report,
then that angle, then the rest. Only of the entries at the report's own angle can `hold` leave any (R47, R49, R54; log
10). -/
def State.runAngles (s : State) (n hold : Nat) : State :=
  match (s.clockValue.bind fun c => s.reportDue c n) with
  | none => s.run n 0
  | some d => ((s.run (d - 1) 0).run 1 hold).run (n - d) 0

/-- ANGLE_CLOCK_REACH: between teeth the clock runs `au` further, at most to one au short of the next tooth (R35, R47;
log 10). -/
def execAngleClockReach (au hold : Nat) (s : State) : Outcome :=
  match s.ckt.clock with
  | none => .next s
  | some c =>
    let n := min au (c.anchor.span - 1 - c.reached)
    if n = 0 then .next s
    else .next ((s.pass (c.anchor.reachTime (c.reached + n) - s.since c.anchor.time)).runAngles n hold)

/-! ### Accepting an edge (R21, R22) -/

/-- What R21 makes of an edge at time `t`: discarded as noise, or accepted with its interval if it has one. -/
inductive EdgeClass
  | noise | accepted (interval : Option Word32)
deriving DecidableEq, Repr

/-- The noise filter (R21). -/
def Ckt.classify (k : Ckt) (w : Wheel) (t : Word32) : EdgeClass :=
  match k.lastEdge with
  | none => .accepted none
  | some last =>
    let i := t - last
    if i.toNat < w.minInterval then .noise
    else
      match k.lastInterval with
      | some li => if 4 * i.toNat < li.toNat then .noise else .accepted (some i)
      | none => .accepted (some i)

/-- A discarded edge: the tally goes up, and at 4 CRANK_NOISE is reported present (R22). -/
def State.discardEdge (s : State) : State :=
  let s := s.updCkt fun k => { k with noiseTally := k.noiseTally + 1 }
  if s.ckt.noiseTally = 4 then
    (s.updCkt fun k => { k with noiseReported := true }).report .ckt .crankNoise .present
  else s

/-- The checks of R22 at an accepted gap edge, and the tally back to 0. -/
def State.gapNoise (s : State) : State :=
  let clean := s.ckt.noiseTally == 0 && s.ckt.lastGap.isSome && s.ckt.noiseReported
  let s := if clean then (s.updCkt fun k => { k with noiseReported := false }).report .ckt .crankNoise .gone else s
  s.updCkt fun k => { k with noiseTally := 0 }

/-- The gap test on the intervals of an accepted edge (R24). -/
def Ckt.isGap (k : Ckt) (w : Wheel) : Bool :=
  match k.lastInterval, k.intervalBefore with
  | some li, some before => decide (w.gapFactor * before.toNat ≤ 8 * li.toNat)
  | _, _ => false

/-- The pitch period after an accepted edge (R24). -/
def Ckt.newPitch (k : Ckt) (w : Wheel) (gap : Bool) : Option Nat :=
  match k.lastInterval with
  | some li => some (if gap then quotient li.toNat (w.missing + 1) else li.toNat)
  | none => none

/-- The record after an edge at `t` is accepted: stall timer, times and intervals, pitch period (R21, R24). -/
def Ckt.accept (k : Ckt) (w : Wheel) (t : Word32) (interval : Option Word32) (expiry : Time) : Ckt :=
  let k := { k with
    stall := some expiry
    lastEdge := some t
    intervalBefore := k.lastInterval
    lastInterval := interval }
  { k with pitch := k.newPitch w (k.isGap w) }

/-! ### Speed (R33) -/

/-- The revolution time at a right-count gap edge at `t`. -/
def Ckt.revolution (k : Ckt) (t : Word32) : Option Nat := k.lastGap.map fun g => (t - g).toNat

/-- Rpm from the revolution time, in units of 0.5 µs. -/
def rpmOf (rev : Nat) : Nat := quotient 120000000 rev

/-- Rpm, tooth number and last gap time at a right-count gap edge (R28, R33). -/
def Ckt.rightGap (k : Ckt) (t : Word32) : Ckt :=
  { k with
    rpm := match k.revolution t with
      | some rev => rpmOf rev
      | none => k.rpm
    tooth := some 1
    lastGap := some t }

/-! ### The states (R26 to R28, R31) -/

/-- The anchor at tooth `n`, at time `t` and angle `a` (R35). -/
def Ckt.anchorAt (k : Ckt) (w : Wheel) (n : Nat) (t : Word32) (a : Nat) : Anchor :=
  ⟨t, a, w.spanAu n, k.pitch.getD 0 * w.spanPitches n⟩

/-- Entry to SEEKING from STOPPED (R26). -/
def State.enterSeeking (s : State) : State :=
  let s := s.updCkt fun k => { k with state := .seeking, tooth := none, clock := none }
  s.notifyStart.synNotice .stopped .start

/-- Entry to CRANK_LOCKED at a gap edge at `t` (R28). -/
def State.enterCrankLocked (s : State) (w : Wheel) (t : Word32) : State :=
  let s := s.updCkt fun k => k.rightGap t
  let s := s.updCkt fun k => { k with
    state := .crankLocked
    clock := some ⟨k.anchorAt w 1 t (w.toothAngle 1), none, 0⟩
    halfCandidate := none
    notSeen := 0 }
  s.synNotice .seeking .teeth

/-- An accepted edge in SEEKING (R27). -/
def State.seekingEdge (s : State) (w : Wheel) (t : Word32) (gap : Bool) : State :=
  if gap then
    if s.ckt.tooth = some w.teeth then s.enterCrankLocked w t
    else s.updCkt fun k => { k with tooth := some 1, lastGap := some t }
  else s.updCkt fun k => { k with tooth := k.tooth.map fun n => bump 63 n }

/-- A wrong tooth count: SEEKING, with SYNC_SLIP and lock lost where the tracker was CYCLE_LOCKED (R28, R31). -/
def State.wrongCount (s : State) (t : Word32) (gap : Bool) : State :=
  let old := s.ckt.state
  let s := State.dropClock <| s.updCkt fun k => { k with
    state := .seeking
    tooth := if gap then some 1 else none
    lastGap := if gap then some t else k.lastGap
    halfCandidate := none
    notSeen := 0
    awaySeen := false
    wrongHalf := 0 }
  let s := if old = .cycleLocked then (s.report .ckt .syncSlip .event).notifyLockLost else s
  s.synNotice old .count

/-- The clock is set to the tooth that an accepted edge at `t` completes, now tooth `n`; the angles up to it are passed
(R36, R37). -/
def State.clockToTooth (s : State) (w : Wheel) (n : Nat) (t : Word32) (hold : Nat) : State :=
  match s.ckt.clock with
  | none => s
  | some c =>
    let m := s.clockCircle
    let new : AngleClock := ⟨s.ckt.anchorAt w n t ((c.anchor.angle + c.anchor.span) % m), some c.anchor, 0⟩
    s.passAngles (c.value m) (c.anchor.span - c.reached) new hold

/-- An accepted edge in CRANK_LOCKED or CYCLE_LOCKED (R28, R31). -/
def State.lockedEdge (s : State) (w : Wheel) (t : Word32) (gap : Bool) (hold : Nat) : State :=
  match gap, s.ckt.tooth == some w.teeth with
  | true, true => (s.updCkt fun k => k.rightGap t).clockToTooth w 1 t hold
  | true, false => s.wrongCount t true
  | false, true => s.wrongCount t false
  | false, false =>
    let n := bump 63 (s.ckt.tooth.getD 0)
    (s.updCkt fun k => { k with tooth := some n }).clockToTooth w n t hold

/-- An accepted edge (R21, R22, R24), in the state the tracker is in. -/
def State.acceptEdge (s : State) (w : Wheel) (interval : Option Word32) (hold : Nat) : State :=
  let t := s.timeBase
  let s := s.updCkt fun k => k.accept w t interval (s.now + ms w.stallMs)
  let gap := s.ckt.isGap w
  let s := if gap then s.gapNoise else s
  match s.ckt.state with
  | .stopped => s.enterSeeking
  | .seeking => s.seekingEdge w t gap
  | _ => s.lockedEdge w t gap hold

/-- CRK_EDGE: a falling edge `dt` after the step before (R20, R21). -/
def execCrkEdge (dt hold : Nat) (s : State) : Outcome :=
  let s := s.pass dt
  match s.inRun, s.tbm.inForce.wheel with
  | true, some w =>
    match s.ckt.classify w s.timeBase with
    | .noise => .next s.discardEdge
    | .accepted i => .next (s.acceptEdge w i hold)
  | _, _ => .next s

/-! ### Stall (R23) -/

/-- The record after the stall timer expires (R23). -/
def Ckt.stalled (k : Ckt) : Ckt :=
  { Ckt.reset with cycles := k.cycles, noiseReported := k.noiseReported, missingReported := k.missingReported }

/-- The stall timer expires (R23). -/
def State.stallExpires (s : State) : State :=
  let old := s.ckt.state
  let s := State.dropClock (s.updCkt Ckt.stalled)
  let s := if old = .cycleLocked then s.notifyLockLost else s
  s.synNotice old .stall

/-- STALL_TIMER_EXPIRY (R23; log 4). The stopped notification changes nothing at its receivers (R85, R135; log 27). -/
def execStallTimerExpiry (s : State) : Outcome :=
  match s.ckt.stall with
  | some t => .next (s.reachTime t).stallExpires
  | none => .next s

end Sys2Proof.Machine
end

