-- ==== Sys2Proof/Machine/Flags.lean ====
section
/-! DEFINITION. The Fault Manager's computations: the record table, the context of a record, the response in force,
the FLT line, the fixed actions and clears, what a report makes of its record, what a reset leaves (R139 to R152; log 24,
49). -/

namespace Sys2Proof.Machine

/-! ### The Fault Record Table (R140) -/

/-- The record of a kind and scope instance. -/
def FaultTable.get (t : FaultTable) : FaultId → FaultRec
  | .syncSlip => t.syncSlip
  | .crankNoise => t.crankNoise
  | .camPattern ch => t.camPattern.get ch
  | .camMissing ch => t.camMissing.get ch
  | .phaserStuck ch => t.phaserStuck.get ch
  | .parkFail ch => t.parkFail.get ch
  | .driverShort out => t.driverShort.get out
  | .driverOpen out => t.driverOpen.get out
  | .oilLow => t.oilLow
  | .hostStale => t.hostStale
  | .liftNoConfirm u => t.liftNoConfirm.get u
  | .liftPosition u => t.liftPosition.get u
  | .liftMismatch => t.liftMismatch
  | .supplyLow => t.supplyLow
  | .storeDamaged => t.storeDamaged
  | .traceMissed => t.traceMissed

/-- Replaces the record of a kind and scope instance. -/
def FaultTable.set (t : FaultTable) (id : FaultId) (r : FaultRec) : FaultTable :=
  match id with
  | .syncSlip => { t with syncSlip := r }
  | .crankNoise => { t with crankNoise := r }
  | .camPattern ch => { t with camPattern := t.camPattern.set ch r }
  | .camMissing ch => { t with camMissing := t.camMissing.set ch r }
  | .phaserStuck ch => { t with phaserStuck := t.phaserStuck.set ch r }
  | .parkFail ch => { t with parkFail := t.parkFail.set ch r }
  | .driverShort out => { t with driverShort := t.driverShort.set out r }
  | .driverOpen out => { t with driverOpen := t.driverOpen.set out r }
  | .oilLow => { t with oilLow := r }
  | .hostStale => { t with hostStale := r }
  | .liftNoConfirm u => { t with liftNoConfirm := t.liftNoConfirm.set u r }
  | .liftPosition u => { t with liftPosition := t.liftPosition.set u r }
  | .liftMismatch => { t with liftMismatch := r }
  | .supplyLow => { t with supplyLow := r }
  | .storeDamaged => { t with storeDamaged := r }
  | .traceMissed => { t with traceMissed := r }

/-- A record is held when its state is ACTIVE or LATCHED (R140). -/
def FaultRec.held (r : FaultRec) : Bool :=
  match r.state with
  | .active => true
  | .latched => true
  | _ => false

/-- The record is INACTIVE. -/
def FaultRec.inactive (r : FaultRec) : Bool := r.state == .inactive

/-- A record of the part. -/
def State.fault (s : State) (id : FaultId) : FaultRec := s.fmg.table.get id

/-! ### Context (R141) -/

/-- The state of the channel an OCV output binds. -/
def State.ocvBound (s : State) (o : LineABCD) : Option (Chan × ChanState) :=
  (s.vdr.ocv.get o).binding.map fun ch => (ch, (s.phc.chans.get ch).state)

/-- The state of the unit an LS output binds. -/
def State.lsBound (s : State) (o : LineAB) : Option (LiftUnit × LiftState) :=
  (s.vdr.ls.get o).binding.map fun u => (u, (s.lfs.units.get u).state)

/-- The channel part of a context. -/
def State.chanContext (s : State) (ch : Chan) : ScopeContext :=
  .channel (s.phc.chans.get ch).state (s.phc.chans.get ch).presented (s.ceu.chans.get ch).phase
    (s.ceu.chans.get ch).valid (s.phc.chans.get ch).duty

/-- The unit part of a context. -/
def State.unitContext (s : State) (u : LiftUnit) : ScopeContext :=
  .unit (s.lfs.units.get u).state (s.phc.chans.get (intake u)).state

/-- The output part of a context. -/
def State.outContext (s : State) : Out → ScopeContext
  | .ocv o => .ocv (s.vdr.ocv.get o).lineOn (s.ocvBound o)
  | .ls o => .ls (s.vdr.ls.get o).lineOn (s.lsBound o)

/-- The scope part of the context of a record. -/
def State.scopeContext (s : State) : FaultId → ScopeContext
  | .camPattern ch => s.chanContext ch
  | .camMissing ch => s.chanContext ch
  | .phaserStuck ch => s.chanContext ch
  | .parkFail ch => s.chanContext ch
  | .driverShort out => s.outContext out
  | .driverOpen out => s.outContext out
  | .liftNoConfirm u => s.unitContext u
  | .liftPosition u => s.unitContext u
  | _ => .device

/-- The context of a record, read from the owners as they stand (R141). -/
def State.context (s : State) (id : FaultId) : Context :=
  ⟨s.smc.mode, s.ckt.state, s.ckt.rpm, s.smc.supplyState, s.smc.supply, s.scopeContext id⟩

/-! ### The response in force (R147) -/

/-- PARK is stronger than HOLD, HOLD stronger than NONE. -/
def PhaserAction.strongest : PhaserAction → PhaserAction → PhaserAction
  | .park, _ => .park
  | _, .park => .park
  | .hold, _ => .hold
  | _, .hold => .hold
  | .none, .none => .none

/-- Which channels a record with phaser scope OWN covers. -/
def State.ownCoversChan (s : State) (id : FaultId) (ch : Chan) : Bool :=
  match id with
  | .camPattern c => c == ch
  | .camMissing c => c == ch
  | .phaserStuck c => c == ch
  | .parkFail c => c == ch
  | .driverShort (.ocv o) => (s.vdr.ocv.get o).binding == some ch
  | .driverShort (.ls _) => false
  | .driverOpen (.ocv o) => (s.vdr.ocv.get o).binding == some ch
  | .driverOpen (.ls _) => false
  | .liftNoConfirm u => intake u == ch
  | .liftPosition u => intake u == ch
  | _ => true

/-- Which units a record with lift scope OWN covers. -/
def State.ownCoversUnit (s : State) (id : FaultId) (u : LiftUnit) : Bool :=
  match id with
  | .camPattern c => c == intake u
  | .camMissing c => c == intake u
  | .phaserStuck c => c == intake u
  | .parkFail c => c == intake u
  | .driverShort (.ocv _) => false
  | .driverShort (.ls o) => (s.vdr.ls.get o).binding == some u
  | .driverOpen (.ocv _) => false
  | .driverOpen (.ls o) => (s.vdr.ls.get o).binding == some u
  | .liftNoConfirm v => v == u
  | .liftPosition v => v == u
  | _ => true

/-- The response record of a record's kind (R145). -/
def State.responseRec (s : State) (id : FaultId) : ResponseRec := s.tbm.response.get (faultKind id)

/-- A record is held and covers the channel. -/
def State.coversChan (s : State) (ch : Chan) (id : FaultId) : Bool :=
  (s.fault id).held && ((s.responseRec id).phaserAll || s.ownCoversChan id ch)

/-- A record is held, has lift action LOW and covers the unit. -/
def State.lowersUnit (s : State) (u : LiftUnit) (id : FaultId) : Bool :=
  (s.fault id).held && (s.responseRec id).liftLow && ((s.responseRec id).liftAll || s.ownCoversUnit id u)

/-- The response in force of a channel, by the rule: the strongest phaser action among the held records that cover it. -/
def State.chanResponseNow (s : State) (ch : Chan) : PhaserAction :=
  (allFaultIds.filter (s.coversChan ch)).foldl (fun acc id => acc.strongest (s.responseRec id).phaser) .none

/-- The response in force of a unit, by the rule: LOW when a held record with lift action LOW covers it. -/
def State.unitLowNow (s : State) (u : LiftUnit) : Bool := allFaultIds.any (s.lowersUnit u)

/-- Sets a channel's response in force and hands a change to the arbiter and to the channel. -/
def State.recomputeChan (s : State) (ch : Chan) : State :=
  let new := s.chanResponseNow ch
  if new = s.fmg.chanResponse.get ch then s
  else
    ((({ s with fmg := { s.fmg with chanResponse := s.fmg.chanResponse.set ch new } } : State).hand
      (.tgaResponse ch new)).hand (.phcResponse ch new))

/-- Sets a unit's response in force and hands a change to the Lift Sequencer. -/
def State.recomputeUnit (s : State) (u : LiftUnit) : State :=
  let new := s.unitLowNow u
  if new = s.fmg.unitLow.get u then s
  else ({ s with fmg := { s.fmg with unitLow := s.fmg.unitLow.set u new } } : State).hand (.lfsResponse u new)

/-- Recomputes every response in force; a change is handed on, and no change hands nothing (R147). -/
def State.recompute (s : State) : State :=
  forEach allUnits State.recomputeUnit (forEach allChans State.recomputeChan s)

/-! ### The FLT line (R149) -/

/-- FLT by the rule: a class-1 record is held, or a channel is in LOCKOUT. -/
def State.fltNow (s : State) : Bool :=
  (allFaultIds.any fun id => faultClass (faultKind id) == 1 && (s.fault id).held) ||
    allChans.any fun ch => (s.phc.chans.get ch).state == .lockout

/-- Re-evaluates FLT. -/
def State.evalFlt (s : State) : State := { s with fmg := { s.fmg with flt := s.fltNow } }

/-! ### Record changes and clears (R148) -/

/-- Both driver records of an output are INACTIVE. -/
def FaultTable.outClear (t : FaultTable) (out : Out) : Bool :=
  (t.driverShort.get out).inactive && (t.driverOpen.get out).inactive

/-- The LS output that binds a unit, as the Valve Drivers set it at RUN entry (R110). -/
def State.boundLs (s : State) (u : LiftUnit) : Option LineAB := allAB.find? fun o => (s.vdr.ls.get o).binding == some u

/-- A unit's stuck records are all INACTIVE (R124). Of a unit that no LS output binds yet, its LIFT_NO_CONFIRM record is
the only one (R148; log 49). -/
def State.stuckClear (s : State) (t : FaultTable) (u : LiftUnit) : Bool :=
  (t.liftNoConfirm.get u).inactive &&
    match s.boundLs u with
    | some o => t.outClear (.ls o)
    | none => true

/-- Hands a driver clear where the change from `old` to `new` left both driver records of an output INACTIVE. -/
def State.handDriverClear (old new : FaultTable) (s : State) (out : Out) : State :=
  if new.outClear out && !old.outClear out then
    let s := s.hand (.vdrDriverClear out)
    match out with
    | .ocv o =>
      match (s.vdr.ocv.get o).binding with
      | some ch => s.hand (.phcDriverClear ch)
      | none => s
    | .ls _ => s
  else s

/-- Hands a unit clear where the change from `old` to `new` left all stuck records of a unit INACTIVE. -/
def State.handUnitClear (old new : FaultTable) (s : State) (u : LiftUnit) : State :=
  if s.stuckClear new u && !s.stuckClear old u then s.hand (.unitClear u) else s

/-- One record change: the table is replaced, the responses in force are recomputed, FLT is re-evaluated, and the
clears that the new states call for are handed (R147, R148, R149, R151). -/
def State.changeRecords (s : State) (new : FaultTable) : State :=
  let old := s.fmg.table
  let s : State := { s with fmg := { s.fmg with table := new } }
  let s := s.recompute.evalFlt
  let s := forEach allOuts (State.handDriverClear old new) s
  forEach allUnits (State.handUnitClear old new) s

/-- One record replaced, as a record change. -/
def State.changeRecord (s : State) (id : FaultId) (r : FaultRec) : State := s.changeRecords (s.fmg.table.set id r)

/-- The driver fault of an output's report: to the channel or unit that the output binds (R148). -/
def State.handDriverFault (s : State) (class1 : Bool) : Out → State
  | .ocv o =>
    match (s.vdr.ocv.get o).binding with
    | some ch => s.hand (.phcDriverFault ch class1)
    | none => s
  | .ls o =>
    match (s.vdr.ls.get o).binding with
    | some u => s.hand (.stuckAction u)
    | none => s

/-- The fixed actions of an occurrence (R148). -/
def State.fixedAction (s : State) : FaultId → State
  | .driverShort out => s.handDriverFault true out
  | .driverOpen out => s.handDriverFault false out
  | .parkFail ch => s.hand (.phcClass1 ch)
  | _ => s

/-- What an occurrence brings besides the count: a push where capture is set, !FLT where notify is set (R144). -/
def State.occurrence (s : State) (id : FaultId) : State :=
  let r := s.fault id
  let s := if (s.responseRec id).capture then s.hand (.trbPush (.fault id)) else s
  if (s.responseRec id).notify then s.notice .fmg (.flt id r.state r.count r.lastSeen) else s

/-- A record with one occurrence more, up to 255 (R140, R144). -/
def FaultRec.counted (r : FaultRec) : FaultRec := { r with count := bump 255 r.count }

/-- First-seen and context, taken where the record was INACTIVE (R141, R143). -/
def State.seenFirst (s : State) (id : FaultId) (r : FaultRec) : FaultRec :=
  if r.inactive then { r with firstSeen := some s.ckt.cycles, context := some (s.context id) } else r

/-- An occurrence: the record enters `new` with its count raised, and what R144 and R148 give follows. -/
def State.occur (s : State) (id : FaultId) (new : FaultRec) : State :=
  ((s.changeRecord id new.counted).occurrence id).fixedAction id

/-- A condition reported present (R141). -/
def State.takePresent (s : State) (id : FaultId) : State :=
  let r := { s.seenFirst id (s.fault id) with lastSeen := some s.ckt.cycles }
  let debounce := (s.responseRec id).debounce
  match r.state with
  | .inactive =>
    if debounce ≤ 1 then s.occur id { r with state := .active, tally := 0 }
    else s.changeRecord id { r with state := .pending, tally := 1 }
  | .pending =>
    if debounce ≤ r.tally + 1 then s.occur id { r with state := .active, tally := 0 }
    else s.changeRecord id { r with tally := r.tally + 1 }
  | .active => s.changeRecord id r
  | .latched => s.occur id { r with state := .active, tally := 0 }

/-- A condition reported gone (R142). -/
def State.takeGone (s : State) (id : FaultId) : State :=
  let r := s.fault id
  match r.state with
  | .pending => s.changeRecord id { FaultRec.clean with count := r.count }
  | .active => s.changeRecord id { r with state := .latched }
  | _ => s

/-- An event (R143). -/
def State.takeEvent (s : State) (id : FaultId) : State :=
  s.occur id { s.seenFirst id (s.fault id) with state := .latched, lastSeen := some s.ckt.cycles }

/-! ### Records after a reset (R152) -/

/-- What a LINE or LINE_REQUEST reset leaves of a record. -/
def FaultRec.afterLine (r : FaultRec) : FaultRec :=
  match r.state with
  | .pending => { FaultRec.clean with count := r.count }
  | .active => { r with state := .latched }
  | _ => r

/-- What a LINE or LINE_REQUEST reset leaves of the table. -/
def FaultTable.afterLine (t : FaultTable) : FaultTable where
  syncSlip := t.syncSlip.afterLine
  crankNoise := t.crankNoise.afterLine
  camPattern := t.camPattern.map fun _ => FaultRec.afterLine
  camMissing := t.camMissing.map fun _ => FaultRec.afterLine
  phaserStuck := t.phaserStuck.map fun _ => FaultRec.afterLine
  parkFail := t.parkFail.map fun _ => FaultRec.afterLine
  driverShort := ⟨t.driverShort.ocv.map fun _ => FaultRec.afterLine, t.driverShort.ls.map fun _ => FaultRec.afterLine⟩
  driverOpen := ⟨t.driverOpen.ocv.map fun _ => FaultRec.afterLine, t.driverOpen.ls.map fun _ => FaultRec.afterLine⟩
  oilLow := t.oilLow.afterLine
  hostStale := t.hostStale.afterLine
  liftNoConfirm := t.liftNoConfirm.map fun _ => FaultRec.afterLine
  liftPosition := t.liftPosition.map fun _ => FaultRec.afterLine
  liftMismatch := t.liftMismatch.afterLine
  supplyLow := t.supplyLow.afterLine
  storeDamaged := t.storeDamaged.afterLine
  traceMissed := t.traceMissed.afterLine

/-- The reset kinds that clear every record (R152). -/
def ResetCause.cold : ResetCause → Bool
  | .powerOn => true
  | .brownout => true
  | _ => false

/-- The Fault Manager after a reset of a kind: the records and, until the release recomputes them, no response in
force (R152). -/
def Fmg.afterReset (f : Fmg) (cause : ResetCause) : Fmg :=
  ⟨if cause.cold then .clean else f.table.afterLine, .all .none, .all false, false⟩

end Sys2Proof.Machine
end

