-- ==== Sys2Proof/Machine/Faults.lean ====
section
/-! DEFINITION. The commands of the Fault Manager: taking reports and lockout changes, and RSPR, RSPW, FLTR, FLTC
(R139 to R151; log 18, 21). -/

namespace Sys2Proof.Machine

/-! ### Reports -/

/-- Accepts a report of a kind on a record, from any block. -/
def wantReport (id : FaultId) (kind : ReportKind) : Handover → Option Unit
  | .report _ id' kind' => if id' = id ∧ kind' = kind then some () else none
  | _ => none

/-- FAULT_PRESENT (R141). -/
def execFaultPresent (id : FaultId) (s : State) : Outcome :=
  .next (s.taking (wantReport id .present) fun _ s => s.takePresent id)

/-- FAULT_GONE (R142). -/
def execFaultGone (id : FaultId) (s : State) : Outcome :=
  .next (s.taking (wantReport id .gone) fun _ s => s.takeGone id)

/-- FAULT_EVENT (R143). -/
def execFaultEvent (id : FaultId) (s : State) : Outcome :=
  .next (s.taking (wantReport id .event) fun _ s => s.takeEvent id)

/-- Accepts a lockout change. -/
def wantLockoutChange : Handover → Option Unit
  | .lockoutChange => some ()
  | _ => none

/-- FMG_LOCKOUT_CHANGE (R149). -/
def execFmgLockoutChange (s : State) : Outcome := .next (s.taking wantLockoutChange fun _ s => s.evalFlt)

/-! ### The Response table (R145, R146) -/

/-- The seven fields of a response record, in the order of R145. -/
def responseFields (r : ResponseRec) : List Field :=
  [.word (actionWord r.phaser), .word (if r.phaserAll then .ALL else .OWN), .word (if r.liftLow then .LOW else .NONE),
    .word (if r.liftAll then .ALL else .OWN), nat r.debounce, yesNo r.capture, yesNo r.notify]

/-- A phaser action. -/
def action? : Field → Option PhaserAction
  | .word .NONE => some .none
  | .word .HOLD => some .hold
  | .word .PARK => some .park
  | _ => none

/-- A scope: ALL or OWN. -/
def scopeAll? : Field → Option Bool
  | .word .ALL => some true
  | .word .OWN => some false
  | _ => none

/-- A lift action. -/
def liftLow? : Field → Option Bool
  | .word .LOW => some true
  | .word .NONE => some false
  | _ => none

/-- The fields of an RSPW as far as their syntax goes: the kind, the record with debounce 0, the debounce given. -/
def readResponse : List Field → Option (FaultKind × ResponseRec × Int)
  | [k, pa, ps, la, ls, d, c, n] => do
    let k ← kind? k
    let pa ← action? pa
    let ps ← scopeAll? ps
    let la ← liftLow? la
    let ls ← scopeAll? ls
    let d ← int? d
    let c ← yesNo? c
    let n ← yesNo? n
    pure (k, ⟨pa, ps, la, ls, 0, c, n⟩, d)
  | _ => none

/-- The fixed minimums (R145). -/
def fixedMinimum (k : FaultKind) (r : ResponseRec) : Bool :=
  match k with
  | .parkFail => r.phaser == .park
  | .liftMismatch => r.liftLow
  | _ => true

/-- An accepted RSPW: the record is replaced, the origin is EDITED, the responses are recomputed (R146). -/
def State.writeResponse (s : State) (k : FaultKind) (r : ResponseRec) : State :=
  State.recompute { s with tbm := { s.tbm with response := s.tbm.response.set k r, responseOrigin := .edited } }

/-- RSPW performed (R146). -/
def State.doRspw (s : State) (fields : List Field) : State :=
  match readResponse fields with
  | none => s.answer .RSPW .format
  | some (k, r, d) =>
    if s.smc.mode ≠ .standby then s.answer .RSPW .mode
    else if s.saving .response then s.answer .RSPW .busy
    else if d < 1 ∨ 8 < d ∨ fixedMinimum k r = false then s.answer .RSPW .range
    else (s.writeResponse k { r with debounce := d.toNat }).answer .RSPW .ok

/-- RSPW (R146). -/
def execRspw (fields : List Field) (s : State) : Outcome := .next (s.request .RSPW fields fun s => s.doRspw fields)

/-- RSPR performed (R146). Each of the sixteen lines begins with its kind (log 18). A single field "-" is no kind and is
no run: FORMAT (log 21). -/
def State.doRspr (s : State) (fields : List Field) : State :=
  match fields with
  | [] => s.answerRun .RSPR (allKinds.map fun k => .word (kindWord k) :: responseFields (s.tbm.response.get k))
  | [.word .ORIGIN] => s.answer .RSPR .ok [.word (originWord s.tbm.responseOrigin)]
  | [f] =>
    match kind? f with
    | some k => s.answer .RSPR .ok (responseFields (s.tbm.response.get k))
    | none => s.answer .RSPR .format
  | _ => s.answer .RSPR .format

/-- RSPR (R146). -/
def execRspr (fields : List Field) (s : State) : Outcome := .next (s.request .RSPR fields fun s => s.doRspr fields)

/-! ### Reading and clearing records (R150, R151) -/

/-- The scope fields of a context (R141). -/
def scopeFields : ScopeContext → List Field
  | .device => []
  | .channel st presented phase valid duty =>
    [.word (chanStateWord st), nat presented, .num phase, setClear valid, nat duty]
  | .ocv line bound =>
    onOff line :: match bound with
      | some (ch, st) => [nat (chanNum ch), .word (chanStateWord st)]
      | none => [.absent, .absent]
  | .ls line bound =>
    onOff line :: match bound with
      | some (u, st) => [nat (unitNum u), .word (liftStateWord st)]
      | none => [.absent, .absent]
  | .unit st i => [.word (liftStateWord st), .word (chanStateWord i)]

/-- How many scope fields a record's context has (R141). -/
def scopeWidth (id : FaultId) : Nat :=
  match kindRecords (faultKind id) with
  | [_] => 0
  | [_, _] => 2
  | [_, _, _, _] => 5
  | _ => 3

/-- The context fields of a record line, absent ones as "-" (R150). -/
def contextFields (id : FaultId) : Option Context → List Field
  | some c =>
    [.word (modeWord c.mode), .word (crankWord c.crank), nat c.rpm, .word (supplyWord c.supplyState), nat c.supply]
      ++ scopeFields c.scope
  | none => List.replicate (5 + scopeWidth id) .absent

/-- A record line (R150). -/
def State.recordLine (s : State) (id : FaultId) : List Field :=
  let r := s.fault id
  [.word (kindWord (faultKind id)), faultInstance id, .word (recStateWord r.state), nat r.count, nat r.tally,
    optField word32 r.firstSeen, optField word32 r.lastSeen] ++ contextFields id r.context

/-- Whether a field is the name of some kind's record: a number, an output or "-" (R150). -/
def isInstance : Field → Bool
  | .num _ => true
  | .absent => true
  | .word t => allOuts.any fun o => outWord o == t
  | _ => false

/-- The records that the fields of FLTR or FLTC name, or the status that refuses them (R150, R151). A second field "-" is
the device's instance, and RANGE for a kind whose scope is not the device; a first field "-" is no kind and is no run:
FORMAT (log 21). -/
def namedRecords (fields : List Field) : Except Status (List FaultId) :=
  match fields with
  | [k] =>
    match kind? k with
    | some k => .ok (kindRecords k)
    | none => .error .format
  | [k, i] =>
    match kind? k, isInstance i with
    | some k, true =>
      match (kindRecords k).find? fun id => faultInstance id == i with
      | some id => .ok [id]
      | none => .error .range
    | _, _ => .error .format
  | _ => .error .format

/-- The level of FLT. -/
def level (b : Bool) : Field := .word (if b then .ASSERTED else .RELEASED)

/-- FLTR performed (R150). -/
def State.doFltr (s : State) (fields : List Field) : State :=
  match fields with
  | [] => s.answerRun .FLTR (allFaultIds.map s.recordLine)
  | [.word .FORCE] =>
    s.answer .FLTR .ok ((s.fmg.chanResponse.toList.map fun a => .word (actionWord a)) ++
      (s.fmg.unitLow.toList.map fun b => .word (if b then .LOW else .NONE)) ++ [level s.fmg.flt])
  | _ =>
    match namedRecords fields, fields with
    | .error st, _ => s.answer .FLTR st
    | .ok ids, [_] => s.answerRun .FLTR (ids.map s.recordLine)
    | .ok ids, _ => s.answer .FLTR .ok (ids.flatMap s.recordLine)

/-- FLTR (R150). -/
def execFltr (fields : List Field) (s : State) : Outcome := .next (s.request .FLTR fields fun s => s.doFltr fields)

/-- A LATCHED record cleared; any other as it was (R151). -/
def FaultRec.cleared (r : FaultRec) : FaultRec :=
  if r.state = .latched then { FaultRec.clean with count := r.count } else r

/-- The table with the named LATCHED records cleared (R151). -/
def FaultTable.clear (t : FaultTable) (ids : List FaultId) : FaultTable :=
  ids.foldl (fun t id => t.set id (t.get id).cleared) t

/-- Named records that are still present: ACTIVE or PENDING (R151). -/
def FaultRec.present (r : FaultRec) : Bool :=
  match r.state with
  | .active => true
  | .pending => true
  | _ => false

/-- FLTC performed on the named records (R151). -/
def State.clearRecords (s : State) (ids : List FaultId) : State :=
  let cleared := (ids.filter fun id => (s.fault id).state == .latched).length
  let present := (ids.filter fun id => (s.fault id).present).length
  (s.changeRecords (s.fmg.table.clear ids)).answer .FLTC .ok [nat cleared, nat present]

/-- FLTC performed (R151). -/
def State.doFltc (s : State) (fields : List Field) : State :=
  match fields with
  | [.word .ALL] => s.clearRecords allFaultIds
  | _ =>
    match namedRecords fields with
    | .error st => s.answer .FLTC st
    | .ok ids => s.clearRecords ids

/-- FLTC (R151). -/
def execFltc (fields : List Field) (s : State) : Outcome := .next (s.request .FLTC fields fun s => s.doFltc fields)

end Sys2Proof.Machine
end

