-- ==== Sys2Proof/Machine/Lift.lean ====
section
/-! DEFINITION. The Lift Sequencer: the senses, the decision, opening, travel, closing, the pair rule, lock loss, STUCK,
the lift test, RUN entry and leaving RUN (R122 to R138; log 13, 22, 23, 36, 45, 48, 51). -/

namespace Sys2Proof.Machine

/-! ### Profiles and senses (R122, R123) -/

/-- The profile a unit shows: `some true` for HIGH, `some false` for LOW (R122). -/
def LiftState.shows : LiftState → Option Bool
  | .high => some true
  | .low => some false
  | _ => none

/-- The settled state of a profile. -/
def settledAt (high : Bool) : LiftState := if high then .high else .low

/-- The profile that a unit in a wait state moves toward. -/
def LiftState.waitsFor : LiftState → Option Bool
  | .raiseWait => some true
  | .lowerWait => some false
  | _ => none

/-- The profile that a unit in a move state moves toward. -/
def LiftState.movesTo : LiftState → Option Bool
  | .raising => some true
  | .lowering => some false
  | _ => none

/-- The wait state toward a profile. -/
def waitFor (high : Bool) : LiftState := if high then .raiseWait else .lowerWait
/-- The move state toward a profile. -/
def moveTo (high : Bool) : LiftState := if high then .raising else .lowering

/-- A unit's sense: whether the debounced position of the input that its LIFT item binds is HIGH (R123). The item is read
as it stands in the working table, so a write in STANDBY is seen at once (R1; log 33). Where the item binds no sense
input, as after a LAYW LIFT in STANDBY, R123 gives no sense: reading LOW there is the model's DESIGN CHOICE (log 33). -/
def State.senseHigh (s : State) (u : LiftUnit) : Bool :=
  match (s.tbm.layout.lift.get u).sense with
  | some i => (s.lfs.senses.get i).high
  | none => false

/-- A unit's state. -/
def State.liftState (s : State) (u : LiftUnit) : LiftState := (s.lfs.units.get u).state

/-! ### Changes of state (R125, R127, R134) -/

/-- The agreement check (R134). With one unit unbound it runs all the same, against the LOW at which the unbound
unit's record stands (R124, R133; log 48). -/
def State.agreement (s : State) : State :=
  if s.lfs.mismatchReported && (s.liftState .L1).shows.isSome && (s.liftState .L1).shows == (s.liftState .L2).shows then
    ({ s with lfs := { s.lfs with mismatchReported := false, pair := none } } : State).report .lfs .liftMismatch .gone
  else s

/-- HIGH, LOW or STUCK: entries that give a notice and set the position tally to 0 (R125, R127). -/
def LiftState.announced (st : LiftState) : Bool := st.shows.isSome || st == .stuck

/-- A unit's new state with what goes with it: the position tally, the handover to the Valve Drivers, the notice (R125,
R127). -/
def State.setLift (s : State) (u : LiftUnit) (new : LiftState) (cause : LiftCause) : State :=
  let old := s.liftState u
  let s := s.updUnit u fun r => { r with state := new, posTally := if new.announced then 0 else r.posTally }
  let s := match s.unitDriver u with
    | some o => s.hand (.enableEvaluation (.ls o))
    | none => s
  if new.announced then s.notice .lfs (.lft u new old cause s.ckt.cycles) else s

/-- A unit enters a state, and the agreement check runs (R125, R134). -/
def State.enterLift (s : State) (u : LiftUnit) (new : LiftState) (cause : LiftCause) : State :=
  (s.setLift u new cause).agreement

/-- A unit takes its settled state from its sense. -/
def State.settle (s : State) (u : LiftUnit) (cause : LiftCause) : State :=
  s.enterLift u (settledAt (s.senseHigh u)) cause

/-- A claim, if one is placed, is released (R131). -/
def State.releaseClaim (s : State) (u : LiftUnit) : State :=
  if (s.lfs.units.get u).claim then
    (s.updUnit u fun r => { r with claim := false }).hand (.phcClaim (intake u) false)
  else s

/-- An energize or de-energize request to the unit's output. A de-energize that finds the line OFF has no effect (R115;
log 22). -/
def State.drive (s : State) (u : LiftUnit) (on : Bool) : State :=
  match s.unitDriver u with
  | some o => s.hand (.solenoid o on)
  | none => s

/-- The energizing ends: de-energize, travel timer none (R130). -/
def State.endTravel (s : State) (u : LiftUnit) : State :=
  (s.drive u false).updUnit u fun r => { r with travel := none }

/-! ### The decision (R126 to R128, R134) -/

/-- The lift request by the first row of R126 that applies. -/
def State.decideRequest (s : State) : Bool :=
  let d := s.tbm.tuning.dev
  match s.tga.record with
  | none => s.lfs.request
  | some r =>
    match s.tga.fresh, r.lift with
    | .fresh, some q => q
    | _, _ =>
      if d.upRpm ≤ s.ckt.rpm ∧ d.upLoad ≤ r.load then true
      else if s.ckt.rpm < d.downRpm ∨ r.load < d.downLoad then false
      else s.lfs.request

/-- The wanted profile of a unit (R126). -/
def State.wanted (s : State) (u : LiftUnit) : Bool := if s.fmg.unitLow.get u then false else s.lfs.request

/-- The pair check (R133, R134), with the cycle count that the LIFT_DECIDE carries. -/
def State.pairCheck (s : State) (cycle : Word32) : State :=
  match s.lfs.pair, s.unitBound .L1 && s.unitBound .L2 with
  | some p, true =>
    if (s.liftState (otherUnit p.lead)).shows = some p.high then { s with lfs := { s.lfs with pair := none } }
    else if 2 ≤ (cycle - p.cycle).toNat then
      ({ s with lfs := { s.lfs with mismatchReported := true } } : State).report .lfs .liftMismatch .present
    else s
  | _, _ => s

/-- The position check of a settled unit that shows `high` (R127). -/
def State.positionCheck (s : State) (u : LiftUnit) (high : Bool) : State :=
  let r := s.lfs.units.get u
  if s.senseHigh u != high then
    let tally := bump 255 r.posTally
    if 3 ≤ tally then
      (s.setUnit u { r with posTally := tally, posReported := true }).report .lfs (.liftPosition u) .present
    else s.setUnit u { r with posTally := tally }
  else
    let s := s.setUnit u { r with posTally := 0, posReported := false }
    if r.posReported then s.report .lfs (.liftPosition u) .gone else s

/-- The window length W of a unit, in au (R128). -/
def State.windowLength (s : State) (u : LiftUnit) : Nat :=
  let i := s.tbm.inForce.lift.get u
  forward cycleAu (i.windowOpen.getD 0) (i.windowClose.getD 0)

/-- The window time is at least the time needed: W × 60,000,000 / (5,760 × rpm) against tenths of a millisecond, exact
(R128; at rpm 0 log 13). -/
def windowFits (w rpm need : Nat) : Bool :=
  if rpm = 0 then Config.windowFitsAtZeroRpm w (100 * need)
  else decide (100 * need * (revAu * rpm) ≤ w * 60000000)

/-- The three switch conditions (R128). -/
def State.maySwitch (s : State) (u : LiftUnit) : Bool :=
  let t := s.tbm.tuning.unit.get u
  decide (s.ckt.rpm ≤ s.tbm.tuning.dev.ceilingRpm) && windowFits (s.windowLength u) s.ckt.rpm (t.travelMs + t.marginMs) &&
    match (s.phc.chans.get (intake u)).state with
    | .tracking => true
    | .parked => true
    | .unused => true
    | _ => false

/-- A switch goes ahead: the wait state, and the claim on an intake channel TRACKING or PARKED (R128). -/
def State.startSwitch (s : State) (u : LiftUnit) (high : Bool) : State :=
  let claim := (s.phc.chans.get (intake u)).state != .unused
  let s := (s.updUnit u fun r => { r with attempts := 0 }).enterLift u (waitFor high) .run
  if claim then (s.updUnit u fun r => { r with claim := true }).hand (.phcClaim (intake u) true) else s

/-- A unit takes a LIFT_DECIDE (R126 to R128, R132). -/
def State.decideUnit (s : State) (u : LiftUnit) (cycle : Word32) : State :=
  let s : State := { s with lfs := { s.lfs with request := s.decideRequest } }
  let s := s.pairCheck cycle
  match (s.liftState u).shows with
  | none => s
  | some high =>
    let s := s.positionCheck u high
    if s.wanted u != high && s.maySwitch u then s.startSwitch u (!high) else s

/-- A LIFT_DECIDE comes to a unit. None reaches a unit that the layout in force does not bind (R122). While a lift test
runs on the unit no entry reaches it (R137), so one that was still on its way when the tracker stopped has no effect: the
model's reading (log 51). -/
def State.liftDecide (s : State) (u : LiftUnit) (cycle : Word32) : State :=
  if !s.unitBound u || (s.lfs.units.get u).test.isSome then s else s.decideUnit u cycle

/-- Accepts an entry of a unit, with the cycle count it carries. -/
def wantLift (k : EntryKind) : Handover → Option Word32
  | .liftEntry k' _ cycle => if k' = k then some cycle else none
  | _ => none

/-- LFS_LIFT_DECIDE (R126). -/
def execLfsLiftDecide (u : LiftUnit) (s : State) : Outcome :=
  .next (s.taking (wantLift (.liftDecide u)) fun c s => s.liftDecide u c)

/-! ### Opening, travel and closing (R129 to R131, R133) -/

/-- A switch is withdrawn (R129). -/
def State.withdraw (s : State) (u : LiftUnit) (high : Bool) : State :=
  let s := (s.releaseClaim u).updUnit u fun r => { r with attempts := 0 }
  s.enterLift u (settledAt (!high)) .withdrawn

/-- A unit in a wait state takes its LIFT_OPEN (R129). -/
def State.openWindow (s : State) (u : LiftUnit) (high : Bool) : State :=
  match (s.phc.chans.get (intake u)).state with
  | .tracking => s.withdraw u high
  | .releasing => s.withdraw u high
  | _ =>
    let s := (s.updUnit u fun r => { r with attempts := bump 2 r.attempts }).enterLift u (moveTo high) .run
    if s.senseHigh u = high then s
    else
      (s.drive u true).updUnit u fun r => { r with
        travel := some (s.now + tenthsMs (s.tbm.tuning.unit.get u).travelMs) }

/-- A unit takes a LIFT_OPEN (R132). -/
def State.liftOpen (s : State) (u : LiftUnit) : State :=
  match (s.liftState u).waitsFor with
  | some high => s.openWindow u high
  | none => s

/-- LFS_LIFT_OPEN (R129). -/
def execLfsLiftOpen (u : LiftUnit) (s : State) : Outcome :=
  .next (s.taking (wantLift (.liftOpen u)) fun _ s => s.liftOpen u)

/-- TRAVEL_TIMER_EXPIRY (R130). -/
def execTravelTimerExpiry (u : LiftUnit) (s : State) : Outcome :=
  match (s.lfs.units.get u).travel with
  | some t => .next ((s.reachTime t).endTravel u)
  | none => .next s

/-- The pair rule at a confirmation (R133). -/
def State.pairRule (s : State) (u : LiftUnit) (high : Bool) (cycle : Word32) : State :=
  if s.unitBound .L1 && s.unitBound .L2 then
    let pair := if (s.liftState (otherUnit u)).shows = some (!high) then some ⟨u, high, cycle⟩
      else if (s.liftState (otherUnit u)).shows = some high then none
      else some ⟨u, high, cycle⟩
    { s with lfs := { s.lfs with pair := pair } }
  else s

/-- A unit in a move state takes its LIFT_CLOSE (R131). -/
def State.closeLift (s : State) (u : LiftUnit) (high : Bool) (cycle : Word32) : State :=
  let s := s.endTravel u
  if s.senseHigh u = high then
    let s := (s.updUnit u fun r => { r with attempts := 0 }).releaseClaim u
    (s.enterLift u (settledAt high) .confirm).pairRule u high cycle
  else if (s.lfs.units.get u).attempts < 2 then s.enterLift u (waitFor high) .run
  else
    let s := (s.updUnit u fun r => { r with attempts := 0 }).releaseClaim u
    (s.enterLift u .stuck .noConfirm).report .lfs (.liftNoConfirm u) .event

/-- A unit takes a LIFT_CLOSE (R132). -/
def State.liftClose (s : State) (u : LiftUnit) (cycle : Word32) : State :=
  match (s.liftState u).movesTo with
  | some high => s.closeLift u high cycle
  | none => s

/-- LFS_LIFT_CLOSE (R131). -/
def execLfsLiftClose (u : LiftUnit) (s : State) : Outcome :=
  .next (s.taking (wantLift (.liftClose u)) fun c s => s.liftClose u c)

/-! ### The senses (R123, R130) -/

/-- One sample of a sense input (R123). -/
def SenseRec.sample (r : SenseRec) (high : Bool) : SenseRec :=
  if high = r.high then ⟨r.high, 0⟩ else if 3 ≤ r.differing + 1 then ⟨high, 0⟩ else ⟨r.high, r.differing + 1⟩

/-- One input is sampled; a change of its debounced position is handed to the units whose LIFT item binds it (R1,
R123). -/
def State.sampleInput (s : State) (i : LineAB) (high : Bool) : State :=
  let old := s.lfs.senses.get i
  let new := old.sample high
  let s : State := { s with lfs := { s.lfs with senses := s.lfs.senses.set i new } }
  if new.high = old.high then s
  else
    forEach (allUnits.filter fun u => (s.tbm.layout.lift.get u).sense == some i)
      (fun s u => s.hand (.senseChange u new.high)) s

/-- PIN_SENSE_SAMPLE: PSA and PSB are sampled, 0.5 ms after the sample before (R123). -/
def execPinSenseSample (psa psb : Bool) (s : State) : Outcome :=
  if s.smc.inReset then .next s
  else
    let s := s.reachTime s.lfs.nextSample
    let s : State := { s with lfs := { s.lfs with nextSample := s.lfs.nextSample + 1000 } }
    .next ((s.sampleInput .A psa).sampleInput .B psb)

/-- Accepts a change of a unit's sense. -/
def wantSense (u : LiftUnit) : Handover → Option Bool
  | .senseChange v high => if v = u then some high else none
  | _ => none

/-- A unit takes a change of its sense: in a move state that reaches its new position the energizing ends (R130). -/
def State.takesSense (s : State) (u : LiftUnit) (high : Bool) : State :=
  if (s.liftState u).movesTo = some high then s.endTravel u else s

/-- SENSE_CHANGE (R130). -/
def execSenseChange (u : LiftUnit) (s : State) : Outcome := .next (s.taking (wantSense u) fun h s => s.takesSense u h)

/-! ### Lock loss, STUCK, lift test (R135 to R138) -/

/-- Accepts a lock-lost notification of a unit. -/
def wantLfsLockLost (u : LiftUnit) : Handover → Option Unit
  | .lfsLockLost v => if v = u then some () else none
  | _ => none

/-- A unit takes lock lost (R135). -/
def State.liftLockLost (s : State) (u : LiftUnit) : State :=
  if (s.liftState u).announced then s
  else
    let s := (s.endTravel u).releaseClaim u
    (s.updUnit u fun r => { r with attempts := 0 }).settle u .lock

/-- An entry of the schedule handed to a unit. -/
def Handover.entryOf (u : LiftUnit) : Handover → Bool
  | .liftEntry (.liftDecide v) _ _ => v == u
  | .liftEntry (.liftOpen v) _ _ => v == u
  | .liftEntry (.liftClose v) _ _ => v == u
  | _ => false

/-- LFS_LOCK_LOST (R135). An entry handed out before the notification and still on its way to the unit is of the lost
lock: it has no effect on the unit, which starts no switch by it (log 51). -/
def execLfsLockLost (u : LiftUnit) (s : State) : Outcome :=
  .next (s.takingOver (wantLfsLockLost u) (Handover.entryOf u) fun _ s => s.liftLockLost u)

/-- A lift test in progress ends (R138). -/
def State.endLiftTest (s : State) (u : LiftUnit) (cause : LiftCause) : State :=
  match (s.lfs.units.get u).test with
  | some _ => ((s.drive u false).updUnit u fun r => { r with test := none }).settle u cause
  | none => s

/-- Accepts a start notification of a unit. -/
def wantLfsStart (u : LiftUnit) : Handover → Option Unit
  | .lfsStart v => if v = u then some () else none
  | _ => none

/-- LFS_START_NOTIFICATION (R138). -/
def execLfsStartNotification (u : LiftUnit) (s : State) : Outcome :=
  .next (s.taking (wantLfsStart u) fun _ s => s.endLiftTest u .abandon)

/-- Accepts a response in force of a unit. -/
def wantLfsResponse (u : LiftUnit) : Handover → Option Bool
  | .lfsResponse v low => if v = u then some low else none
  | _ => none

/-- LFS_RESPONSE_CHANGE (R138). -/
def execLfsResponseChange (u : LiftUnit) (s : State) : Outcome :=
  .next (s.taking (wantLfsResponse u) fun low s => if low then s.endLiftTest u .response else s)

/-- Accepts the stuck action of a unit. -/
def wantStuck (u : LiftUnit) : Handover → Option Unit
  | .stuckAction v => if v = u then some () else none
  | _ => none

/-- A unit takes the stuck action (R136). A unit that the layout in force does not bind stays LOW, and a stuck action still
on its way to it from an earlier layout does not reach it (R122). -/
def State.stickUnit (s : State) (u : LiftUnit) : State :=
  if !s.unitBound u || s.liftState u == .stuck then s
  else
    let s := (s.updUnit u fun r => { r with test := none, attempts := 0 }).endTravel u
    (s.releaseClaim u).enterLift u .stuck .driver

/-- STUCK_ACTION (R136). -/
def execStuckAction (u : LiftUnit) (s : State) : Outcome := .next (s.taking (wantStuck u) fun _ s => s.stickUnit u)

/-- Accepts a unit clear. -/
def wantUnitClear (u : LiftUnit) : Handover → Option Unit
  | .unitClear v => if v = u then some () else none
  | _ => none

/-- A unit takes a unit clear (R136). -/
def State.clearUnit (s : State) (u : LiftUnit) : State := if s.liftState u = .stuck then s.settle u .clear else s

/-- UNIT_CLEAR (R136). -/
def execUnitClear (u : LiftUnit) (s : State) : Outcome := .next (s.taking (wantUnitClear u) fun _ s => s.clearUnit u)

/-- LIFT_TEST_EXPIRY (R138). -/
def execLiftTestExpiry (u : LiftUnit) (s : State) : Outcome :=
  match (s.lfs.units.get u).test with
  | some t => .next ((s.reachTime t).endLiftTest u .testEnd)
  | none => .next s

/-- The fields of a lift test as far as their syntax goes. -/
def testLiftFields : List Field → Option (Field × Field)
  | [.word .LIFT, .num u, .num t] => some (.num u, .num t)
  | _ => none

/-- An accepted lift test (R137). -/
def State.startLiftTest (s : State) (u : LiftUnit) (time : Nat) : State :=
  (s.updUnit u fun r => { r with test := some (s.now + ms time) }).drive u true

/-- TEST LIFT performed (R137). -/
def State.doTestLift (s : State) (fields : List Field) : State :=
  match testLiftFields fields with
  | none => s.answer .TEST .format
  | some (u, t) =>
    match unit? u, within? 1 50 t with
    | some u, some time =>
      if !s.inRun then s.answer .TEST .mode
      else if !s.unitBound u then s.answer .TEST .unbound
      else if s.ckt.state ≠ .stopped ∨ (s.liftState u).shows = none ∨ (s.lfs.units.get u).test ≠ none ∨
          s.fmg.unitLow.get u = true then
        s.answer .TEST .state
      else (s.startLiftTest u time).answer .TEST .ok
    | _, _ => s.answer .TEST .range

/-- TEST_LIFT (R137). A TEST whose first field is CH is the row TEST_CH's; one whose first field is neither is refused
with FORMAT (R180). -/
def execTestLift (fields : List Field) (s : State) : Outcome :=
  if fields.head? = some (.word .CH) then .next s else .next (s.request .TEST fields fun s => s.doTestLift fields)

/-! ### RUN entry and leaving RUN (R124) -/

/-- A driver record of an LS output is held. -/
def State.lsFaulted (s : State) (u : LiftUnit) : Bool :=
  match s.unitDriver u with
  | some o => (s.fmg.table.driverShort.get (.ls o)).held || (s.fmg.table.driverOpen.get (.ls o)).held
  | none => false

/-- A unit at RUN entry (R124; log 36). -/
def State.lfsEnterUnit (s : State) (u : LiftUnit) : State :=
  let fresh := fun (r : UnitRec) => { r with
    attempts := 0, claim := false, travel := none, test := none, posTally := 0 }
  let s := s.updUnit u fresh
  if s.unitBound u then
    let s := s.setLift u (settledAt (s.senseHigh u)) .run
    if (s.fmg.table.liftNoConfirm.get u).held then s.setLift u .stuck .noConfirm
    else if s.lsFaulted u then s.setLift u .stuck .driver
    else s
  else
    let gone := (s.lfs.units.get u).posReported
    let s := s.updUnit u fun r => { r with state := .low, posReported := false }
    if gone then s.report .lfs (.liftPosition u) .gone else s

/-- The Lift Sequencer at RUN entry: L1, then L2 (R124; log 23). -/
def State.lfsEnterRun (s : State) : State :=
  let s : State := { s with lfs := { s.lfs with request := false, pair := none } }
  (forEach allUnits State.lfsEnterUnit s).agreement

/-- A unit when the part leaves RUN: lock has been lost, so it is in no wait or move state, whether or not it has taken
the notification (R124, R135; log 45); a lift test ends (R138). -/
def State.lfsLeaveUnit (s : State) (u : LiftUnit) : State := (s.liftLockLost u).endLiftTest u .mode

/-- The Lift Sequencer when the part leaves RUN: L1, then L2 (R124; log 23). -/
def State.lfsLeaveRun (s : State) : State := forEach allUnits State.lfsLeaveUnit s

end Sys2Proof.Machine
end

