-- ==== Sys2Proof/Machine/Tables.lean ====
section
/-! DEFINITION. The Table Memory: LAYR, LAYW, TUNR, TUNW, MAPR, MAPW, and what a loaded content must satisfy (R1 to R6,
R13 to R16, R98 to R101, R145; log 17, 21). -/

namespace Sys2Proof.Machine

/-! ### The Layout table (R2) -/

/-- The absent angles of a LIFT item are allowed only with both bindings 0 (R2). -/
def LiftItem.anglesOk (i : LiftItem) : Bool :=
  (i.driver.isNone && i.sense.isNone) || (i.decision.isSome && i.windowOpen.isSome && i.windowClose.isSome)

/-- Every field of the layout lies within its range (R2, R6). -/
def Layout.legal (l : Layout) : Bool :=
  (match l.wheel with
    | some w => decide (12 ≤ w.positions ∧ w.positions ≤ 60 ∧ 1 ≤ w.missing ∧ w.missing ≤ 2 ∧ 12 ≤ w.gapFactor ∧
        w.gapFactor ≤ 28 ∧ w.firstTooth < revAu ∧ 20 ≤ w.stallMs ∧ w.stallMs ≤ 1000)
    | none => true) &&
  (match l.cyl with
    | some c => decide (c < cycleAu)
    | none => true) &&
  (l.cam.toList.all fun c =>
    match c with
    | some c => decide (c.range ≤ 960 ∧ 16 ≤ c.halfWidth ∧ c.halfWidth ≤ 480)
    | none => true) &&
  (l.edges.toList.all fun es => decide (es.length ≤ 6) && es.all fun e => decide (e.angle < cycleAu)) &&
  (l.lift.toList.all fun i => i.anglesOk &&
    [i.decision, i.windowOpen, i.windowClose].all fun a => decide (a.getD 0 < cycleAu)) &&
  (l.pwm.toList.all fun p => decide (2000 ≤ p ∧ p ≤ 10000))

/-- A decimal value or one of the words given (R4; log 21). -/
def plain (words : List Token) : Field → Bool
  | .num _ => true
  | .word t => words.contains t
  | _ => false

/-- A field that may also be absent. -/
def plainOrAbsent (f : Field) : Bool := f == .absent || plain [] f

/-- Item keyword, field count and syntax of a LAYW: check 1 of R4. An EDGE whose edge count is a word states no count that
its fields could fit: FORMAT (log 21). -/
def laywFormat : List Field → Bool
  | [.word .WHEEL, a, b, c, d, e] => [a, b, c, d].all (plain []) && plainOrAbsent e
  | [.word .CYL, a] => plain [] a
  | .word .CAM :: rest => rest.length == 5 && rest.all (plain [.ADV, .RET, .YES, .NO])
  | .word .EDGE :: ch :: .num n :: rest =>
    decide ((rest.length : Int) = 2 * n) && plain [.RISE, .FALL] ch && rest.all (plain [.RISE, .FALL])
  | .word .BIND :: rest => rest.length == 3 && rest.all (plain [.A, .B, .C, .D])
  | [.word .LIFT, u, d, n, a, b, c] => [u, d, n].all (plain [.A, .B]) &&
      [a, b, c].all fun f => f == .absent || plain [.A, .B] f
  | [.word .PWM, out, p] => plain [.A, .B, .C, .D] out && (p == .absent || plain [.A, .B, .C, .D] p)
  | _ => false

/-- A line A to D. -/
def abcd? : Field → Option LineABCD
  | .word .A => some .A
  | .word .B => some .B
  | .word .C => some .C
  | .word .D => some .D
  | _ => none

/-- A line A to D, or 0 for none (R2). -/
def abcdOr0? : Field → Option (Option LineABCD)
  | .num v => if v = 0 then some none else none
  | f => (abcd? f).map some

/-- A line A or B, or 0 for none (R2). -/
def abOr0? : Field → Option (Option LineAB)
  | .num v => if v = 0 then some none else none
  | .word .A => some (some .A)
  | .word .B => some (some .B)
  | _ => none

/-- A direction. -/
def dir? : Field → Option Dir
  | .word .ADV => some .adv
  | .word .RET => some .ret
  | _ => none

/-- A polarity. -/
def pol? : Field → Option Polarity
  | .word .RISE => some .rise
  | .word .FALL => some .fall
  | _ => none

/-- A value within a range, or what an absent field stands for. -/
def withinOr? (lo hi : Nat) (dflt : Nat) (f : Field) : Option Nat := if f = .absent then some dflt else within? lo hi f

/-- An angle of a LIFT item, absent or 0 to 11,519. -/
def liftAngle? (f : Field) : Option (Option Nat) := if f = .absent then some none else (within? 0 11519 f).map some

/-- The nominal angle and polarity pairs of an EDGE item. -/
def edgePairs? : List Field → Option (List EdgeItem)
  | a :: p :: rest => do
    let a ← within? 0 11519 a
    let p ← pol? p
    let rest ← edgePairs? rest
    pure (⟨a, p⟩ :: rest)
  | [] => some []
  | [_] => none

/-- The layout with the named item replaced, or nothing where a value is outside its range: check 4 of R4. -/
def laywWrite (l : Layout) : List Field → Option Layout
  | [.word .WHEEL, p, m, g, f, st] => do
    let p ← within? 12 60 p
    let m ← within? 1 2 m
    let g ← within? 12 28 g
    let f ← within? 0 5759 f
    let st ← withinOr? 20 1000 200 st
    pure { l with wheel := some ⟨p, m, g, f, st⟩ }
  | [.word .CYL, c] => do
    let c ← within? 0 11519 c
    pure { l with cyl := some c }
  | [.word .CAM, ch, d, r, h, ref] => do
    let ch ← chan? ch
    let d ← dir? d
    let r ← within? 0 960 r
    let h ← within? 16 480 h
    let ref ← yesNo? ref
    pure { l with cam := l.cam.set ch (some ⟨d, r, h, ref⟩) }
  | .word .EDGE :: ch :: n :: rest => do
    let ch ← chan? ch
    let _ ← within? 1 6 n
    let es ← edgePairs? rest
    pure { l with edges := l.edges.set ch es }
  | [.word .BIND, ch, c, d] => do
    let ch ← chan? ch
    let c ← abcdOr0? c
    let d ← abcdOr0? d
    pure { l with bind := l.bind.set ch ⟨c, d⟩ }
  | [.word .LIFT, u, d, n, a, b, c] => do
    let u ← unit? u
    let d ← abOr0? d
    let n ← abOr0? n
    let a ← liftAngle? a
    let b ← liftAngle? b
    let c ← liftAngle? c
    let item : LiftItem := ⟨d, n, a, b, c⟩
    if item.anglesOk then pure { l with lift := l.lift.set u item } else none
  | [.word .PWM, out, p] => do
    let out ← abcd? out
    let p ← withinOr? 2000 10000 4000 p
    pure { l with pwm := l.pwm.set out p }
  | _ => none

/-- LAYW performed (R4). -/
def State.doLayw (s : State) (fields : List Field) : State :=
  if !laywFormat fields then s.answer .LAYW .format
  else if s.smc.mode ≠ .standby then s.answer .LAYW .mode
  else if s.saving .layout then s.answer .LAYW .busy
  else
    match laywWrite s.tbm.layout fields with
    | none => s.answer .LAYW .range
    | some l => ({ s with tbm := { s.tbm with layout := l, layoutOrigin := .edited } } : State).answer .LAYW .ok

/-- LAYW (R4). -/
def execLayw (fields : List Field) (s : State) : Outcome := .next (s.request .LAYW fields fun s => s.doLayw fields)

/-- The fields of the WHEEL item (R5). -/
def wheelFields : Option Wheel → List Field
  | some w => [nat w.positions, nat w.missing, nat w.gapFactor, nat w.firstTooth, nat w.stallMs]
  | none => List.replicate 5 .absent

/-- The fields of a CAM item (R5). -/
def camFields : Option CamItem → List Field
  | some c => [.word (dirWord c.dir), nat c.range, nat c.halfWidth, yesNo c.reference]
  | none => List.replicate 4 .absent

/-- The fields of an EDGE item: its count, then its pairs (R5). -/
def edgeFields (es : List EdgeItem) : List Field :=
  nat es.length :: es.flatMap fun e => [nat e.angle, .word (polWord e.pol)]

/-- A line, or 0. -/
def orZero {α : Type} (f : α → Token) : Option α → Field
  | some a => .word (f a)
  | none => nat 0

/-- The fields of a BIND item (R5). -/
def bindFields (b : BindItem) : List Field := [orZero abcdWord b.cam, orZero abcdWord b.driver]

/-- The fields of a LIFT item (R5). -/
def liftFields (i : LiftItem) : List Field :=
  [orZero abWord i.driver, orZero abWord i.sense, optField nat i.decision, optField nat i.windowOpen,
    optField nat i.windowClose]

/-- The 21 lines of the whole table (R5). -/
def Tbm.layoutLines (t : Tbm) : List (List Field) :=
  [[.word .ORIGIN, .word (originWord t.layoutOrigin)], .word .WHEEL :: wheelFields t.layout.wheel,
    [.word .CYL, optField nat t.layout.cyl]] ++
  (allChans.map fun ch => .word .CAM :: nat (chanNum ch) :: camFields (t.layout.cam.get ch)) ++
  (allChans.map fun ch => .word .EDGE :: nat (chanNum ch) :: edgeFields (t.layout.edges.get ch)) ++
  (allChans.map fun ch => .word .BIND :: nat (chanNum ch) :: bindFields (t.layout.bind.get ch)) ++
  (allUnits.map fun u => .word .LIFT :: nat (unitNum u) :: liftFields (t.layout.lift.get u)) ++
  (allABCD.map fun o => [.word .PWM, .word (abcdWord o), nat (t.layout.pwm.get o)])

/-- The fields of an item's instance: FORMAT where none is given, RANGE for one outside the instances (R5; log 21). -/
def byInstance {α : Type} (read : Field → Option α) (f : Field) (show_ : α → List Field) : Except Status (List Field) :=
  match read f with
  | some a => .ok (show_ a)
  | none => .error (if f = .absent then .format else .range)

/-- The fields of a numbered part: FORMAT for a field that is not decimal, RANGE for a number outside (R100). -/
def byNumber {α : Type} (read : Field → Option α) (f : Field) (show_ : α → List Field) : Except Status (List Field) :=
  match read f with
  | some a => .ok (show_ a)
  | none => .error (if isNum f then .range else .format)

/-- The fields that a LAYR naming an item is answered with, or the status that refuses it (R5). A first field "-" names
no item and is no run, and "-" after WHEEL, CYL or ORIGIN is a field too many: FORMAT to both (log 21). -/
def Tbm.layrItem (t : Tbm) : List Field → Except Status (List Field)
  | [.word .ORIGIN] => .ok [.word (originWord t.layoutOrigin)]
  | [.word .WHEEL] => .ok (wheelFields t.layout.wheel)
  | [.word .CYL] => .ok [optField nat t.layout.cyl]
  | [.word .CAM, i] => byInstance chan? i fun ch => camFields (t.layout.cam.get ch)
  | [.word .EDGE, i] => byInstance chan? i fun ch => edgeFields (t.layout.edges.get ch)
  | [.word .BIND, i] => byInstance chan? i fun ch => bindFields (t.layout.bind.get ch)
  | [.word .LIFT, i] => byInstance unit? i fun u => liftFields (t.layout.lift.get u)
  | [.word .PWM, i] => byInstance abcd? i fun o => [nat (t.layout.pwm.get o)]
  | _ => .error .format

/-- LAYR performed (R5). -/
def State.doLayr (s : State) (fields : List Field) : State :=
  match fields with
  | [] => s.answerRun .LAYR s.tbm.layoutLines
  | _ =>
    match s.tbm.layrItem fields with
    | .ok f => s.answer .LAYR .ok f
    | .error st => s.answer .LAYR st

/-- LAYR (R5). -/
def execLayr (fields : List Field) (s : State) : Outcome := .next (s.request .LAYR fields fun s => s.doLayr fields)

/-! ### The Tuning table (R13, R14) -/

/-- The per-channel items in the order of R13, with their values. -/
def ChanTune.items (t : ChanTune) : List (Token × Nat) :=
  [(.KP, t.kp), (.KI, t.ki), (.ILIM, t.ilim), (.HOLD0, t.hold0),
    (.DMIN, t.dmin), (.DMAX, t.dmax), (.DEADBAND, t.deadband), (.SLEW, t.slew),
    (.RELEASE_RPM, t.releaseRpm), (.RELEASE_KPA, t.releaseKpa), (.HOLD_KPA, t.holdKpa), (.RELEASE_DUTY, t.releaseDuty),
    (.RELEASE_MS, t.releaseMs), (.PARK_TOL, t.parkTol), (.PARK_MS, t.parkMs), (.STEP, t.step),
    (.STUCK_CYCLES, t.stuckCycles), (.MOVE_MIN, t.moveMin)]

/-- The range of each per-channel item (R13). -/
def chanTuneRange : Token → Option (Nat × Nat)
  | .KP => some (0, 1000)
  | .KI => some (0, 500)
  | .ILIM => some (0, 1000)
  | .HOLD0 => some (0, 1000)
  | .DMIN => some (0, 1000)
  | .DMAX => some (0, 1000)
  | .DEADBAND => some (0, 64)
  | .SLEW => some (1, 960)
  | .RELEASE_RPM => some (0, 18000)
  | .RELEASE_KPA => some (0, 1000)
  | .HOLD_KPA => some (0, 1000)
  | .RELEASE_DUTY => some (0, 1000)
  | .RELEASE_MS => some (10, 500)
  | .PARK_TOL => some (0, 160)
  | .PARK_MS => some (50, 2000)
  | .STEP => some (8, 960)
  | .STUCK_CYCLES => some (1, 64)
  | .MOVE_MIN => some (1, 480)
  | _ => none

/-- Writes one per-channel item; another word changes nothing. -/
def ChanTune.write (t : ChanTune) (item : Token) (v : Nat) : ChanTune :=
  match item with
  | .KP => { t with kp := v }
  | .KI => { t with ki := v }
  | .ILIM => { t with ilim := v }
  | .HOLD0 => { t with hold0 := v }
  | .DMIN => { t with dmin := v }
  | .DMAX => { t with dmax := v }
  | .DEADBAND => { t with deadband := v }
  | .SLEW => { t with slew := v }
  | .RELEASE_RPM => { t with releaseRpm := v }
  | .RELEASE_KPA => { t with releaseKpa := v }
  | .HOLD_KPA => { t with holdKpa := v }
  | .RELEASE_DUTY => { t with releaseDuty := v }
  | .RELEASE_MS => { t with releaseMs := v }
  | .PARK_TOL => { t with parkTol := v }
  | .PARK_MS => { t with parkMs := v }
  | .STEP => { t with step := v }
  | .STUCK_CYCLES => { t with stuckCycles := v }
  | .MOVE_MIN => { t with moveMin := v }
  | _ => t

/-- The per-unit items in the order of R14, with their values. -/
def UnitTune.items (t : UnitTune) : List (Token × Nat) :=
  [(.TRAVEL_MS, t.travelMs), (.MARGIN_MS, t.marginMs)]

/-- The range of each per-unit item (R14). -/
def unitTuneRange : Token → Option (Nat × Nat)
  | .TRAVEL_MS => some (5, 100)
  | .MARGIN_MS => some (0, 50)
  | _ => none

/-- Writes one per-unit item; another word changes nothing. -/
def UnitTune.write (t : UnitTune) (item : Token) (v : Nat) : UnitTune :=
  match item with
  | .TRAVEL_MS => { t with travelMs := v }
  | .MARGIN_MS => { t with marginMs := v }
  | _ => t

/-- The device items in the order of R14, with their values. -/
def DevTune.items (t : DevTune) : List (Token × Nat) :=
  [(.CEILING_RPM, t.ceilingRpm), (.UP_RPM, t.upRpm), (.UP_LOAD, t.upLoad), (.DOWN_RPM, t.downRpm),
    (.DOWN_LOAD, t.downLoad), (.STALE_MS, t.staleMs), (.HOLD_LIMIT_MS, t.holdLimitMs)]

/-- The range of each device item (R14). -/
def devTuneRange : Token → Option (Nat × Nat)
  | .CEILING_RPM => some (0, 18000)
  | .UP_RPM => some (0, 18000)
  | .UP_LOAD => some (0, 1000)
  | .DOWN_RPM => some (0, 18000)
  | .DOWN_LOAD => some (0, 1000)
  | .STALE_MS => some (20, 500)
  | .HOLD_LIMIT_MS => some (50, 5000)
  | _ => none

/-- Writes one device item; another word changes nothing. -/
def DevTune.write (t : DevTune) (item : Token) (v : Nat) : DevTune :=
  match item with
  | .CEILING_RPM => { t with ceilingRpm := v }
  | .UP_RPM => { t with upRpm := v }
  | .UP_LOAD => { t with upLoad := v }
  | .DOWN_RPM => { t with downRpm := v }
  | .DOWN_LOAD => { t with downLoad := v }
  | .STALE_MS => { t with staleMs := v }
  | .HOLD_LIMIT_MS => { t with holdLimitMs := v }
  | _ => t

/-- The pairs of R13. -/
def ChanTune.pairsOk (t : ChanTune) : Bool := decide (t.dmin ≤ t.dmax ∧ t.holdKpa ≤ t.releaseKpa)
/-- The pairs of R14. -/
def DevTune.pairsOk (t : DevTune) : Bool := decide (t.downRpm ≤ t.upRpm ∧ t.downLoad ≤ t.upLoad)

/-- Items within their ranges. -/
def inRange (range : Token → Option (Nat × Nat)) (items : List (Token × Nat)) : Bool :=
  items.all fun i =>
    match range i.1 with
    | some (lo, hi) => decide (lo ≤ i.2 ∧ i.2 ≤ hi)
    | none => false

/-- Every item within its range, every pair constraint kept (R16). -/
def Tuning.legal (t : Tuning) : Bool :=
  (t.chan.toList.all fun c => inRange chanTuneRange c.items && c.pairsOk) &&
  (t.unit.toList.all fun u => inRange unitTuneRange u.items) &&
  inRange devTuneRange t.dev.items && t.dev.pairsOk

/-- A scope of the Tuning table as a request names it: a channel, a unit, or the device (R15; log 17). -/
inductive TuneScope
  | chan (f : Field) | unit (f : Field) | device
deriving DecidableEq, Repr

/-- The scope a request begins with and the fields after it. A bare number names a unit where the first item after it
is a unit item, and a channel otherwise (log 17). -/
def readScope : List Field → Option (TuneScope × List Field)
  | .word .CH :: .num n :: rest => some (.chan (.num n), rest)
  | .word .LIFT :: .num n :: rest => some (.unit (.num n), rest)
  | .num n :: .word t :: rest =>
    some (if (unitTuneRange t).isSome then .unit (.num n) else .chan (.num n), .word t :: rest)
  | .num n :: rest => some (.chan (.num n), rest)
  | .absent :: rest => some (.device, rest)
  | _ => none

/-- The ranges of a scope's items. -/
def TuneScope.range : TuneScope → Token → Option (Nat × Nat)
  | .chan _ => chanTuneRange
  | .unit _ => unitTuneRange
  | .device => devTuneRange

/-- Item keyword and value pairs. -/
def itemPairs? : List Field → Option (List (Token × Int))
  | .word t :: .num v :: rest => (itemPairs? rest).map fun l => (t, v) :: l
  | [] => some []
  | _ => none

/-- The pairs of a TUNW that passes check 1 of R15. -/
def tunwPairs? (sc : TuneScope) (fields : List Field) : Option (List (Token × Int)) := do
  let l ← itemPairs? fields
  if 1 ≤ l.length ∧ l.length ≤ 8 ∧ (l.map Prod.fst).Nodup ∧ (l.all fun p => (sc.range p.1).isSome) then some l else none

/-- The values of the pairs, where each lies within its item's range (check 3 of R15). -/
def valuesWithin? (sc : TuneScope) (l : List (Token × Int)) : Option (List (Token × Nat)) :=
  l.mapM fun p =>
    match sc.range p.1 with
    | some (lo, hi) => (within? lo hi (.num p.2)).map fun v => (p.1, v)
    | none => none

/-- The table with all the pairs written, or nothing where an index or a value is out of range or a pair constraint
would be broken (checks 3 and 4 of R15). -/
def Tuning.writeAll (t : Tuning) (sc : TuneScope) (l : List (Token × Int)) : Option Tuning := do
  let vs ← valuesWithin? sc l
  match sc with
  | .chan f => do
    let ch ← chan? f
    let c := vs.foldl (fun c p => c.write p.1 p.2) (t.chan.get ch)
    if c.pairsOk then some { t with chan := t.chan.set ch c } else none
  | .unit f => do
    let u ← unit? f
    some { t with unit := t.unit.set u (vs.foldl (fun c p => c.write p.1 p.2) (t.unit.get u)) }
  | .device =>
    let d := vs.foldl (fun c p => c.write p.1 p.2) t.dev
    if d.pairsOk then some { t with dev := d } else none

/-- TUNW performed (R15). -/
def State.doTunw (s : State) (fields : List Field) : State :=
  match (readScope fields).bind fun r => (tunwPairs? r.1 r.2).map fun l => (r.1, l) with
  | none => s.answer .TUNW .format
  | some (sc, l) =>
    if s.saving .tuning then s.answer .TUNW .busy
    else
      match s.tbm.tuning.writeAll sc l with
      | none => s.answer .TUNW .range
      | some t => ({ s with tbm := { s.tbm with tuning := t, tuningOrigin := .edited } } : State).answer .TUNW .ok

/-- TUNW (R15). -/
def execTunw (fields : List Field) (s : State) : Outcome := .next (s.request .TUNW fields fun s => s.doTunw fields)

/-- The items of a scope, or nothing where its index is out of range (R16). -/
def Tuning.scopeItems? (t : Tuning) : TuneScope → Option (List (Token × Nat))
  | .chan f => (chan? f).map fun ch => (t.chan.get ch).items
  | .unit f => (unit? f).map fun u => (t.unit.get u).items
  | .device => some t.dev.items

/-- TUNR performed (R16). A second field "-" names no item and is no run of the scope: FORMAT; and an unknown or foreign
item is FORMAT whatever the scope index (log 21). -/
def State.doTunr (s : State) (fields : List Field) : State :=
  match readScope fields with
  | some (.device, [.word .ORIGIN]) => s.answer .TUNR .ok [.word (originWord s.tbm.tuningOrigin)]
  | some (sc, []) =>
    match s.tbm.tuning.scopeItems? sc with
    | some l => s.answerRun .TUNR (l.map fun p => [.word p.1, nat p.2])
    | none => s.answer .TUNR .range
  | some (sc, [.word t]) =>
    if (sc.range t).isNone then s.answer .TUNR .format
    else
      match (s.tbm.tuning.scopeItems? sc).bind fun l => l.find? fun p => p.1 == t with
      | some p => s.answer .TUNR .ok [nat p.2]
      | none => s.answer .TUNR .range
  | _ => s.answer .TUNR .format

/-- TUNR (R16). -/
def execTunr (fields : List Field) (s : State) : Outcome := .next (s.request .TUNR fields fun s => s.doTunr fields)

/-! ### The Phase Maps (R98 to R101) -/

/-- The constraints of R98. -/
def MapData.legal (m : MapData) : Bool :=
  m.rpm.length == 16 && (m.rpm.all fun v => decide (v ≤ 18000)) && ascending (m.rpm.map Int.ofNat) &&
  m.load.length == 12 && (m.load.all fun v => decide (v ≤ 1000)) && ascending (m.load.map Int.ofNat) &&
  m.cells.length == 16 && (m.cells.all fun r => r.length == 12 && r.all fun v => decide (v ≤ 960)) &&
  m.temps.length == 8 && (m.temps.all fun v => decide (-40 ≤ v ∧ v ≤ 150)) && ascending m.temps &&
  m.factors.length == 8 && (m.factors.all fun v => decide (v ≤ 1000))

/-- The map region of a channel (R162). -/
def mapRegion : Chan → Region
  | .IN1 => .mapIn1
  | .EX1 => .mapEx1
  | .IN2 => .mapIn2
  | .EX2 => .mapEx2

/-- How many written marks are clear, 0 to 195 (R98, R100). -/
def PhaseMap.clearMarks (m : PhaseMap) : Nat :=
  ([m.rpmMark, m.loadMark, m.derateMark] ++ m.cellMarks.flatten).countP fun b => !b

/-- A map all of whose marks are set, available: what a load of legal content leaves (R101). -/
def PhaseMap.loaded (d : MapData) : PhaseMap :=
  ⟨d, true, true, true, List.replicate 16 (List.replicate 12 true), true⟩

/-- Replaces the elements of a list from index `i` on. -/
def overwrite {α : Type} (l : List α) (i : Nat) (new : List α) : List α := l.take i ++ new ++ l.drop (i + new.length)

/-- Field counts and syntax of a MAPW: check 1 of R99. -/
def mapwFormat : List Field → Bool
  | ch :: .word part :: rest =>
    isNum ch && rest.all isNum &&
      match part with
      | .ROW => decide (3 ≤ rest.length ∧ rest.length ≤ 14)
      | .RPM => rest.length == 16
      | .LOAD => rest.length == 12
      | .DERATE => rest.length == 16
      | _ => false
  | _ => false

/-- The map with a part written and its marks set, or nothing where a value is out of range (check 3 of R99). -/
def PhaseMap.writePart (m : PhaseMap) : List Field → Option PhaseMap
  | .word .ROW :: row :: col :: cells => do
    let r ← within? 1 16 row
    let c ← within? 1 12 col
    let vs ← allWithin? 0 960 cells
    if 12 < c + vs.length - 1 then none
    else some { m with
      data := { m.data with cells := m.data.cells.modify (r - 1) fun l => overwrite l (c - 1) vs }
      cellMarks := m.cellMarks.modify (r - 1) fun l => overwrite l (c - 1) (vs.map fun _ => true) }
  | .word .RPM :: rest => do
    let vs ← allWithin? 0 18000 rest
    if ascending (vs.map Int.ofNat) then some { m with data := { m.data with rpm := vs }, rpmMark := true } else none
  | .word .LOAD :: rest => do
    let vs ← allWithin? 0 1000 rest
    if ascending (vs.map Int.ofNat) then some { m with data := { m.data with load := vs }, loadMark := true } else none
  | .word .DERATE :: rest => do
    let ts ← (rest.take 8).mapM (intWithin? (-40) 150)
    let fs ← allWithin? 0 1000 (rest.drop 8)
    if ascending ts then some { m with data := { m.data with temps := ts, factors := fs }, derateMark := true } else none
  | _ => none

/-- A write that leaves every mark set makes the map available (R101). -/
def PhaseMap.settle (m : PhaseMap) : PhaseMap := if m.clearMarks = 0 then { m with available := true } else m

/-- A SAVE of the map's region exists, for the channel a field names (check 2 of R99). -/
def State.savingMap (s : State) (f : Field) : Bool :=
  match chan? f with
  | some ch => s.saving (mapRegion ch)
  | none => false

/-- The maps with a request's part written, or nothing where it is refused with RANGE. -/
def Tbm.writeMap (t : Tbm) (ch : Field) (rest : List Field) : Option Tbm := do
  let ch ← chan? ch
  let m ← (t.maps.get ch).writePart rest
  some { t with maps := t.maps.set ch m.settle }

/-- MAPW performed (R99). -/
def State.doMapw (s : State) (fields : List Field) : State :=
  match fields with
  | ch :: rest =>
    if !mapwFormat fields then s.answer .MAPW .format
    else if s.savingMap ch then s.answer .MAPW .busy
    else
      match s.tbm.writeMap ch rest with
      | some t => ({ s with tbm := t } : State).answer .MAPW .ok
      | none => s.answer .MAPW .range
  | [] => s.answer .MAPW .format

/-- MAPW (R99). -/
def execMapw (fields : List Field) (s : State) : Outcome := .next (s.request .MAPW fields fun s => s.doMapw fields)

/-- The cells of row `r`, from 1. -/
def PhaseMap.row (m : PhaseMap) (r : Nat) : List Field := (m.data.cells.getD (r - 1) []).map nat

/-- The AVAIL line (R100), with YES or NO for the available flag (log 18). -/
def PhaseMap.availFields (m : PhaseMap) : List Field := [yesNo m.available, nat m.clearMarks]

/-- The derate line: temperatures, then factors (R100). -/
def PhaseMap.derateFields (m : PhaseMap) : List Field := m.data.temps.map Field.num ++ m.data.factors.map nat

/-- The 20 lines of a whole map (R100). -/
def PhaseMap.lines (m : PhaseMap) : List (List Field) :=
  [.word .AVAIL :: m.availFields, .word .RPM :: m.data.rpm.map nat, .word .LOAD :: m.data.load.map nat] ++
  ((List.range 16).map fun i => .word .ROW :: nat (i + 1) :: m.row (i + 1)) ++ [.word .DERATE :: m.derateFields]

/-- The line that the fields after the channel name, or the status that refuses them (R100). -/
def PhaseMap.part (m : PhaseMap) : List Field → Except Status (List Field)
  | [.word .ROW, r] => byNumber (within? 1 16) r m.row
  | [.word .RPM] => .ok (m.data.rpm.map nat)
  | [.word .LOAD] => .ok (m.data.load.map nat)
  | [.word .DERATE] => .ok m.derateFields
  | [.word .AVAIL] => .ok m.availFields
  | _ => .error .format

/-- The second field of a MAPR is absent, or left out (R100, R178; log 21). -/
def wholeMap (rest : List Field) : Bool := rest == [] || rest == [.absent]

/-- MAPR performed (R100). A channel out of range is refused with RANGE once the other fields read. -/
def State.doMapr (s : State) (fields : List Field) : State :=
  match fields with
  | .num n :: rest =>
    match chan? (.num n) with
    | some ch =>
      let m := s.tbm.maps.get ch
      if wholeMap rest then s.answerRun .MAPR m.lines
      else
        match m.part rest with
        | .ok f => s.answer .MAPR .ok f
        | .error st => s.answer .MAPR st
    | none =>
      match wholeMap rest, PhaseMap.blank.part rest with
      | false, .error .format => s.answer .MAPR .format
      | _, _ => s.answer .MAPR .range
  | _ => s.answer .MAPR .format

/-- MAPR (R100). -/
def execMapr (fields : List Field) (s : State) : Outcome := .next (s.request .MAPR fields fun s => s.doMapr fields)

/-! ### Start-up loads (R6, R16, R101, R145, R174) -/

/-- Every record within its ranges, both fixed minimums kept (R145). -/
def responseLegal (t : ResponseTable) : Bool :=
  allKinds.all fun k => decide (1 ≤ (t.get k).debounce ∧ (t.get k).debounce ≤ 8) &&
    match k with
    | .parkFail => (t.get k).phaser == .park
    | .liftMismatch => (t.get k).liftLow
    | _ => true

/-- The tables after the Table Memory takes one region's content, or its status alone (`none`): the content where it is
of the region's kind and legal, the fallback otherwise (R6, R16, R101, R145). -/
def Tbm.load (t : Tbm) (r : Region) (content : Option TableImage) : Tbm :=
  let map (ch : Chan) : Tbm :=
    match content with
    | some (.map m) => { t with maps := t.maps.set ch (if m.legal then .loaded m else .blank) }
    | _ => { t with maps := t.maps.set ch .blank }
  match r with
  | .ident => t
  | .layout =>
    match content with
    | some (.layout l) =>
      if l.legal then { t with layout := l, layoutOrigin := .loaded }
      else { t with layout := .blank, layoutOrigin := .blank }
    | _ => { t with layout := .blank, layoutOrigin := .blank }
  | .tuning =>
    match content with
    | some (.tuning x) =>
      if x.legal then { t with tuning := x, tuningOrigin := .loaded }
      else { t with tuning := .builtIn, tuningOrigin := .default }
    | _ => { t with tuning := .builtIn, tuningOrigin := .default }
  | .response =>
    match content with
    | some (.response x) =>
      if responseLegal x then { t with response := x, responseOrigin := .loaded }
      else { t with response := .builtIn, responseOrigin := .default }
    | _ => { t with response := .builtIn, responseOrigin := .default }
  | .mapIn1 => map .IN1
  | .mapEx1 => map .EX1
  | .mapIn2 => map .IN2
  | .mapEx2 => map .EX2

/-- The content that a SAVE of a region takes from its working table (R165); IDENT has none. -/
def Tbm.image (t : Tbm) : Region → Option TableImage
  | .ident => none
  | .layout => some (.layout t.layout)
  | .tuning => some (.tuning t.tuning)
  | .response => some (.response t.response)
  | .mapIn1 => some (.map t.maps.in1.data)
  | .mapEx1 => some (.map t.maps.ex1.data)
  | .mapIn2 => some (.map t.maps.in2.data)
  | .mapEx2 => some (.map t.maps.ex2.data)

/-- A completed save sets the origin of its table to LOADED (R6, R16, R166); a map has none (R101). -/
def Tbm.saved (t : Tbm) : Region → Tbm
  | .layout => { t with layoutOrigin := .loaded }
  | .tuning => { t with tuningOrigin := .loaded }
  | .response => { t with responseOrigin := .loaded }
  | _ => t

end Sys2Proof.Machine
end

