-- ==== Sys2Proof/Machine/Target.lean ====
section
/-! DEFINITION. The Target Arbiter: the operating point and its staleness, the map lookup, the choice of source, the
presented target (R95 to R97, R102 to R109). -/

namespace Sys2Proof.Machine

/-! ### The map lookup (R105, R106) -/

/-- A value clamped to the first and last of a list of breakpoints. -/
def clampTo (bp : List Int) (x : Int) : Int := clampInt (bp.headD 0) (bp.getLastD 0) x

/-- The greatest index from 0, below the last, whose breakpoint is at or below `x`; 0 where there is none (R105). -/
def bracket (x : Int) (i : Nat) : List Int → Nat
  | a :: b :: c :: rest => if a ≤ x ∧ b ≤ x then bracket x (i + 1) (b :: c :: rest) else i
  | _ => i

/-- Two neighbouring breakpoints: the offset of `x` from the first, and their distance (R105). -/
def fraction (bp : List Int) (i : Nat) (x : Int) : Int × Int :=
  (x - bp.getD i 0, bp.getD (i + 1) 0 - bp.getD i 0)

/-- `a + n/d × (b - a)`, times `d`. -/
def lerp (f : Int × Int) (a b : Int) : Int := a * f.2 + f.1 * (b - a)

/-- The cell of row `i` and column `j`, from 0. -/
def MapData.cell (m : MapData) (i j : Nat) : Int := (m.cells.getD i []).getD j 0

/-- The grid value V (R105), exact: its numerator and its denominator. -/
def MapData.grid (m : MapData) (rpm load : Nat) : Int × Int :=
  let rbp := m.rpm.map Int.ofNat
  let lbp := m.load.map Int.ofNat
  let r := clampTo rbp rpm
  let l := clampTo lbp load
  let i := bracket r 0 rbp
  let j := bracket l 0 lbp
  let fr := fraction rbp i r
  let fl := fraction lbp j l
  let a := lerp fr (m.cell i j) (m.cell (i + 1) j)
  let b := lerp fr (m.cell i (j + 1)) (m.cell (i + 1) (j + 1))
  (lerp fl a b, fr.2 * fl.2)

/-- The derate factor (R106), exact: its numerator and its denominator. -/
def MapData.derate (m : MapData) (temp : Int) : Int × Int :=
  let t := clampTo m.temps temp
  let k := bracket t 0 m.temps
  let f := fraction m.temps k t
  (lerp f (m.factors.getD k 0) (m.factors.getD (k + 1) 0), f.2)

/-- The lookup result: V × f / 1,000 rounded down once, clamped to the channel's range (R106). -/
def MapData.lookup (m : MapData) (rpm load : Nat) (temp : Int) (range : Nat) : Nat :=
  let v := m.grid rpm load
  let f := m.derate temp
  min (quotient (v.1 * f.1).toNat (v.2 * f.2 * 1000).toNat) range

/-! ### Choosing a source (R102, R103) -/

/-- The channel's range in the layout in force. -/
def State.chanRange (s : State) (ch : Chan) : Nat :=
  match s.tbm.inForce.cam.get ch with
  | some c => c.range
  | none => 0

/-- The target that the last OPPT record carries for a channel. -/
def State.hostTarget (s : State) (ch : Chan) : Option Nat := s.tga.record.bind fun r => r.targets.get ch

/-- The selected source of a channel with its arbiter output (R102). -/
def State.choose (s : State) (ch : Chan) : Source × Nat :=
  if !s.inRun || !s.chanBound ch || (s.tga.chans.get ch).response == .park || s.tga.fresh != .fresh then (.park, 0)
  else
    match s.hostTarget ch, (s.tga.chans.get ch).mapOutput with
    | some t, _ => (.host, min t (s.chanRange ch))
    | none, some m => (.map, m)
    | none, none => (.park, 0)

/-- Arbitrates a channel afresh; a change to PARK writes 0 into the presented target, and each change of source is handed
to the channel (R103). -/
def State.arbitrate (s : State) (ch : Chan) : State :=
  let r := s.tga.chans.get ch
  let c := s.choose ch
  let s := s.setTga ch { r with source := c.1, output := c.2 }
  if c.1 = r.source then s
  else
    let s := if c.1 = .park then s.updChan ch fun p => { p with presented := 0 } else s
    s.hand (.phcSource ch c.1)

/-- Arbitrates every channel. -/
def State.arbitrateAll (s : State) : State := forEach allChans State.arbitrate s

/-- One target step: toward the arbiter output by at most `slew` (R107). -/
def stepToward (slew output presented : Nat) : Nat :=
  if presented ≤ output then (if output - presented ≤ slew then output else presented + slew)
  else if presented - output ≤ slew then output
  else presented - slew

/-- A target step of a channel, which the PHC hands over with a match (R78, R107). -/
def State.targetStep (s : State) (ch : Chan) : State :=
  s.updChan ch fun r => { r with
    presented := stepToward (s.tbm.tuning.chan.get ch).slew (s.tga.chans.get ch).output r.presented }

/-! ### The operating point (R95 to R97) -/

/-- A target field: absent or 0 to 960. -/
def target? (f : Field) : Option (Option Nat) := if f = .absent then some none else (within? 0 960 f).map some

/-- The lift request of an OPPT. -/
def liftRequest? : Field → Option (Option Bool)
  | .word .H => some (some true)
  | .word .L => some (some false)
  | .absent => some none
  | _ => none

/-- Field count and syntax of an OPPT: check 1 of R95. -/
def opptFormat : List Field → Bool
  | [load, temp, kpa, t1, t2, t3, t4, lift] =>
    [load, temp, kpa].all isNum && ([t1, t2, t3, t4].all fun f => f == .absent || isNum f) && (liftRequest? lift).isSome
  | _ => false

/-- The operating point, where every field lies in its range (check 2 of R95). -/
def opptRecord? : List Field → Option Oppt
  | [load, temp, kpa, t1, t2, t3, t4, lift] => do
    let load ← within? 0 1000 load
    let temp ← intWithin? (-40) 150 temp
    let kpa ← within? 0 1000 kpa
    let t1 ← target? t1
    let t2 ← target? t2
    let t3 ← target? t3
    let t4 ← target? t4
    let lift ← liftRequest? lift
    pure ⟨load, temp, kpa, ⟨t1, t2, t3, t4⟩, lift⟩
  | _ => none

/-- HOST_STALE reported gone where it was reported (R97). -/
def State.hostBack (s : State) : State :=
  if s.tga.staleReported then
    ({ s with tga := { s.tga with staleReported := false } } : State).report .tga .hostStale .gone
  else s

/-- An accepted OPPT (R96, R97). -/
def State.acceptOppt (s : State) (r : Oppt) : State :=
  let period := ms s.tbm.tuning.dev.staleMs
  let s : State := { s with tga := { s.tga with record := some r, fresh := .fresh, stale := some (s.now + period, period) } }
  ((s.hostBack.arbitrateAll).hand (.phcOil r.oilKpa)).hand .phcOpptChanged

/-- OPPT performed (R95, R96). -/
def State.doOppt (s : State) (fields : List Field) : State :=
  if !opptFormat fields then s.answer .OPPT .format
  else
    match opptRecord? fields with
    | none => s.answer .OPPT .range
    | some r => (s.acceptOppt r).answer .OPPT .ok

/-- OPPT (R96). -/
def execOppt (fields : List Field) (s : State) : Outcome := .next (s.request .OPPT fields fun s => s.doOppt fields)

/-- Every map output absent (R97, R108). -/
def State.dropMapOutputs (s : State) : State :=
  { s with tga := { s.tga with chans := s.tga.chans.map fun _ r => { r with mapOutput := none } } }

/-- The staleness timer expires and is restarted with the same period (R97). -/
def State.staleExpires (s : State) (period : Time) : State :=
  let s : State := { s with tga := { s.tga with fresh := .stale, stale := some (s.now + period, period) } }
  let s := s.dropMapOutputs.arbitrateAll
  if s.inRun && s.ckt.state != .stopped then
    ({ s with tga := { s.tga with staleReported := true } } : State).report .tga .hostStale .present
  else s

/-- STALENESS_TIMER_EXPIRY (R97). -/
def execStalenessTimerExpiry (s : State) : Outcome :=
  match s.tga.stale with
  | some (t, period) => .next ((s.reachTime t).staleExpires period)
  | none => .next s

/-! ### Cycle start and responses (R103, R104) -/

/-- The map output that a CYCLE_START gives a channel (R104). -/
def State.mapOutputNow (s : State) (ch : Chan) : Option Nat :=
  let m := s.tbm.maps.get ch
  match s.tga.record with
  | some r =>
    if s.inRun && s.chanBound ch && m.available && s.tga.fresh == .fresh then
      some (m.data.lookup s.ckt.rpm r.load r.oilTemp (s.chanRange ch))
    else none
  | none => none

/-- The arbiter takes CYCLE_START (R104). -/
def State.tgaCycle (s : State) : State :=
  State.arbitrateAll
    { s with tga := { s.tga with chans := s.tga.chans.map fun ch r => { r with mapOutput := s.mapOutputNow ch } } }

/-- Accepts a CYCLE_START for the arbiter. -/
def wantTgaCycle : Handover → Option Word32
  | .tgaCycleStart _ cycle => some cycle
  | _ => none

/-- TGA_CYCLE_START (R104). -/
def execTgaCycleStart (s : State) : Outcome := .next (s.taking wantTgaCycle fun _ s => s.tgaCycle)

/-- Accepts a response for the arbiter's choice on a channel. -/
def wantTgaResponse (ch : Chan) : Handover → Option PhaserAction
  | .tgaResponse c a => if c = ch then some a else none
  | _ => none

/-- The arbiter takes a changed response in force (R103). -/
def State.tgaTakesResponse (s : State) (ch : Chan) (a : PhaserAction) : State :=
  (s.updTga ch fun r => { r with response := a }).arbitrate ch

/-- TGA_RESPONSE_CHANGE (R103). -/
def execTgaResponseChange (ch : Chan) (s : State) : Outcome :=
  .next (s.taking (wantTgaResponse ch) fun a s => s.tgaTakesResponse ch a)

/-! ### RUN entry and leaving RUN (R108) -/

/-- Presented target 0 for every channel. -/
def State.zeroTargets (s : State) : State :=
  { s with phc := { s.phc with chans := s.phc.chans.map fun _ r => { r with presented := 0 } } }

/-- The arbiter at RUN entry (R108). -/
def State.tgaEnterRun (s : State) : State :=
  let s : State := { s with tga := { s.tga with
    chans := s.tga.chans.map fun _ r => { r with source := .park, output := 0, mapOutput := none } } }
  forEach (allChans.filter s.chanBound) State.arbitrate s.zeroTargets

/-- The arbiter when the part leaves RUN, its mode already STANDBY (R102, R108). -/
def State.tgaLeaveRun (s : State) : State := s.dropMapOutputs.zeroTargets.arbitrateAll

end Sys2Proof.Machine
end

