-- ==== Sys2Proof/Machine/Phaser.lean ====
section
/-! DEFINITION. The Phaser Controllers: the channel states, the control step, holding, parking, lockout, the drive test,
the oil-pressure watch (R73 to R94; log 23, 24, 26, 37, 39, 45). -/

namespace Sys2Proof.Machine

/-! ### Changes of state (R75) -/

/-- What follows a change of a channel's state: the notice, the handover to the Valve Drivers for the bound output, and
to the Fault Manager where LOCKOUT is entered or left (R75). -/
def State.afterChange (s : State) (ch : Chan) (old : ChanState) (cause : ChanCause) : State :=
  let r := s.phc.chans.get ch
  let s := s.notice .phc (.chs ch r.state old cause (if r.state = .holding then some r.holds else none) s.ckt.cycles)
  let s := match s.chanDriver ch with
    | some o => s.hand (.enableEvaluation (.ocv o))
    | none => s
  if (old == .lockout) != (r.state == .lockout) then s.hand .lockoutChange else s

/-- A channel enters a state (R75). -/
def State.enter (s : State) (ch : Chan) (new : ChanState) (cause : ChanCause) : State :=
  let old := (s.phc.chans.get ch).state
  (s.updChan ch fun r => { r with state := new }).afterChange ch old cause

/-- A duty is written as the output's pending duty and as the duty commanded (R79, R113). -/
def State.writeDuty (s : State) (ch : Chan) (duty : Nat) (immediate : Bool) : State :=
  let s := s.updChan ch fun r => { r with duty := duty }
  match s.chanDriver ch with
  | some o => s.hand (.dutyWrite o duty immediate)
  | none => s

/-- The measured phase of a channel (R73). -/
def State.phase (s : State) (ch : Chan) : Int := (s.ceu.chans.get ch).phase

/-- The channel's tuning items. -/
def State.tune (s : State) (ch : Chan) : ChanTune := s.tbm.tuning.chan.get ch

/-- The stuck monitor becomes IDLE with its reference kept (R81). -/
def ChanRec.idle (r : ChanRec) : ChanRec := { r with stuck := { r.stuck with watching := false } }

/-- The stuck monitor becomes IDLE with a new reference (R77, R82). -/
def ChanRec.idleAt (r : ChanRec) (phase : Int) : ChanRec :=
  { r with stuck := { r.stuck with watching := false, reference := phase } }

/-- A channel in RELEASING, TRACKING or HOLDING. -/
def ChanState.driving : ChanState → Bool
  | .releasing => true
  | .tracking => true
  | .holding => true
  | _ => false

/-! ### Entries to PARKING, FAULTED, LOCKOUT (R85, R89, R90) -/

/-- Entry to PARKING (R85). -/
def State.park (s : State) (ch : Chan) (cause : ChanCause) : State :=
  let s := s.writeDuty ch 0 true
  let expiry := s.now + ms (s.tune ch).parkMs
  let s := s.updChan ch fun r => { r.idle with holds := .empty, parkCount := 0, timer := some (.park, expiry) }
  s.enter ch .parking cause

/-- A channel in RELEASING, TRACKING or HOLDING enters PARKING; another is left as it is. -/
def State.parkIfDriving (s : State) (ch : Chan) (cause : ChanCause) : State :=
  if (s.phc.chans.get ch).state.driving then s.park ch cause else s

/-- Entry to FAULTED (R89). -/
def State.faulted (s : State) (ch : Chan) : State :=
  let s := s.writeDuty ch 0 true
  let s := s.updChan ch fun r => { r.idle with holds := .empty, timer := none, parkCount := 0 }
  s.enter ch .faulted .driver

/-- Entry to LOCKOUT (R90). -/
def State.lockOut (s : State) (ch : Chan) : State :=
  let s := s.writeDuty ch 0 true
  let s := s.updChan ch fun r => { r with timer := none, parkCount := 0 }
  s.enter ch .lockout .double

/-- The end of a drive test (R93). -/
def State.endTest (s : State) (ch : Chan) (cause : ChanCause) : State :=
  if (s.phc.chans.get ch).state = .driveTest then
    let s := s.writeDuty ch 0 true
    (s.updChan ch fun r => { r with timer := none }).enter ch .parked cause
  else s

/-! ### Leaving park (R76, R77) -/

/-- A hold claim of the Lift Sequencer stands on the channel (R76): the claim itself, so it keeps a channel PARKED from
its placing on, before the channel takes it, and RELEASING does not arise there (R83, R129; log 24). -/
def State.claimStands (s : State) (ch : Chan) : Bool := allUnits.any fun u => intake u == ch && (s.lfs.units.get u).claim

/-- The presented target exceeds PARK_TOL (R76). -/
def State.targetBeyond (s : State) (ch : Chan) : Bool :=
  decide ((s.tune ch).parkTol < (s.phc.chans.get ch).presented)

/-- The oil pressure of the last accepted OPPT is at least RELEASE_KPA (R76). -/
def State.oilForRelease (s : State) (ch : Chan) : Bool :=
  match s.tga.record with
  | some r => decide ((s.tune ch).releaseKpa ≤ r.oilKpa)
  | none => false

/-- The release conditions (R76). Condition 6 reads the supply state as it stands, ahead of the handover of a change
(R172; log 24). -/
def State.releaseOk (s : State) (ch : Chan) : Bool :=
  s.inRun && s.ckt.state == .cycleLocked && decide ((s.tune ch).releaseRpm ≤ s.ckt.rpm) && s.oilForRelease ch &&
  (s.tga.chans.get ch).source != .park && s.targetBeyond ch && s.fmg.chanResponse.get ch != .park &&
  s.smc.supplyState != .belowDrive && !s.claimStands ch

/-- Entry to RELEASING (R76). -/
def State.release (s : State) (ch : Chan) : State :=
  let t := s.tune ch
  let s := s.updChan ch fun r => { r with
    integral := 0, inBand := 0, timer := some (.release, s.now + ms t.releaseMs) }
  (s.writeDuty ch t.releaseDuty false).enter ch .releasing .release

/-- What ends a release, where a condition fails: the cause word of the first that does (R77; log 26). -/
def State.releaseLost (s : State) (ch : Chan) : Option ChanCause :=
  if !s.inRun || s.ckt.state != .cycleLocked then some .lock
  else if s.fmg.chanResponse.get ch = .park then some .response
  else if (s.tga.chans.get ch).source = .park then some .source
  else if !s.targetBeyond ch then some .lost
  else if s.smc.supplyState = .belowDrive then some .supply
  else if s.claimStands ch then some .lost
  else none

/-- The release conditions evaluated in PARKED (R76), re-examined in RELEASING (R77). -/
def State.evaluate (s : State) (ch : Chan) : State :=
  match (s.phc.chans.get ch).state with
  | .parked => if s.releaseOk ch then s.release ch else s
  | .releasing =>
    match s.releaseLost ch with
    | some cause => s.park ch cause
    | none => s
  | _ => s

/-! ### Holding (R82 to R84) -/

/-- The hold causes. -/
inductive HoldCause
  | claim | supply | measure | response
deriving DecidableEq, Repr

/-- Sets or clears one hold cause. -/
def HoldCauses.put (h : HoldCauses) (c : HoldCause) (b : Bool) : HoldCauses :=
  match c with
  | .claim => { h with claim := b }
  | .supply => { h with supply := b }
  | .measure => { h with measure := b }
  | .response => { h with response := b }

/-- One of the hold causes bounded in time is set (R84). -/
def HoldCauses.timed (h : HoldCauses) : Bool := h.supply || h.measure

/-- The timer when a hold cause is added: a hold limit period starts where the causes held no timed one before (R84). -/
def State.holdTimer (s : State) (before after : HoldCauses) (timer : Option (ChanTimer × Time)) :
    Option (ChanTimer × Time) :=
  if after.timed && !before.timed then some (.holdLimit, s.now + ms s.tbm.tuning.dev.holdLimitMs) else timer

/-- Entry to HOLDING (R82). -/
def State.hold (s : State) (ch : Chan) (c : HoldCause) : State :=
  let holds := HoldCauses.empty.put c true
  let s := s.updChan ch fun r => { r.idle with holds := holds, timer := s.holdTimer .empty holds r.timer }
  (s.writeDuty ch (s.phc.chans.get ch).learned false).enter ch .holding .hold

/-- A hold cause arises: TRACKING enters HOLDING, HOLDING adds it (R82). -/
def State.addHold (s : State) (ch : Chan) (c : HoldCause) : State :=
  let r := s.phc.chans.get ch
  match r.state with
  | .tracking => s.hold ch c
  | .holding =>
    let holds := r.holds.put c true
    s.setChan ch { r with holds := holds, timer := s.holdTimer r.holds holds r.timer }
  | _ => s

/-- A channel that has entered TRACKING while the response in force is HOLD goes on to HOLDING (R77, R87). -/
def State.holdForResponse (s : State) (ch : Chan) : State :=
  if s.fmg.chanResponse.get ch = .hold then s.addHold ch .response else s

/-- Entry to TRACKING: the learned hold duty, an idle monitor, an empty in-band tally (R77, R82). -/
def State.track (s : State) (ch : Chan) (cause : ChanCause) : State :=
  let s := s.writeDuty ch (s.phc.chans.get ch).learned false
  let s := s.updChan ch fun r => { r.idleAt (s.phase ch) with holds := .empty, timer := none, inBand := 0 }
  (s.enter ch .tracking cause).holdForResponse ch

/-- A hold cause is removed from a HOLDING channel; with the last one it resumes TRACKING (R82, R84). -/
def State.removeHold (s : State) (ch : Chan) (c : HoldCause) : State :=
  let r := s.phc.chans.get ch
  if r.state = .holding then
    let holds := r.holds.put c false
    if holds = .empty then s.track ch .resume
    else s.setChan ch { r with holds := holds, timer := if holds.timed then r.timer else none }
  else s

/-! ### The control step (R79 to R81) -/

/-- Hold learning (R80). -/
def ChanRec.learn (r : ChanRec) (deadband : Nat) (e : Int) (duty : Nat) : ChanRec :=
  if e.natAbs ≤ deadband then
    if r.inBand + 1 < 8 then { r with inBand := r.inBand + 1 }
    else { r with inBand := 0, learned := stepToward 1 duty r.learned }
  else { r with inBand := 0 }

/-- The stuck monitor (R81): its new value, and whether PHASER_STUCK is reported. -/
def StuckMonitor.evaluate (m : StuckMonitor) (t : ChanTune) (e phase : Int) (presented : Nat) (cycle : Word32) :
    StuckMonitor × Bool :=
  let near := decide (e.natAbs ≤ t.deadband)
  if !m.watching then
    if near then ({ m with reference := phase }, false)
    else if t.step ≤ ((presented : Int) - m.reference).natAbs then
      ({ m with watching := true, start := phase, startCycle := cycle }, false)
    else (m, false)
  else
    let up := decide (m.start < (presented : Int)) && decide (m.start + t.moveMin ≤ phase)
    let down := decide ((presented : Int) < m.start) && decide (phase + t.moveMin ≤ m.start)
    if near || up || down then ({ m with watching := false, reference := phase }, false)
    else if t.stuckCycles ≤ (cycle - m.startCycle).toNat then ({ m with start := phase, startCycle := cycle }, true)
    else (m, false)

/-- The integral term after a step with error `e` (R79). -/
def nextIntegral (t : ChanTune) (integral e : Int) : Int :=
  clampInt (-(t.ilim : Int)) t.ilim (integral + Int.tdiv (t.ki * e) 256)

/-- The duty of a control step (R79). -/
def stepDuty (t : ChanTune) (learned : Nat) (integral e : Int) : Nat :=
  (clampInt t.dmin t.dmax ((learned : Int) + Int.tdiv (t.kp * e) 16 + integral)).toNat

/-- The control step of a TRACKING channel on a match that carries `cycle` (R79). -/
def State.controlStep (s : State) (ch : Chan) (cycle : Word32) : State :=
  let s := s.targetStep ch
  let t := s.tune ch
  let r := s.phc.chans.get ch
  let phase := s.phase ch
  let e : Int := (r.presented : Int) - phase
  let integral := nextIntegral t r.integral e
  let duty := stepDuty t r.learned integral e
  let s := (s.setChan ch { r with integral := integral }).writeDuty ch duty false
  let s := s.updChan ch fun r => r.learn t.deadband e duty
  let m := (s.phc.chans.get ch).stuck.evaluate t e phase r.presented cycle
  let s := s.updChan ch fun r => { r with stuck := m.1 }
  if m.2 then s.report .phc (.phaserStuck ch) .event else s

/-! ### Parking outcomes (R86) -/

/-- Entry to PARKED from PARKING (R86). -/
def State.parkedFrom (s : State) (ch : Chan) (cause : ChanCause) : State :=
  (s.updChan ch fun r => { r with timer := none, parkCount := 0 }).enter ch .parked cause

/-- A match in PARKING (R86). A channel whose timer is none takes no outcome. -/
def State.parkMatch (s : State) (ch : Chan) : State :=
  let r := s.phc.chans.get ch
  match r.timer with
  | none => s
  | some _ =>
    if s.phase ch ≤ ((s.tune ch).parkTol : Int) then
      if 2 ≤ r.parkCount + 1 then s.parkedFrom ch .settled else s.setChan ch { r with parkCount := r.parkCount + 1 }
    else s.setChan ch { r with parkCount := 0 }

/-- The measurement of a channel is available (R86). -/
def State.measured (s : State) (ch : Chan) : Bool := s.ckt.state == .cycleLocked && (s.ceu.chans.get ch).valid

/-- The park period ends (R86). PARK_TOL is the value that stands at the expiry, the model's choice (R17; log 52). -/
def State.parkExpires (s : State) (ch : Chan) : State :=
  if s.measured ch && decide (((s.tune ch).parkTol : Int) < s.phase ch) then
    (s.updChan ch fun r => { r with timer := none }).report .phc (.parkFail ch) .event
  else s.parkedFrom ch .timeout

/-! ### Matches (R78) -/

/-- Accepts a match of a channel, with the cycle count it carries. -/
def wantMatch (ch : Chan) : Handover → Option Word32
  | .phcMatch c _ _ _ cycle => if c = ch then some cycle else none
  | _ => none

/-- A channel takes a match (R78). -/
def State.phcTakesMatch (s : State) (ch : Chan) (cycle : Word32) : State :=
  match (s.phc.chans.get ch).state with
  | .parked => (s.targetStep ch).evaluate ch
  | .releasing => (s.targetStep ch).evaluate ch
  | .tracking => s.controlStep ch cycle
  | .holding => (s.targetStep ch).removeHold ch .measure
  | .parking => s.parkMatch ch
  | _ => s

/-- PHC_MATCH (R78). -/
def execPhcMatch (ch : Chan) (s : State) : Outcome := .next (s.taking (wantMatch ch) fun c s => s.phcTakesMatch ch c)

/-- Accepts a measurement missing of a channel. -/
def wantMissing (ch : Chan) : Handover → Option Unit
  | .phcMissing c _ _ => if c = ch then some () else none
  | _ => none

/-- PHC_MEASUREMENT_MISSING (R78). -/
def execPhcMeasurementMissing (ch : Chan) (s : State) : Outcome :=
  .next (s.taking (wantMissing ch) fun _ s => s.addHold ch .measure)

/-! ### Crank notifications (R85, R93) -/

/-- Accepts a lock-lost notification of a channel. -/
def wantPhcLockLost (ch : Chan) : Handover → Option Unit
  | .phcLockLost c => if c = ch then some () else none
  | _ => none

/-- PHC_LOCK_LOST (R85). -/
def execPhcLockLost (ch : Chan) (s : State) : Outcome :=
  .next (s.taking (wantPhcLockLost ch) fun _ s => s.parkIfDriving ch .lock)

/-- Accepts a start notification of a channel. -/
def wantPhcStart (ch : Chan) : Handover → Option Unit
  | .phcStart c => if c = ch then some () else none
  | _ => none

/-- PHC_START_NOTIFICATION (R93). -/
def execPhcStartNotification (ch : Chan) (s : State) : Outcome :=
  .next (s.taking (wantPhcStart ch) fun _ s => s.endTest ch .abandon)

/-! ### Timers (R77, R84, R86, R93; log 4) -/

/-- The expiry of a channel's timer, where it runs and is of the kind given. -/
def State.chanTimer (s : State) (ch : Chan) (kind : ChanTimer) : Option Time :=
  match (s.phc.chans.get ch).timer with
  | some (k, t) => if k = kind then some t else none
  | none => none

/-- RELEASE_TIMER_EXPIRY (R77). -/
def execReleaseTimerExpiry (ch : Chan) (s : State) : Outcome :=
  match s.chanTimer ch .release with
  | some t => .next ((s.reachTime t).track ch .released)
  | none => .next s

/-- HOLD_LIMIT_EXPIRY (R84). -/
def execHoldLimitExpiry (ch : Chan) (s : State) : Outcome :=
  match s.chanTimer ch .holdLimit with
  | some t => .next ((s.reachTime t).parkIfDriving ch .limit)
  | none => .next s

/-- PARK_TIMER_EXPIRY (R86). -/
def execParkTimerExpiry (ch : Chan) (s : State) : Outcome :=
  match s.chanTimer ch .park with
  | some t => .next ((s.reachTime t).parkExpires ch)
  | none => .next s

/-- TEST_TIMER_EXPIRY (R93). -/
def execTestTimerExpiry (ch : Chan) (s : State) : Outcome :=
  match s.chanTimer ch .test with
  | some t => .next ((s.reachTime t).endTest ch .testEnd)
  | none => .next s

/-! ### Claims and supply (R82, R83) -/

/-- Accepts a claim placed on a channel, or its release. -/
def wantClaim (ch : Chan) (placed : Bool) : Handover → Option Unit
  | .phcClaim c p => if c = ch ∧ p = placed then some () else none
  | _ => none

/-- A channel takes a hold claim (R83). -/
def State.takesClaim (s : State) (ch : Chan) : State :=
  if (s.phc.chans.get ch).state = .releasing then s.park ch .lost else s.addHold ch .claim

/-- PHC_CLAIM_PLACED (R83). -/
def execPhcClaimPlaced (ch : Chan) (s : State) : Outcome := .next (s.taking (wantClaim ch true) fun _ s => s.takesClaim ch)

/-- A hold cause goes, or the release conditions are evaluated (R82, R83, R87). -/
def State.causeGone (s : State) (ch : Chan) (c : HoldCause) : State :=
  if (s.phc.chans.get ch).state = .holding then s.removeHold ch c else s.evaluate ch

/-- PHC_CLAIM_RELEASED (R82). -/
def execPhcClaimReleased (ch : Chan) (s : State) : Outcome :=
  .next (s.taking (wantClaim ch false) fun _ s => s.causeGone ch .claim)

/-- Accepts a change of supply state of a channel. -/
def wantPhcSupply (ch : Chan) : Handover → Option SupplyState
  | .phcSupply c st => if c = ch then some st else none
  | _ => none

/-- A channel takes a change of supply state (R83). -/
def State.takesSupply (s : State) (ch : Chan) (st : SupplyState) : State :=
  if st = .belowDrive then
    if (s.phc.chans.get ch).state = .releasing then s.park ch .supply else s.addHold ch .supply
  else s.causeGone ch .supply

/-- PHC_SUPPLY_CHANGE (R83). -/
def execPhcSupplyChange (ch : Chan) (s : State) : Outcome :=
  .next (s.taking (wantPhcSupply ch) fun st s => s.takesSupply ch st)

/-! ### Responses and sources (R87, R88) -/

/-- Accepts a response in force of a channel. -/
def wantPhcResponse (ch : Chan) : Handover → Option PhaserAction
  | .phcResponse c a => if c = ch then some a else none
  | _ => none

/-- A channel takes a new response in force (R87). -/
def State.takesResponse (s : State) (ch : Chan) (a : PhaserAction) : State :=
  match a with
  | .none => s.causeGone ch .response
  | .hold =>
    match (s.phc.chans.get ch).state with
    | .tracking => s.addHold ch .response
    | .holding => s.addHold ch .response
    | _ => s.evaluate ch
  | .park => (s.endTest ch .response).parkIfDriving ch .response

/-- PHC_RESPONSE_CHANGE (R87). -/
def execPhcResponseChange (ch : Chan) (s : State) : Outcome :=
  .next (s.taking (wantPhcResponse ch) fun a s => s.takesResponse ch a)

/-- Accepts a change of selected source of a channel. -/
def wantPhcSource (ch : Chan) : Handover → Option Source
  | .phcSource c x => if c = ch then some x else none
  | _ => none

/-- A channel takes a change of selected source (R88). -/
def State.takesSource (s : State) (ch : Chan) (x : Source) : State :=
  if x = .park then s.parkIfDriving ch .source else s.evaluate ch

/-- PHC_SOURCE_CHANGE (R88). -/
def execPhcSourceChange (ch : Chan) (s : State) : Outcome :=
  .next (s.taking (wantPhcSource ch) fun x s => s.takesSource ch x)

/-! ### Driver faults and class-1 reports (R89, R90; log 39) -/

/-- A driver fault by itself, as DRIVER_OPEN hands it (R89). -/
def State.driverFault (s : State) (ch : Chan) : State :=
  match (s.phc.chans.get ch).state with
  | .unused => s
  | .faulted => s
  | .lockout => s
  | _ => s.faulted ch

/-- A class-1 report by itself (R90). -/
def State.class1 (s : State) (ch : Chan) : State :=
  match (s.phc.chans.get ch).state with
  | .parking => s.lockOut ch
  | .faulted => s.lockOut ch
  | _ => s

/-- The handover that is at once a driver fault and a class-1 report, judged by the state it finds (R148). -/
def State.shortFault (s : State) (ch : Chan) : State :=
  match (s.phc.chans.get ch).state with
  | .parking => s.class1 ch
  | .faulted => s.class1 ch
  | _ => s.driverFault ch

/-- Accepts a driver fault of a channel. -/
def wantDriverFault (ch : Chan) : Handover → Option Bool
  | .phcDriverFault c class1 => if c = ch then some class1 else none
  | _ => none

/-- PHC_DRIVER_FAULT (R89). -/
def execPhcDriverFault (ch : Chan) (s : State) : Outcome :=
  .next (s.taking (wantDriverFault ch) fun class1 s => if class1 then s.shortFault ch else s.driverFault ch)

/-- Accepts a class-1 report of a channel: alone, or with a driver fault in one handover. -/
def wantClass1 (ch : Chan) : Handover → Option Bool
  | .phcClass1 c => if c = ch then some false else none
  | .phcDriverFault c class1 => if c = ch ∧ class1 = true then some true else none
  | _ => none

/-- PHC_CLASS_1_REPORT (R90). -/
def execPhcClass1Report (ch : Chan) (s : State) : Outcome :=
  .next (s.taking (wantClass1 ch) fun short s => if short then s.shortFault ch else s.class1 ch)

/-- Accepts a driver clear of a channel. -/
def wantPhcClear (ch : Chan) : Handover → Option Unit
  | .phcDriverClear c => if c = ch then some () else none
  | _ => none

/-- A driver clear (R89). -/
def State.driverCleared (s : State) (ch : Chan) : State :=
  if (s.phc.chans.get ch).state = .faulted then s.enter ch .parked .driverClear else s

/-- PHC_DRIVER_CLEAR (R89). -/
def execPhcDriverClear (ch : Chan) (s : State) : Outcome :=
  .next (s.taking (wantPhcClear ch) fun _ s => s.driverCleared ch)

/-! ### Oil pressure (R94) -/

/-- A channel that drives with HOLD_KPA above the pressure (R94). -/
def State.lowDriving (s : State) (k : Nat) (ch : Chan) : Bool :=
  (s.phc.chans.get ch).state.driving && decide (k < (s.tune ch).holdKpa)

/-- The oil-pressure watch at an accepted OPPT (R94). -/
def State.watchOil (s : State) (k : Nat) : State :=
  let low := allChans.filter (s.lowDriving k)
  if !low.isEmpty then
    let run := bump 255 s.phc.lowOilRun
    let s : State := { s with phc := { s.phc with lowOilRun := run } }
    if 3 ≤ run then
      let s := ({ s with phc := { s.phc with oilReported := true } } : State).report .phc .oilLow .present
      forEach low (fun s ch => s.park ch .oil) s
    else s
  else if (allChans.filter s.chanBound).all fun ch => decide ((s.tune ch).holdKpa ≤ k) then
    let gone := s.phc.oilReported
    let s : State := { s with phc := { s.phc with lowOilRun := 0, oilReported := false } }
    if gone then s.report .phc .oilLow .gone else s
  else s

/-- Accepts the oil pressure of an accepted OPPT. -/
def wantOil : Handover → Option Nat
  | .phcOil k => some k
  | _ => none

/-- PHC_OPPT_OIL (R94). -/
def execPhcOpptOil (s : State) : Outcome := .next (s.taking wantOil fun k s => s.watchOil k)

/-- Accepts the news that the last OPPT has changed. -/
def wantOpptChanged : Handover → Option Unit
  | .phcOpptChanged => some ()
  | _ => none

/-- PHC_OPPT_CHANGED (R76, R77). -/
def execPhcOpptChanged (s : State) : Outcome :=
  .next (s.taking wantOpptChanged fun _ s => forEach allChans State.evaluate s)

/-! ### RUN entry and leaving RUN (R74) -/

/-- A driver record of an OCV output is held (R74, R91). -/
def State.outFaulted (s : State) (o : LineABCD) : Bool :=
  (s.fmg.table.driverShort.get (.ocv o)).held || (s.fmg.table.driverOpen.get (.ocv o)).held

/-- A channel that has just entered PARKED enters FAULTED at once where a driver record of its output is held. -/
def State.faultIfHeld (s : State) (ch : Chan) : State :=
  match (s.phc.chans.get ch).state, s.chanDriver ch with
  | .parked, some o => if s.outFaulted o then s.faulted ch else s
  | _, _ => s

/-- A channel at RUN entry (R74). -/
def State.phcEnterChan (s : State) (ch : Chan) : State :=
  let old := (s.phc.chans.get ch).state
  let new := if old = .lockout then .lockout else if s.chanBound ch then .parked else .unused
  let s := s.updChan ch fun r => { r with
    state := new
    holds := .empty
    duty := 0
    integral := 0
    learned := (s.tune ch).hold0
    stuck := { r.stuck with watching := false, reference := 0 }
    timer := none
    inBand := 0
    parkCount := 0 }
  let s := if new = old then s else s.afterChange ch old .run
  s.faultIfHeld ch

/-- The Phaser Controllers at RUN entry, in the order IN1, EX1, IN2, EX2 (R74, R94; log 23). -/
def State.phcEnterRun (s : State) : State :=
  forEach allChans State.phcEnterChan { s with phc := { s.phc with lowOilRun := 0 } }

/-- A channel when the part leaves RUN: lock has been lost, so it is not in RELEASING, TRACKING or HOLDING, whether or
not it has taken the notification (R74, R85; log 45); a drive test ends (R93). -/
def State.phcLeaveChan (s : State) (ch : Chan) : State := (s.parkIfDriving ch .lock).endTest ch .mode

/-- The Phaser Controllers when the part leaves RUN, in the order IN1, EX1, IN2, EX2 (R74; log 23). -/
def State.phcLeaveRun (s : State) : State := forEach allChans State.phcLeaveChan s

/-! ### TEST CH and CLRL (R91, R92) -/

/-- The fields of a drive test as far as their syntax goes. -/
def testChFields : List Field → Option (Field × Field × Field)
  | [.word .CH, .num c, .num d, .num t] => some (.num c, .num d, .num t)
  | _ => none

/-- An accepted drive test (R92). -/
def State.startTest (s : State) (ch : Chan) (duty time : Nat) : State :=
  let s := s.writeDuty ch duty false
  (s.updChan ch fun r => { r with timer := some (.test, s.now + ms time) }).enter ch .driveTest .test

/-- TEST CH performed (R92). -/
def State.doTestCh (s : State) (fields : List Field) : State :=
  match testChFields fields with
  | none => s.answer .TEST .format
  | some (c, d, t) =>
    match chan? c, within? 0 1000 d, within? 10 1000 t with
    | some ch, some duty, some time =>
      if !s.inRun then s.answer .TEST .mode
      else if !s.chanBound ch then s.answer .TEST .unbound
      else if s.ckt.state ≠ .stopped ∨ (s.phc.chans.get ch).state ≠ .parked ∨ s.fmg.chanResponse.get ch = .park then
        s.answer .TEST .state
      else (s.startTest ch duty time).answer .TEST .ok
    | _, _, _ => s.answer .TEST .range

/-- TEST_CH (R92). A TEST whose first field is LIFT is the row TEST_LIFT's; one whose first field is neither is refused
with FORMAT (R180). -/
def execTestCh (fields : List Field) (s : State) : Outcome :=
  if fields.head? = some (.word .LIFT) then .next s else .next (s.request .TEST fields fun s => s.doTestCh fields)

/-- Whether the arm record names an operation (R181). -/
def State.armed (s : State) (op : ArmOp) : Bool :=
  match s.clp.arm with
  | some (o, _) => o == op
  | none => false

/-- The arm record emptied (R181). -/
def State.disarm (s : State) : State := s.updClp fun c => { c with arm := none }

/-- A channel released from LOCKOUT (R91). -/
def State.unlock (s : State) (ch : Chan) : State :=
  (s.enter ch (if s.chanBound ch then .parked else .unused) .clrl).faultIfHeld ch

/-- CLRL performed, the arm record already read (R91). -/
def State.doClrl (s : State) (fields : List Field) (armed : Bool) : State :=
  if fields ≠ [] then s.answer .CLRL .format
  else if !armed then s.answer .CLRL .notArmed
  else if !s.inRun then s.answer .CLRL .mode
  else if s.ckt.state ≠ .stopped then s.answer .CLRL .state
  else
    let locked := allChans.filter fun ch => (s.phc.chans.get ch).state == .lockout
    (forEach locked State.unlock s).answer .CLRL .ok [nat locked.length]

/-- CLRL (R91). -/
def execClrl (fields : List Field) (s : State) : Outcome :=
  .next (s.request .CLRL fields fun s => s.disarm.doClrl fields (s.armed .clrl))

end Sys2Proof.Machine
end

