-- ==== Sys2Proof/Machine/Store.lean ====
section
/-! DEFINITION. The Calibration Store: pages and their check, regions, saving, sweeping, suspension, aborts, the start-up
load, and SAVE, SWEP, ABRT, PAGE, STST, LOCK (R161 to R171, R185; log 7, 8, 9, 15, 18, 24, 40). -/

namespace Sys2Proof.Machine

/-! ### Pages (R161) -/

/-- One bit of the CRC-32: the generator polynomial with its bits taken least significant first (R161). -/
def crcBit (c : Word32) : Word32 := if c.getLsbD 0 then (c >>> 1) ^^^ 0xEDB88320#32 else c >>> 1

/-- One byte of the CRC-32. -/
def crcByte (c : Word32) (b : Byte) : Word32 :=
  crcBit (crcBit (crcBit (crcBit (crcBit (crcBit (crcBit (crcBit (c ^^^ b.setWidth 32))))))))

/-- The CRC-32 of a run of bytes (R161). -/
def crc32 (l : List Byte) : Word32 := ~~~(l.foldl crcByte 0xFFFFFFFF#32)

/-- A 16-bit field, most significant byte first (R161). -/
def bytes16 (g : Gen) : List Byte := [(g >>> 8).setWidth 8, g.setWidth 8]

/-- A 32-bit field, most significant byte first (R161). -/
def bytes32 (w : Word32) : List Byte := [(w >>> 24).setWidth 8, (w >>> 16).setWidth 8, (w >>> 8).setWidth 8, w.setWidth 8]

/-- A byte of a page. -/
def Page.byte (p : Page) (i : Nat) : Byte := p.bytes.getD i 0#8

/-- The page is erased. -/
def Page.isErased (p : Page) : Bool := p.bytes == List.replicate 128 0xFF#8

/-- The page passes its check. -/
def Page.passes (p : Page) : Bool := p.bytes.drop 124 == bytes32 (crc32 (p.bytes.take 124))

/-- The page is damaged. -/
def Page.damaged (p : Page) : Bool := !p.isErased && !p.passes

/-- The generation in a page's header. -/
def Page.gen (p : Page) : Gen := ((p.byte 2).setWidth 16 <<< 8) ||| (p.byte 3).setWidth 16

/-- The payload in use of a page. -/
def Page.payload (p : Page) : List Byte := (p.bytes.drop 8).take (p.byte 4).toNat

/-- The bytes of a page but for its check: region id, page index, generation, payload length, spare, payload. -/
def pageBody (id index : Nat) (gen : Gen) (payload : List Byte) : List Byte :=
  let used := payload.take 116
  [BitVec.ofNat 8 id, BitVec.ofNat 8 index] ++ bytes16 gen ++ [BitVec.ofNat 8 used.length, 0#8, 0#8, 0#8] ++ used ++
    List.replicate (116 - used.length) 0#8

/-- A programmed page. -/
def Page.build (id index : Nat) (gen : Gen) (image : TableImage) : Page :=
  let body := pageBody id index gen (Config.encodePayload image index)
  ⟨body ++ bytes32 (crc32 body), some image⟩

/-! ### Regions (R162) -/

/-- The number of a region. -/
def regionId : Region → Nat
  | .ident => 0
  | .layout => 1
  | .tuning => 2
  | .response => 3
  | .mapIn1 => 4
  | .mapEx1 => 5
  | .mapIn2 => 6
  | .mapEx2 => 7

/-- The first page of a region. -/
def regionFirst : Region → Nat
  | .ident => 0
  | .layout => 2
  | .tuning => 6
  | .response => 10
  | .mapIn1 => 12
  | .mapEx1 => 18
  | .mapIn2 => 24
  | .mapEx2 => 30

/-- How many pages a region has. -/
def regionSize : Region → Nat
  | .ident => 2
  | .layout => 4
  | .tuning => 4
  | .response => 2
  | _ => 6

/-- The regions that GUARD protects. -/
def guardSubject : Region → Bool
  | .layout => true
  | .tuning => true
  | .response => true
  | _ => false

/-- The region that holds a page. -/
def regionOfPage (n : Nat) : Region :=
  (allRegions.find? fun r => decide (regionFirst r ≤ n ∧ n < regionFirst r + regionSize r)).getD .mapEx2

/-- A page of the store. -/
def State.page (s : State) (n : Nat) : Page := s.cst.pages.getD n .erased

/-- Changes the store's record. -/
def State.updCst (s : State) (f : Cst → Cst) : State := { s with cst := f s.cst }

/-- Replaces a page. -/
def State.setPage (s : State) (n : Nat) (p : Page) : State := s.updCst fun c => { c with pages := c.pages.set n p }

/-- The pages of a region. -/
def State.regionPages (s : State) (r : Region) : List Page :=
  (List.range (regionSize r)).map fun i => s.page (regionFirst r + i)

/-- A page that passes its check and carries a region's id and its own index. -/
def Page.good (p : Page) (r : Region) (i : Nat) : Bool :=
  p.passes && p.byte 0 == BitVec.ofNat 8 (regionId r) && p.byte 1 == BitVec.ofNat 8 i

/-- The generations of a region's good pages, in page order. -/
def goodGens (r : Region) (pages : List Page) : List Gen :=
  (pages.mapIdx fun i p => if p.good r i then some p.gen else none).filterMap id

/-- The status and generation that a region's pages have (R162). -/
def evaluatePages (r : Region) (pages : List Page) : RegionRec :=
  let gens := goodGens r pages
  match gens with
  | g :: rest =>
    if decide (gens.length = pages.length) && rest.all (· == g) then ⟨.valid, g⟩ else ⟨.invalid, g⟩
  | [] => if pages.all Page.isErased then ⟨.blank, 0⟩ else ⟨.invalid, 0⟩

/-- Replaces a region's record. -/
def State.setRegion (s : State) (r : Region) (x : RegionRec) : State :=
  s.updCst fun c => { c with regions := c.regions.set r x }

/-- Evaluates a region. -/
def State.evaluateRegion (s : State) (r : Region) : State := s.setRegion r (evaluatePages r (s.regionPages r))

/-! ### The start-up load (R162, R174, R185; log 8, 15) -/

/-- The level of GUARD is read (R162, R165, R171; log 15). -/
def State.seeGuard (s : State) (on : Bool) : State := s.updCst fun c => { c with guardOn := on }

/-- The table that a VALID region's payloads carry: the one a save of this model wrote, where it wrote them all, else
what they decode to. -/
def regionContent (r : Region) (pages : List Page) : Option TableImage :=
  let images := pages.filterMap Page.image
  match images with
  | i :: rest =>
    if decide (images.length = pages.length) && rest.all (· == i) then some i
    else Config.decodePayloads r (pages.map Page.payload)
  | [] => Config.decodePayloads r (pages.map Page.payload)

/-- The identity as the load of IDENT finds it (R185). -/
def State.loadIdent (s : State) : State :=
  let st := (s.cst.regions.get .ident).status
  let identity := if st = .valid then some (Config.decodeIdentity ((s.regionPages .ident).map Page.payload)) else none
  s.updCst fun c => { c with identStatus := st, identity := identity }

/-- One region evaluated and handed to the Table Memory (R162, R174). -/
def State.loadRegion (s : State) (r : Region) : State :=
  let s := s.evaluateRegion r
  let content := if (s.cst.regions.get r).status = .valid then regionContent r (s.regionPages r) else none
  let s : State := { s with tbm := s.tbm.load r content }
  if r = .ident then s.loadIdent else s

/-- The eight regions loaded in order. -/
def State.loadAll (s : State) : State := forEach allRegions State.loadRegion s

/-! ### The store operation (R164 to R168) -/

/-- Changes the operation record. -/
def State.updOp (s : State) (f : StoreOp → StoreOp) : State := s.updCst fun c => { c with op := f c.op }

/-- The supply state is NORMAL: at an acceptance, and at the end of a page with a suspension pending, the store reads the
state as it stands, ahead of the handover of its change (R167; log 24). -/
def State.supplyNormal (s : State) : Bool := s.smc.supplyState == .normal

/-- The erase of a page begins; with it the status of the region becomes INVALID where the page is its first (R166). -/
def State.beginErase (s : State) (r : Region) (n : Nat) : State :=
  let s := s.setPage n .erased
  if n = regionFirst r then s.setRegion r { s.cst.regions.get r with status := .invalid } else s

/-- The operation ends; !STO is handed in (R164). -/
def State.endOp (s : State) (n : Notice) : State := (s.updOp fun _ => .idle).notice .cst n

/-- A sweep is abandoned (R165, R168). -/
def State.abandonSweep (s : State) : State :=
  (s.updCst fun c => { c with sweep := .abandoned }).endOp (.stoSweep .abandoned)

/-- A save ends: the region is evaluated, the last save result set, !STO handed in (R166, R168; log 40). -/
def State.endSave (s : State) (r : Region) (gen : Gen) (complete : Bool) : State :=
  let s := s.evaluateRegion r
  let s := s.updCst fun c => { c with lastSave := some ⟨r, complete, gen⟩ }
  s.endOp (.stoSave r complete (s.cst.regions.get r).gen)

/-- A save completes (R166). -/
def State.completeSave (s : State) (r : Region) (gen : Gen) : State :=
  State.endSave { s with tbm := s.tbm.saved r } r gen true

/-- The next page of a save: its erase begins, or a pending suspension is taken (R166, R167). While the store has not taken
the news that the supply left NORMAL no suspension is pending, and the next page begins (log 24). -/
def State.nextSavePage (s : State) (r : Region) (n : Nat) : State :=
  if s.cst.op.suspendPending && !s.supplyNormal then
    s.updOp fun o => { o with page := n, running := false, suspendPending := false, resume := none }
  else (s.updOp fun o => { o with page := n, suspendPending := false }).beginErase r n

/-- The page in progress of a save ends: it is programmed (R166). -/
def State.endPage (s : State) (r : Region) (gen : Gen) (image : TableImage) : State :=
  let n := s.cst.op.page
  let s := s.setPage n (.build (regionId r) (n - regionFirst r) gen image)
  if n + 1 < regionFirst r + regionSize r then s.nextSavePage r (n + 1) else s.completeSave r gen

/-- SAVE_PAGE_END: the page in progress ends `dt` after the step before (R166). -/
def execSavePageEnd (dt : Nat) (s : State) : Outcome :=
  match s.cst.op.kind, s.cst.op.running with
  | .save r gen image, true => .next ((s.pass dt).endPage r gen image)
  | _, _ => .next s

/-- A sweep finds a damaged page (R169). -/
def State.sweepDamaged (s : State) (n : Nat) : State :=
  let r := regionOfPage n
  let s := s.setRegion r { s.cst.regions.get r with status := .invalid }
  let s := (s.updCst fun c => { c with sweep := .damaged n }).report .cst .storeDamaged .event
  s.endOp (.stoSweep (.damaged n))

/-- A sweep goes on after page `n` (R167, R169), also where the supply has left NORMAL and the store has not taken the news
(log 24). -/
def State.sweepOn (s : State) (n : Nat) : State :=
  if 35 ≤ n then (s.updCst fun c => { c with sweep := .clean }).endOp (.stoSweep .clean)
  else if s.cst.op.suspendPending && !s.supplyNormal then
    s.updOp fun o => { o with page := n + 1, running := false, suspendPending := false, resume := none }
  else s.updOp fun o => { o with page := n + 1, suspendPending := false }

/-- SWEEP_PAGE_CHECK: the check of the current page ends `dt` after the step before (R169). -/
def execSweepPageCheck (dt : Nat) (s : State) : Outcome :=
  match s.cst.op.kind, s.cst.op.running with
  | .sweep, true =>
    let s := s.pass dt
    let n := s.cst.op.page
    .next (if (s.page n).damaged then s.sweepDamaged n else s.sweepOn n)
  | _, _ => .next s

/-- Accepts a change of supply state for the store. -/
def wantCstSupply : Handover → Option SupplyState
  | .cstSupply st => some st
  | _ => none

/-- The store takes a change of supply state (R167). -/
def State.cstTakesSupply (s : State) (st : SupplyState) : State :=
  let o := s.cst.op
  if o.kind = .none then s
  else if o.running then (if st = .normal then s else s.updOp fun o => { o with suspendPending := true })
  else s.updOp fun o => { o with resume := if st = .normal then some (s.now + ms 100) else none }

/-- CST_SUPPLY_CHANGE (R167). -/
def execCstSupplyChange (s : State) : Outcome := .next (s.taking wantCstSupply fun st s => s.cstTakesSupply st)

/-- A suspended operation enters RUNNING at its current page (R167). The resume timer runs until the store takes the news
that the supply left NORMAL (log 24). -/
def State.resumeOp (s : State) : State :=
  let s := s.updOp fun o => { o with running := true, suspendPending := false, resume := none }
  match s.cst.op.kind with
  | .save r _ _ => s.beginErase r s.cst.op.page
  | _ => s

/-- RESUME_TIMER_EXPIRY (R167). -/
def execResumeTimerExpiry (s : State) : Outcome :=
  match s.cst.op.resume with
  | some t => .next (s.reachTime t).resumeOp
  | none => .next s

/-! ### Cutting off a page (R168; log 9) -/

/-- The bytes a damaged page is left with: those of the free value, changed in the last byte where they would pass for an
erased or a good page. -/
def damagedBytes (free : List Byte) : List Byte :=
  let raw := (free ++ List.replicate 128 0#8).take 128
  let other (b : Byte) : List Byte := raw.take 127 ++ [raw.getD 127 0#8 ^^^ b]
  ([raw, other 1#8].find? fun l => Page.damaged ⟨l, none⟩).getD (other 2#8)

/-- Every page of a region is erased once page `n` is. -/
def State.blankBut (s : State) (r : Region) (n : Nat) : Bool := ((s.setPage n .erased).regionPages r).all Page.isErased

/-- The page of a region in progress is cut off: left erased, or damaged (R168). It is left damaged where erased it would
leave the whole region erased, since a region whose first page had been erased is INVALID afterwards (R18, R162, R168;
log 9). -/
def State.cutOffPage (s : State) (r : Region) (n : Nat) : State :=
  let left : Page :=
    if Config.cutOffErased s.freeCount && !s.blankBut r n then .erased
    else ⟨damagedBytes (Config.cutOffBytes s.freeCount), none⟩
  { s.setPage n left with freeCount := s.freeCount + 1 }

/-- A save in progress is cut off: a page in progress with it (R168). -/
def State.cutOffSave (s : State) : State :=
  match s.cst.op.kind, s.cst.op.running with
  | .save r _ _, true => s.cutOffPage r s.cst.op.page
  | _, _ => s

/-- What a reset of any kind does to the store: a save is cut off; the operation record and the results take their reset
values; region records and identity wait for the load (R164, R168; log 7). -/
def State.resetStore (s : State) : State :=
  s.cutOffSave.updCst fun c => { c with
    regions := .all ⟨.blank, 0⟩, op := .idle, sweep := .none, lastSave := none, identStatus := .blank, identity := none }

/-! ### Requests (R163, R165, R168 to R171) -/

/-- The single field of a request that names a region. -/
def oneRegion (fields : List Field) : Option Region :=
  match fields with
  | [f] => region? f
  | _ => none

/-- A save starts (R165). -/
def State.startSave (s : State) (r : Region) (image : TableImage) : State :=
  let running := s.supplyNormal
  let op : StoreOp := ⟨.save r ((s.cst.regions.get r).gen + 1) image, running, false, regionFirst r, none⟩
  let s := s.updOp fun _ => op
  if running then s.beginErase r (regionFirst r) else s

/-- SAVE performed (R165). -/
def State.doSave (s : State) (fields : List Field) : State :=
  match oneRegion fields with
  | none => s.answer .SAVE .format
  | some r =>
    match s.tbm.image r, s.cst.locks.get r || (guardSubject r && s.cst.guardOn), s.cst.op.kind with
    | none, _, _ => s.answer .SAVE .protect
    | _, true, _ => s.answer .SAVE .protect
    | _, _, .save _ _ _ => s.answer .SAVE .busy
    | some image, _, .sweep => (s.abandonSweep.startSave r image).answer .SAVE .accepted
    | some image, _, .none => (s.startSave r image).answer .SAVE .accepted

/-- SAVE, with the level of GUARD (R165). -/
def execSave (guardOn : Bool) (fields : List Field) (s : State) : Outcome :=
  .next (s.request .SAVE fields fun s => (s.seeGuard guardOn).doSave fields)

/-- SWEP performed (R169). -/
def State.doSwep (s : State) (fields : List Field) : State :=
  if fields ≠ [] then s.answer .SWEP .format
  else if s.cst.op.kind ≠ .none then s.answer .SWEP .busy
  else
    (s.updCst fun c => { c with op := ⟨.sweep, s.supplyNormal, false, 0, none⟩, sweep := .none }).answer .SWEP .accepted

/-- SWEP (R169). -/
def execSwep (fields : List Field) (s : State) : Outcome := .next (s.request .SWEP fields fun s => s.doSwep fields)

/-- ABRT performed (R168). -/
def State.doAbrt (s : State) (fields : List Field) : State :=
  if fields ≠ [] then s.answer .ABRT .format
  else
    match s.cst.op.kind with
    | .none => s.answer .ABRT .ok [.word .NONE]
    | .sweep => s.abandonSweep.answer .ABRT .ok [.word .SWEEP]
    | .save r gen _ => (s.cutOffSave.endSave r gen false).answer .ABRT .ok [.word .SAVE]

/-- ABRT (R168). -/
def execAbrt (fields : List Field) (s : State) : Outcome := .next (s.request .ABRT fields fun s => s.doAbrt fields)

/-- Whether an operation keeps PAGE from a page (R170). -/
def StoreOp.hides (o : StoreOp) (n : Nat) : Bool :=
  match o.kind with
  | .none => false
  | .sweep => o.running
  | .save _ _ _ => o.running || o.page == n

/-- The verdict on a page (R170). -/
def Page.verdict (p : Page) : Token := if p.passes then .GOOD else if p.isErased then .ERASED else .DAMAGED

/-- PAGE performed (R170). -/
def State.doPage (s : State) (fields : List Field) : State :=
  match fields with
  | [.num v] =>
    match within? 0 35 (.num v) with
    | none => s.answer .PAGE .range
    | some n =>
      if s.cst.op.hides n then s.answer .PAGE .busy
      else s.answer .PAGE .ok [nat n, .word (s.page n).verdict, .hex (s.page n).bytes]
  | _ => s.answer .PAGE .format

/-- PAGE (R170). -/
def execPage (fields : List Field) (s : State) : Outcome := .next (s.request .PAGE fields fun s => s.doPage fields)

/-- The words of an operation record's state, then whether a suspension is pending, then the current page (R171). R171
has a pending suspension shown and gives no word: PENDING, and "-" in its place where none is pending, are the model's
DESIGN CHOICE (log 18). -/
def StoreOp.stateFields (o : StoreOp) : List Field :=
  [.word (if o.running then .RUNNING else .SUSPENDED), if o.suspendPending then .word .PENDING else .absent, nat o.page]

/-- The line of the operation record: with kind NONE that word alone (R171; log 18). -/
def StoreOp.fields (o : StoreOp) : List Field :=
  match o.kind with
  | .none => [.word .NONE]
  | .sweep => .word .SWEEP :: o.stateFields
  | .save r gen _ => .word .SAVE :: .word (regionWord r) :: .num gen.toNat :: o.stateFields

/-- The line of a region (R171). R171 gives no words for the lock mark: SET and CLEAR are the model's DESIGN CHOICE (log
18). -/
def Cst.regionLine (c : Cst) (r : Region) : List Field :=
  [.word (regionStatusWord (c.regions.get r).status), .num (c.regions.get r).gen.toNat, setClear (c.locks.get r)]

/-- The line of the last save result (R171). -/
def lastSaveFields : Option SaveResult → List Field
  | none => [.word .NONE]
  | some x => [.word (regionWord x.region), saveOutcome x.complete, .num x.gen.toNat]

/-- The twelve lines of STST (R171). -/
def Cst.lines (c : Cst) : List (List Field) :=
  c.op.fields :: allRegions.map c.regionLine ++ [sweepFields c.sweep, lastSaveFields c.lastSave,
    [.word (if c.guardOn then .ASSERTED else .RELEASED)]]

/-- STST performed (R171). -/
def State.doStst (s : State) (fields : List Field) : State :=
  if fields ≠ [] then s.answer .STST .format else s.answerRun .STST s.cst.lines

/-- STST, with the level of GUARD (R171). -/
def execStst (guardOn : Bool) (fields : List Field) (s : State) : Outcome :=
  .next (s.request .STST fields fun s => (s.seeGuard guardOn).doStst fields)

/-- LOCK performed, the arm record already read (R163). -/
def State.doLock (s : State) (fields : List Field) (armed : Bool) : State :=
  match oneRegion fields with
  | none => s.answer .LOCK .format
  | some r =>
    if !armed then s.answer .LOCK .notArmed
    else if s.cst.locks.get r then s.answer .LOCK .ok
    else if s.saving r then s.answer .LOCK .busy
    else (s.updCst fun c => { c with locks := c.locks.set r true }).answer .LOCK .ok

/-- LOCK (R163). -/
def execLock (fields : List Field) (s : State) : Outcome :=
  .next (s.request .LOCK fields fun s => s.disarm.doLock fields (s.armed .lock))

end Sys2Proof.Machine
end

