-- ==== Sys2Proof/Machine/Port.lean ====
section
/-! DEFINITION. The Command Line Port: assembling lines, the receive buffer, taking a line, sending, notices, arming, and
STAT, ARMS, NMSK, IDNT (R177 to R185; log 18, 20, 50). -/

namespace Sys2Proof.Machine

/-! ### Receiving (R179) -/

/-- The characters so far are discarded and LINE_ERROR is set: the gap in a line (R179). -/
def Clp.dropLine (c : Clp) : Clp := { c with rx := none, lineError := true }

/-- A line under assembly in which more than 5 ms have passed since its last character, at time `t` (R179). A line begun
in INIT is discarded at its CR LF whatever its gaps (log 20). -/
def Assembly.gapped (a : Assembly) (t : Time) : Bool := !a.fromInit && decide (a.last + ms 5 < t)

/-- The gap rule at time `t`, before the next character is seen. -/
def Clp.seeGap (c : Clp) (t : Time) : Clp :=
  match c.rx with
  | some a => if a.gapped t then c.dropLine else c
  | none => c

/-- LINE_GAP_TIMEOUT: more than 5 ms have passed since the last character (R179), whatever comes next, a character or the CR
LF (log 20). -/
def execLineGapTimeout (s : State) : Outcome :=
  match s.clp.rx with
  | some a => if a.fromInit then .next s else .next ((s.reachTime (a.last + ms 5 + 1)).updClp Clp.dropLine)
  | none => .next s

/-- A printable character (R178). -/
def printable (c : Byte) : Bool := decide (0x20#8 ≤ c) && decide (c ≤ 0x7E#8)

/-- A line under assembly takes a character at time `t` (R179): the 321st makes it a long entry. -/
def Assembly.take (a : Assembly) (t : Time) (c : Byte) : Assembly :=
  if a.codes.length < 320 then { a with codes := a.codes ++ [c], bad := a.bad || !printable c, last := t }
  else { a with long := true, last := t }

/-- A character arrives at time `t`, the part in INIT or not. -/
def Clp.takeChar (c : Clp) (init : Bool) (t : Time) (x : Byte) : Clp :=
  let c := c.seeGap t
  { c with rx := some ((c.rx.getD ⟨[], false, false, init, t⟩).take t x) }

/-- CHARACTER_RECEIVED: a character other than the closing CR LF (R179). -/
def execCharacterReceived (dt : Nat) (c : Byte) (s : State) : Outcome :=
  let s := s.pass dt
  if s.smc.inReset then .next s else .next (s.updClp fun p => p.takeChar (s.smc.mode == .init) s.now c)

/-- A completed line goes into the receive buffer; with both places held it is discarded with OVERLAP (R179). -/
def Clp.place (c : Clp) (l : RxLine) : Clp :=
  if c.buffer.length < 2 then { c with buffer := c.buffer ++ [l] } else { c with overlap := true }

/-- CR LF arrives at time `t` (R179). With no character since the line before, nothing completes (log 20). More than 5 ms
between the last character and the CR LF counts as a gap in the line, which is dropped with LINE_ERROR: R179 speaks of two
characters of the line, R178 does not count the CR LF among them, and the model's reading is a DESIGN CHOICE (log 20). -/
def Clp.endLine (c : Clp) (t : Time) : Clp :=
  let c := c.seeGap t
  match c.rx with
  | none => c
  | some a =>
    let c := { c with rx := none }
    if a.fromInit then c else c.place ⟨a.codes, a.long, a.bad⟩

/-- LINE_COMPLETE: CR LF arrives (R179). -/
def execLineComplete (dt : Nat) (s : State) : Outcome :=
  let s := s.pass dt
  if s.smc.inReset then .next s else .next (s.updClp fun c => c.endLine s.now)

/-! ### Taking a line (R180, R181) -/

/-- The head of the buffer is taken and checked: answered from the checks table, or dispatched to its owner. -/
def Clp.takeLine (c : Clp) (l : RxLine) : Clp :=
  match checkLine l with
  | .refuse key st => Clp.answer { c with answering := true, lineError := true, arm := none } key st []
  | .request r =>
    { c with answering := true, request := some r, arm := if consumesArm r.key then c.arm else none }

/-- LINE_TAKEN (R180). -/
def execLineTaken (s : State) : Outcome :=
  match s.takesRequests && s.clp.free, s.clp.buffer with
  | true, l :: _ => .next (s.updClp fun c => c.takeLine l)
  | _, _ => .next s

/-! ### Sending (R182) -/

/-- The line on TXD ends: with the last line of a reply its place in the buffer is free; the next line begins. -/
def Clp.lineEnds (c : Clp) : Clp :=
  let c := { c with sending := none }
  Clp.pump (if c.answering && c.replies.isEmpty && c.request.isNone then
    { c with answering := false, buffer := c.buffer.tail } else c)

/-- LINE_SENT: the line on TXD ends `dt` after the step before (R182). -/
def execLineSent (dt : Nat) (s : State) : Outcome :=
  match s.clp.sending with
  | some _ => .next ((s.pass dt).updClp Clp.lineEnds)
  | none => .next s

/-! ### Notices (R183) -/

/-- Whether a kind of notice is ON; !RDY cannot be masked. -/
def Mask.on (m : Mask) : NoticeKind → Bool
  | .flt => m.flt
  | .syn => m.syn
  | .chs => m.chs
  | .lft => m.lft
  | .trc => m.trc
  | .sto => m.sto
  | .mod => m.mod
  | .rdy => true

/-- A notice handed in: discarded, queued, or dropped (R183). An idle transmitter begins it (R182). -/
def Clp.takeNotice (c : Clp) (n : Notice) : Clp :=
  if !c.mask.on (noticeKind n) then c
  else if c.queue.length < 8 then Clp.pump { c with queue := c.queue ++ [n] }
  else { c with dropped := true }

/-- Accepts a notice of a block. -/
def wantNotice (src : Block) : Handover → Option Notice
  | .notice b n => if b = src then some n else none
  | _ => none

/-- NOTICE_HANDED_IN (R183). -/
def execNoticeHandedIn (src : Block) (s : State) : Outcome :=
  .next (s.taking (wantNotice src) fun n s => s.updClp fun c => c.takeNotice n)

/-! ### Arming (R181) -/

/-- A request that reads the arm record has been taken and not yet performed. -/
def Clp.armTaken (c : Clp) : Bool :=
  match c.request with
  | some r => consumesArm r.key
  | none => false

/-- ARM_LAPSE (R181). A consuming request that LINE_TAKEN took before it finds its operation named (log 50). -/
def execArmLapse (s : State) : Outcome :=
  match s.clp.arm with
  | some (_, t) => if s.clp.armTaken then .next s else .next (s.reachTime t).disarm
  | none => .next s

/-- The operation that the fields of an ARMS name. -/
def armOp? : List Field → Option ArmOp
  | [.word .RESET] => some .reset
  | [.word .LOCK] => some .lock
  | [.word .CLRL] => some .clrl
  | _ => none

/-- ARMS performed, the record already emptied (R181). Its 50 ms run from this step, that of its own row, and not from
LINE_TAKEN (log 50). -/
def State.doArms (s : State) (fields : List Field) : State :=
  match armOp? fields with
  | some op => (s.updClp fun c => { c with arm := some (op, s.now + ms 50) }).answer .ARMS .ok
  | none => s.answer .ARMS .format

/-- ARMS (R181). -/
def execArms (fields : List Field) (s : State) : Outcome := .next (s.request .ARMS fields fun s => s.doArms fields)

/-! ### NMSK (R183) -/

/-- The names NMSK knows. -/
def noticeName? : Field → Option NoticeKind
  | .word .FLT => some .flt
  | .word .SYN => some .syn
  | .word .CHS => some .chs
  | .word .LFT => some .lft
  | .word .TRC => some .trc
  | .word .STO => some .sto
  | .word .MOD => some .mod
  | .word .RDY => some .rdy
  | _ => none

/-- ON or OFF. -/
def onOff? : Field → Option Bool
  | .word .ON => some true
  | .word .OFF => some false
  | _ => none

/-- The pairs of an NMSK as far as their syntax goes, RDY among the names. -/
def maskPairs? : List Field → Option (List (NoticeKind × Bool))
  | [] => some []
  | [_] => none
  | n :: b :: rest => do
    let n ← noticeName? n
    let b ← onOff? b
    let rest ← maskPairs? rest
    if rest.any fun p => p.1 == n then none else some ((n, b) :: rest)

/-- Sets one kind of the mask. -/
def Mask.set (m : Mask) (p : NoticeKind × Bool) : Mask :=
  match p.1 with
  | .flt => { m with flt := p.2 }
  | .syn => { m with syn := p.2 }
  | .chs => { m with chs := p.2 }
  | .lft => { m with lft := p.2 }
  | .trc => { m with trc := p.2 }
  | .sto => { m with sto := p.2 }
  | .mod => { m with mod := p.2 }
  | .rdy => m

/-- The seven names, each followed by ON or OFF. -/
def Mask.fields (m : Mask) : List Field :=
  [.word .FLT, onOff m.flt, .word .SYN, onOff m.syn, .word .CHS, onOff m.chs, .word .LFT, onOff m.lft,
    .word .TRC, onOff m.trc, .word .STO, onOff m.sto, .word .MOD, onOff m.mod]

/-- NMSK performed (R183). -/
def State.doNmsk (s : State) (fields : List Field) : State :=
  match maskPairs? fields with
  | none => s.answer .NMSK .format
  | some pairs =>
    if pairs.any fun p => p.1 == .rdy then s.answer .NMSK .range
    else
      let mask := pairs.foldl Mask.set s.clp.mask
      (s.updClp fun c => { c with mask := mask }).answer .NMSK .ok mask.fields

/-- NMSK (R183). -/
def execNmsk (fields : List Field) (s : State) : Outcome := .next (s.request .NMSK fields fun s => s.doNmsk fields)

/-! ### Status and identity (R184, R185) -/

/-- The last-refusal record (R180). An empty one is two fields "-", the model's choice (R184; log 18). -/
def refusalFields : Option (LineKey × Status) → List Field
  | some (key, st) => [.other (keyCodes key), .word st.token]
  | none => [.absent, .absent]

/-- The line of a channel (R184). -/
def State.chanLine (s : State) (ch : Chan) : List Field :=
  let r := s.phc.chans.get ch
  [.word (chanStateWord r.state), nat r.presented, .num (s.ceu.chans.get ch).phase, setClear (s.ceu.chans.get ch).valid,
    nat r.duty, .word (sourceWord (s.tga.chans.get ch).source)]

/-- The ten lines of STAT (R184). -/
def State.statLines (s : State) : List (List Field) :=
  [[.word (modeWord s.smc.mode), .word (resetWord s.smc.cause), .word (crankWord s.ckt.state), nat s.ckt.rpm,
      word32 s.ckt.cycles],
    [.word (supplyWord s.smc.supplyState), nat s.smc.supply, level s.fmg.flt, .word (originWord s.tbm.layoutOrigin),
      .word (originWord s.tbm.tuningOrigin), .word (originWord s.tbm.responseOrigin)]] ++
  allChans.map s.chanLine ++ (allUnits.map fun u => [.word (liftStateWord (s.lfs.units.get u).state)]) ++
  [[setClear s.clp.overlap, setClear s.clp.dropped, setClear s.clp.lineError] ++ refusalFields s.clp.lastRefusal,
    match s.tbm.validation with
    | some f => failureFields f
    | none => [.absent]]

/-- The three line flags cleared. -/
def Clp.clearFlags (c : Clp) : Clp := { c with overlap := false, dropped := false, lineError := false }

/-- STAT performed: its values are copied and the flags cleared in this step, that of its own row (R184; log 50). -/
def State.doStat (s : State) (fields : List Field) : State :=
  if fields ≠ [] then s.answer .STAT .format else (s.updClp Clp.clearFlags).answerRun .STAT s.statLines

/-- STAT (R184). -/
def execStat (fields : List Field) (s : State) : Outcome := .next (s.request .STAT fields fun s => s.doStat fields)

/-- The identity fields (R185). -/
def identityFields : Option Identity → List Field
  | some i => [i.part, i.issue, i.serial, i.date]
  | none => List.replicate 4 .absent

/-- IDNT performed (R185). -/
def State.doIdnt (s : State) (fields : List Field) : State :=
  if fields ≠ [] then s.answer .IDNT .format
  else s.answer .IDNT .ok (.word (regionStatusWord s.cst.identStatus) :: identityFields s.cst.identity)

/-- IDNT (R185). -/
def execIdnt (fields : List Field) (s : State) : Outcome := .next (s.request .IDNT fields fun s => s.doIdnt fields)

end Sys2Proof.Machine
end

