-- ==== Sys2Proof/Machine/Trace.lean ====
section
/-! DEFINITION. The Trace Buffer: the trigger queue, opening, filling and closing of trace slots, and TRCT, TRCR, TRCF
(R153 to R160; log 18, 35, 56, 57, 60). -/

namespace Sys2Proof.Machine

/-! ### The trigger queue (R153) -/

/-- Changes the Trace Buffer's record. -/
def State.updTrb (s : State) (f : Trb → Trb) : State := { s with trb := f s.trb }

/-- A push: the cause goes to the tail; onto a queue of 4 it is dropped, and the loss reported unless the cause is
TRACE_MISSED itself (R153). -/
def State.push (s : State) (c : TraceCause) : State :=
  if s.trb.queue.length < 4 then s.updTrb fun t => { t with queue := t.queue ++ [c] }
  else if c = .fault .traceMissed then s
  else s.report .trb .traceMissed .event

/-- Accepts a push of the Fault Manager. -/
def wantPush : Handover → Option TraceCause
  | .trbPush c => some c
  | _ => none

/-- TRIGGER_PUSH (R153). -/
def execTriggerPush (s : State) : Outcome := .next (s.taking wantPush fun c s => s.push c)

/-! ### Slots (R154 to R157) -/

/-- The slot of an index from 0. -/
def Trb.slot (t : Trb) (i : Nat) : TraceSlot := t.slots.getD i .reset

/-- Replaces the slot of an index from 0. -/
def State.setSlot (s : State) (i : Nat) (x : TraceSlot) : State := s.updTrb fun t => { t with slots := t.slots.set i x }

/-- The index from 0 of the lowest-numbered slot in a state. -/
def Trb.first (t : Trb) (st : SlotState) : Option Nat := t.slots.findIdx? fun x => x.state == st

/-- The summary of a channel, from its owners as they stand (R155). -/
def State.chanSummary (s : State) (ch : Chan) : ChanSummary :=
  let r := s.phc.chans.get ch
  ⟨r.state, r.presented, (s.ceu.chans.get ch).phase, r.duty⟩

/-- The summaries of all channels. -/
def State.chanSummaries (s : State) : PerChan ChanSummary :=
  ⟨s.chanSummary .IN1, s.chanSummary .EX1, s.chanSummary .IN2, s.chanSummary .EX2⟩

/-- The summaries of both units (R155). -/
def State.unitSummaries (s : State) : PerUnit LiftState := ⟨s.lfs.units.l1.state, s.lfs.units.l2.state⟩

/-- A FILLING slot as it enters READY (R155, R157). -/
def State.closed (s : State) (x : TraceSlot) (lost : Bool) : TraceSlot :=
  { x with
    state := .ready
    incomplete := x.incomplete || lost
    chanSummary := some s.chanSummaries
    unitSummary := some s.unitSummaries }

/-- !TRC of slot number `n` (R155). -/
def trcNotice (n : Nat) (x : TraceSlot) : Notice :=
  .trc n x.cause x.startCycle x.edges.length x.truncated x.incomplete

/-- Step 1 of R155: the FILLING slot, if there is one, is closed and !TRC handed in; `lost` is loss of lock (R157). -/
def State.closeSlot (s : State) (lost : Bool) : State :=
  match s.trb.first .filling with
  | some i =>
    let x := s.closed (s.trb.slot i) lost
    (s.setSlot i x).notice .trb (trcNotice (i + 1) x)
  | none => s

/-- A slot opened for a cause at a CYCLE_START that carries `cycle` (R155). -/
def openedSlot (c : TraceCause) (cycle : Word32) (rpm : Nat) : TraceSlot :=
  { TraceSlot.reset with state := .filling, cause := some c, startCycle := some cycle, startRpm := some rpm }

/-- Step 2 of R155: the oldest cause opens the lowest-numbered FREE slot, or is lost and TRACE_MISSED reported. R155 has the
push that the report brings, where capture is YES, always find space; the report, FAULT_EVENT and TRIGGER_PUSH are steps of
their own, so another push can take that space between them, and the push is then dropped by R153: the model's DESIGN CHOICE
(log 60). -/
def State.openSlot (s : State) (cycle : Word32) : State :=
  match s.trb.queue with
  | [] => s
  | c :: rest =>
    let s := s.updTrb fun t => { t with queue := rest }
    match s.trb.first .free with
    | some i => s.setSlot i (openedSlot c cycle s.ckt.rpm)
    | none => s.report .trb .traceMissed .event

/-- Accepts a CYCLE_START for the Trace Buffer. -/
def wantTrbCycle : Handover → Option Word32
  | .trbCycleStart _ cycle => some cycle
  | _ => none

/-- TRB_CYCLE_START (R155). The CYCLE_START of a lock that has ended can come before lock lost is taken, and it opens a slot
like any other, for a cause too that was pushed with the engine stopped or in STANDBY: R153 has such a cause wait for a
later lock, R155 goes by the order of taking, and following R155 is the model's DESIGN CHOICE (log 56). -/
def execTrbCycleStart (s : State) : Outcome :=
  .next (s.taking wantTrbCycle fun cycle s => (s.closeSlot false).openSlot cycle)

/-- A FILLING slot with one edge record more (R156). -/
def TraceSlot.offer (x : TraceSlot) (r : EdgeRecord) : TraceSlot :=
  let x := { x with offered := bump 255 x.offered }
  if x.edges.length < 40 then { x with edges := x.edges ++ [r] } else { x with truncated := true }

/-- An edge record is offered to the FILLING slot, or let go (R156). One of a lost lock that is taken with the slot of a new
lock FILLING goes into that slot: the model's DESIGN CHOICE (log 57). -/
def State.offerEdge (s : State) (r : EdgeRecord) : State :=
  match s.trb.first .filling with
  | some i => s.setSlot i ((s.trb.slot i).offer r)
  | none => s

/-- Accepts an edge record. -/
def wantEdge : Handover → Option EdgeRecord
  | .trbEdge r => some r
  | _ => none

/-- TRB_EDGE_RECORD (R156). -/
def execTrbEdgeRecord (s : State) : Outcome := .next (s.taking wantEdge fun r s => s.offerEdge r)

/-- Accepts a lock-lost notification of the Trace Buffer. -/
def wantTrbLockLost : Handover → Option Unit
  | .trbLockLost => some ()
  | _ => none

/-- The edge records handed and not yet taken go into the FILLING slot, in the order of their handing (R156, R157). With no
slot FILLING they stay on their way, and so does one that is handed later; what is FILLING when its own row comes decides
where it goes, which is the model's DESIGN CHOICE where that is the slot of a new lock (log 57). -/
def State.offerHanded (s : State) : State :=
  match s.trb.first .filling with
  | some i =>
    let x := (s.handovers.filterMap wantEdge).foldl TraceSlot.offer (s.trb.slot i)
    ({ s with handovers := s.handovers.filter fun h => (wantEdge h).isNone } : State).setSlot i x
  | none => s

/-- TRB_LOCK_LOST (R157). An edge record handed before the notification is taken goes into the slot before it closes. A
CYCLE_START of the lost lock that is still on its way opens no slot: the next slot opens at the first CYCLE_START after a
new lock (log 35). -/
def execTrbLockLost (s : State) : Outcome :=
  .next (s.takingOver wantTrbLockLost (fun h => (wantTrbCycle h).isSome) fun _ s => s.offerHanded.closeSlot true)

/-! ### Requests (R158 to R160) -/

/-- `n` REQUEST causes pushed one after another (R158). -/
def State.pushRequests (s : State) : Nat → State
  | 0 => s
  | n + 1 => (s.push .request).pushRequests n

/-- TRCT performed (R158). -/
def State.doTrct (s : State) (fields : List Field) : State :=
  match fields with
  | [.num v] =>
    match within? 1 4 (.num v) with
    | none => s.answer .TRCT .range
    | some n =>
      if !s.inRun then s.answer .TRCT .mode
      else
        let queued := min n (4 - s.trb.queue.length)
        (s.pushRequests n).answer .TRCT .ok [nat queued, nat (n - queued)]
  | _ => s.answer .TRCT .format

/-- TRCT (R158). -/
def execTrct (fields : List Field) (s : State) : Outcome := .next (s.request .TRCT fields fun s => s.doTrct fields)

/-- The one line that TRCR without a field is answered with (R159). -/
def Trb.overview (t : Trb) : List Field :=
  (t.slots.flatMap fun x => .word (slotWord x.state) :: causeFields x.cause) ++
    (t.queue.flatMap fun c => causeFields (some c)) ++ [nat t.queue.length]

/-- The line of an edge record (R159). -/
def edgeRecordFields (r : EdgeRecord) : List Field :=
  [.word (abcdWord r.input), .word (polWord r.pol), nat r.angle] ++
    match r.outcome with
    | some (k, phase) => [nat k, .num phase]
    | none => [.word .STRAY, .absent]

/-- The line of a channel summary (R159). -/
def chanSummaryFields (x : ChanSummary) : List Field :=
  [.word (chanStateWord x.state), nat x.presented, .num x.phase, nat x.duty]

/-- The header line of slot number `n` (R159). The two flags are YES or NO, the model's choice (log 18). -/
def TraceSlot.header (x : TraceSlot) (n : Nat) : List Field :=
  nat n :: causeFields x.cause ++ [optField word32 x.startCycle, optField nat x.startRpm, nat x.edges.length, nat x.offered,
    yesNo x.truncated, yesNo x.incomplete]

/-- The run of lines of a READY slot number `n` (R159). -/
def TraceSlot.lines (x : TraceSlot) (n : Nat) : List (List Field) :=
  x.header n :: x.edges.map edgeRecordFields ++
    (match x.chanSummary with
      | some c => c.toList.map chanSummaryFields
      | none => []) ++
    match x.unitSummary with
    | some u => u.toList.map fun st => [.word (liftStateWord st)]
    | none => []

/-- TRCR performed (R159). -/
def State.doTrcr (s : State) (fields : List Field) : State :=
  match fields with
  | [] => s.answer .TRCR .ok s.trb.overview
  | [.num v] =>
    match within? 1 4 (.num v) with
    | none => s.answer .TRCR .range
    | some n =>
      let x := s.trb.slot (n - 1)
      if x.state = .ready then s.answerRun .TRCR (x.lines n) else s.answer .TRCR .empty
  | _ => s.answer .TRCR .format

/-- TRCR (R159). -/
def execTrcr (fields : List Field) (s : State) : Outcome := .next (s.request .TRCR fields fun s => s.doTrcr fields)

/-- TRCF performed (R160). -/
def State.doTrcf (s : State) (fields : List Field) : State :=
  match fields with
  | [.num v] =>
    match within? 1 4 (.num v) with
    | none => s.answer .TRCF .range
    | some n =>
      if (s.trb.slot (n - 1)).state = .free then s.answer .TRCF .empty
      else (s.setSlot (n - 1) .reset).answer .TRCF .ok
  | _ => s.answer .TRCF .format

/-- TRCF (R160). -/
def execTrcf (fields : List Field) (s : State) : Outcome := .next (s.request .TRCF fields fun s => s.doTrcf fields)

end Sys2Proof.Machine
end

