-- ==== Sys2Proof/Machine/Valve.lean ====
section
/-! DEFINITION. The Valve Drivers: enable and disable, pulse-width drive, solenoid drive, short circuits, the judgement
of on periods for open load, RUN entry and leaving RUN (R110 to R121; log 14). -/

namespace Sys2Proof.Machine

/-! ### The judgement for open load (R118, R119) -/

/-- What the judgement of one on period makes of an output's open tally and open reported, and what is reported. -/
structure Judgement where
  tally : Nat
  reported : Bool
  report : Option ReportKind
deriving DecidableEq, Repr

/-- The judgement of an on period of `len` units, not ended by overcurrent (R118, R119). -/
def judge (len : Nat) (belowDrive current : Bool) (tally : Nat) (reported : Bool) : Judgement :=
  if len < micros 200 || belowDrive then ⟨tally, reported, none⟩
  else if current then ⟨0, false, if reported then some .gone else none⟩
  else
    let t := bump 3 tally
    if t = 3 then ⟨t, true, some .present⟩ else ⟨t, reported, none⟩

/-- Sends the report of a judgement, if there is one. -/
def State.reportOpen (s : State) (out : Out) (r : Option ReportKind) : State :=
  match r with
  | some k => s.report .vdr (.driverOpen out) k
  | none => s

/-- The supply state is BELOW_DRIVE. -/
def State.belowDrive (s : State) : Bool := s.smc.supplyState == .belowDrive

/-- An on period of an OCV output ends after `len` units and is judged. -/
def State.judgeOcv (s : State) (o : LineABCD) (len : Nat) (current : Bool) : State :=
  let r := s.vdr.ocv.get o
  let j := judge len s.belowDrive current r.openTally r.openReported
  (s.setOcv o { r with openTally := j.tally, openReported := j.reported }).reportOpen (.ocv o) j.report

/-- An on period of an LS output ends after `len` units and is judged. -/
def State.judgeLs (s : State) (o : LineAB) (len : Nat) (current : Bool) : State :=
  let r := s.vdr.ls.get o
  let j := judge len s.belowDrive current r.openTally r.openReported
  (s.setLs o { r with openTally := j.tally, openReported := j.reported }).reportOpen (.ls o) j.report

/-- How long ago a captured time was, where it is present. -/
def State.age (s : State) (t : Option Word32) : Nat :=
  match t with
  | some t => (s.timeBase - t).toNat
  | none => 0

/-- The line of an OCV output goes OFF before its time; an on period in progress ends and is judged (R113, R118). -/
def State.cutOcv (s : State) (o : LineABCD) (current : Bool) : State :=
  let r := s.vdr.ocv.get o
  if r.lineOn then (s.setOcv o { r with lineOn := false }).judgeOcv o (s.age r.periodStart) current else s

/-- The line of an LS output goes OFF; an on period in progress ends and is judged, and on since becomes absent (R115,
R118; log 46). -/
def State.cutLs (s : State) (o : LineAB) (current : Bool) : State :=
  let r := s.vdr.ls.get o
  if r.lineOn then
    (s.setLs o { r with lineOn := false, onSince := none }).judgeLs o (s.age r.onSince) current
  else s

/-! ### Periods (R112) -/

/-- The high time of the active duty, in µs (R112). -/
def OcvRec.high (r : OcvRec) : Nat := r.active * r.period / 1000

/-- A period begins at time `t` with the active duty as it stands: the line goes ON where there is a high time and the
output is not tripped (R112, R116). -/
def OcvRec.begin_ (r : OcvRec) (t : Word32) : OcvRec :=
  { r with periodStart := some t, lineOn := decide (0 < r.high) && !r.tripped }

/-- The next period begins: the pending duty is taken (R112). -/
def State.nextPeriod (s : State) (o : LineABCD) : State :=
  s.updOcv o fun r => OcvRec.begin_ { r with active := r.pending } s.timeBase

/-- Time passes until `d` units after a captured time. -/
def State.passTo (s : State) (t : Option Word32) (d : Nat) : State := s.pass (d - s.age t)

/-- An immediate write to an output is on its way. It takes effect at once: it ends the period in progress, so no further
period of the output starts before it (R85, R113; log 53). -/
def State.writeAtOnce (s : State) (o : LineABCD) : Bool :=
  s.handovers.any fun h =>
    match h with
    | .dutyWrite o' _ immediate => o' == o && immediate
    | _ => false

/-- OCV_PERIOD_START: the low time of the period in progress ends and the next begins (R112). -/
def execOcvPeriodStart (o : LineABCD) (s : State) : Outcome :=
  let r := s.vdr.ocv.get o
  if r.enabled && !r.lineOn && !s.writeAtOnce o then
    .next ((s.passTo r.periodStart (micros r.period)).nextPeriod o)
  else .next s

/-- ON_PERIOD_END: the high time ends and the on period is judged; at duty 1,000 that is the period's end, and the next
period begins (R112, R118). -/
def execOnPeriodEnd (o : LineABCD) (current : Bool) (s : State) : Outcome :=
  let r := s.vdr.ocv.get o
  if !r.lineOn then .next s
  else if r.active < 1000 then
    let s := s.passTo r.periodStart (micros r.high)
    .next ((s.setOcv o { r with lineOn := false }).judgeOcv o (micros r.high) current)
  else if s.writeAtOnce o then .next s
  else
    let s := s.passTo r.periodStart (micros r.period)
    .next (((s.setOcv o { r with lineOn := false }).judgeOcv o (micros r.period) current).nextPeriod o)

/-! ### Enable and disable (R111, R120) -/

/-- The conditions for ENABLED of an OCV output. -/
def State.ocvMayRun (s : State) (o : LineABCD) : Bool :=
  s.inRun &&
    match (s.vdr.ocv.get o).binding with
    | some ch =>
      match (s.phc.chans.get ch).state with
      | .faulted => false
      | .lockout => false
      | _ => true
    | none => false

/-- The conditions for ENABLED of an LS output. -/
def State.lsMayRun (s : State) (o : LineAB) : Bool :=
  s.inRun &&
    match (s.vdr.ls.get o).binding with
    | some u => (s.lfs.units.get u).state != .stuck
    | none => false

/-- An OCV output goes from ENABLED to DISABLED (R111, R120). A duty write on its way stays so, to be discarded: as it is
taken, or before the output is ENABLED again (log 53). -/
def State.disableOcv (s : State) (o : LineABCD) (current : Bool) : State :=
  let s := s.cutOcv o current
  let r := s.vdr.ocv.get o
  let s := s.setOcv o { r with
    enabled := false, lineOn := false, active := 0, pending := 0, periodStart := none, openTally := 0,
    openReported := false }
  if r.openReported then s.report .vdr (.driverOpen (.ocv o)) .gone else s

/-- An LS output goes from ENABLED to DISABLED (R111, R120). A request on its way stays so, as a duty write does (log
53). -/
def State.disableLs (s : State) (o : LineAB) (current : Bool) : State :=
  let s := s.cutLs o current
  let r := s.vdr.ls.get o
  let s := s.setLs o { r with enabled := false, lineOn := false, onSince := none, openTally := 0, openReported := false }
  if r.openReported then s.report .vdr (.driverOpen (.ls o)) .gone else s

/-- The enable of an OCV output is evaluated (R111). -/
def State.evalOcv (s : State) (o : LineABCD) (current : Bool) : State :=
  let r := s.vdr.ocv.get o
  match s.ocvMayRun o, r.enabled with
  | true, false => s.setOcv o (OcvRec.begin_ { r with enabled := true, active := 0, pending := 0 } s.timeBase)
  | false, true => s.disableOcv o current
  | _, _ => s

/-- The enable of an LS output is evaluated (R111). -/
def State.evalLs (s : State) (o : LineAB) (current : Bool) : State :=
  let r := s.vdr.ls.get o
  match s.lsMayRun o, r.enabled with
  | true, false => s.setLs o { r with enabled := true }
  | false, true => s.disableLs o current
  | _, _ => s

/-- The enable of an output is evaluated (R111). -/
def State.evalOut (s : State) (out : Out) (current : Bool) : State :=
  match out with
  | .ocv o => s.evalOcv o current
  | .ls o => s.evalLs o current

/-- Accepts the news of a state change of an output's channel or unit. -/
def wantEnable (out : Out) : Handover → Option Unit
  | .enableEvaluation o => if o = out then some () else none
  | _ => none

/-- A duty write or a solenoid request to an output. -/
def Handover.drives (out : Out) : Handover → Bool
  | .dutyWrite o _ _ => out == .ocv o
  | .solenoid o _ => out == .ls o
  | _ => false

/-- The enable of an output. -/
def State.outEnabled (s : State) : Out → Bool
  | .ocv o => (s.vdr.ocv.get o).enabled
  | .ls o => (s.vdr.ls.get o).enabled

/-- VDR_ENABLE_EVALUATION (R111; log 25). What was written to a DISABLED output or asked of it before the evaluation was
handed out is discarded ahead of it, so that an output comes out of DISABLED carrying 0 and first drives what its channel
or unit asks for afterwards (R111, R114, R117; log 53). -/
def execVdrEnableEvaluation (out : Out) (current : Bool) (s : State) : Outcome :=
  .next (s.takingOver (wantEnable out) (fun h => !s.outEnabled out && h.drives out) fun _ s => s.evalOut out current)

/-! ### Writes and solenoid requests (R113, R115) -/

/-- Accepts a duty written to an output, of the kind given. -/
def wantDuty (o : LineABCD) (immediate : Bool) : Handover → Option Nat
  | .dutyWrite o' d i => if o' = o ∧ i = immediate then some d else none
  | _ => none

/-- A normal write (R111, R113). -/
def State.normalWrite (s : State) (o : LineABCD) (d : Nat) : State :=
  s.updOcv o fun r => if r.enabled then { r with pending := d } else r

/-- NORMAL_WRITE (R113). -/
def execNormalWrite (o : LineABCD) (s : State) : Outcome :=
  .next (s.taking (wantDuty o false) fun d s => s.normalWrite o d)

/-- An immediate write: the period in progress ends at once and a new one begins with the new value (R111, R113). -/
def State.immediateWrite (s : State) (o : LineABCD) (d : Nat) (current : Bool) : State :=
  if (s.vdr.ocv.get o).enabled then
    (s.cutOcv o current).updOcv o fun r => OcvRec.begin_ { r with active := d, pending := d } s.timeBase
  else s

/-- IMMEDIATE_WRITE (R113). -/
def execImmediateWrite (o : LineABCD) (current : Bool) (s : State) : Outcome :=
  .next (s.taking (wantDuty o true) fun d s => s.immediateWrite o d current)

/-- Accepts an energize or a de-energize request to an output. -/
def wantSolenoid (o : LineAB) (on : Bool) : Handover → Option Unit
  | .solenoid o' b => if o' = o ∧ b = on then some () else none
  | _ => none

/-- An energize request (R111, R115). -/
def State.energizeLs (s : State) (o : LineAB) : State :=
  s.updLs o fun r =>
    if r.enabled && !r.tripped && !r.lineOn then { r with lineOn := true, onSince := some s.timeBase } else r

/-- ENERGIZE (R115). -/
def execEnergize (o : LineAB) (s : State) : Outcome := .next (s.taking (wantSolenoid o true) fun _ s => s.energizeLs o)

/-- DE_ENERGIZE (R115). -/
def execDeEnergize (o : LineAB) (current : Bool) (s : State) : Outcome :=
  .next (s.taking (wantSolenoid o false) fun _ s => s.cutLs o current)

/-- LS_ON_LIMIT: the line has been ON for 50 ms, and on since becomes absent with it (R115; log 46). -/
def execLsOnLimit (o : LineAB) (current : Bool) (s : State) : Outcome :=
  let r := s.vdr.ls.get o
  if r.lineOn then
    let s := s.passTo r.onSince (ms 50)
    .next ((s.setLs o { r with lineOn := false, onSince := none }).judgeLs o (ms 50) current)
  else .next s

/-! ### Short circuit (R116, R117) -/

/-- An output that is ON sees overcurrent; on since of an LS output becomes absent (R116; log 46). -/
def State.trip (s : State) (out : Out) : State :=
  match out with
  | .ocv o =>
    let r := s.vdr.ocv.get o
    if r.lineOn then
      (s.setOcv o { r with lineOn := false, tripped := true }).report .vdr (.driverShort out) .event
    else s
  | .ls o =>
    let r := s.vdr.ls.get o
    if r.lineOn then
      (s.setLs o { r with lineOn := false, onSince := none, tripped := true }).report .vdr (.driverShort out) .event
    else s

/-- OVERCURRENT (R116). -/
def execOvercurrent (dt : Nat) (out : Out) (s : State) : Outcome := .next ((s.pass dt).trip out)

/-- Accepts a driver clear of an output. -/
def wantVdrClear (out : Out) : Handover → Option Unit
  | .vdrDriverClear o => if o = out then some () else none
  | _ => none

/-- A driver clear clears tripped (R117). The line of an OCV output stays as it is until its next period (log 47). -/
def State.untrip (s : State) (out : Out) : State :=
  match out with
  | .ocv o => s.updOcv o fun r => { r with tripped := false }
  | .ls o => s.updLs o fun r => { r with tripped := false }

/-- VDR_DRIVER_CLEAR (R117). -/
def execVdrDriverClear (out : Out) (s : State) : Outcome := .next (s.taking (wantVdrClear out) fun _ s => s.untrip out)

/-! ### RUN entry and leaving RUN (R121) -/

/-- The channel of the layout in force that binds an output. -/
def State.ownerOcv (s : State) (o : LineABCD) : Option Chan := allChans.find? fun ch => s.chanDriver ch == some o

/-- The unit of the layout in force that binds an output. -/
def State.ownerLs (s : State) (o : LineAB) : Option LiftUnit := allUnits.find? fun u => s.unitDriver u == some o

/-- An OCV output at RUN entry (R121). -/
def State.vdrEnterOcv (s : State) (o : LineABCD) : State :=
  let s := s.updOcv o fun r => { r with
    binding := s.ownerOcv o, period := s.tbm.inForce.pwm.get o, active := 0, pending := 0, openTally := 0 }
  s.evalOcv o false

/-- An LS output at RUN entry (R121). -/
def State.vdrEnterLs (s : State) (o : LineAB) : State :=
  (s.updLs o fun r => { r with binding := s.ownerLs o, openTally := 0 }).evalLs o false

/-- What is on its way to the outputs at RUN entry was written to DISABLED outputs or asked of them, and is discarded
(R111, R121; log 53). -/
def State.dropDrives (s : State) : State :=
  { s with handovers := s.handovers.filter fun h => !allOuts.any fun out => h.drives out }

/-- The Valve Drivers at RUN entry (R121). -/
def State.vdrEnterRun (s : State) : State :=
  forEach allAB State.vdrEnterLs (forEach allABCD State.vdrEnterOcv s.dropDrives)

/-- What was seen of load current on an output. -/
def seenOn (l : LoadSeen) : Out → Bool
  | .ocv .A => l.ocvA
  | .ocv .B => l.ocvB
  | .ocv .C => l.ocvC
  | .ocv .D => l.ocvD
  | .ls .A => l.lsA
  | .ls .B => l.lsB

/-- The Valve Drivers when the part leaves RUN, its mode already STANDBY (R111, R121). -/
def State.vdrLeaveRun (s : State) (seen : LoadSeen) : State :=
  forEach allOuts (fun s out => s.evalOut out (seenOn seen out)) s

end Sys2Proof.Machine
end

