-- ==== Sys2Proof/Machine/Supply.lean ====
section
/-! DEFINITION. Supply and Mode Control: the supply states, the four resets, start-up, MODE and RSET (R172 to R176; log 3,
7, 16, 23, 29, 30, 33, 45). -/

namespace Sys2Proof.Machine

/-! ### Supply states (R172) -/

/-- The supply state that a supply gives at reset release: its tenths of a volt against the rising thresholds. -/
def supplyAt (v : Nat) : SupplyState := if 99 < v then .normal else if 84 < v then .belowProgram else .belowDrive

/-- The supply state after the supply moves to `v`. -/
def SupplyState.next (st : SupplyState) (v : Nat) : SupplyState :=
  if v < 80 then .belowDrive
  else
    match st with
    | .normal => if v < 95 then .belowProgram else .normal
    | .belowProgram => if 99 < v then .normal else .belowProgram
    | .belowDrive => if 99 < v then .normal else if 84 < v then .belowProgram else .belowDrive

/-- Changes the record of the Supply and Mode Control. -/
def State.updSmc (s : State) (f : Smc → Smc) : State := { s with smc := f s.smc }

/-- An entry to BELOW_DRIVE: SUPPLY_LOW present, the flag, the repeat (R172). -/
def State.supplyLow (s : State) : State :=
  (s.updSmc fun m => { m with supplyReported := true, repeatTimer := some (s.now + ms 100) }).report .smc .supplyLow .present

/-- BELOW_DRIVE is left (R172). -/
def State.supplyBack (s : State) : State :=
  let gone := s.smc.supplyReported
  let s := s.updSmc fun m => { m with supplyReported := false, repeatTimer := none }
  if gone then s.report .smc .supplyLow .gone else s

/-- A change of supply state is handed to the channels and to the store (R172). -/
def State.handSupply (s : State) (st : SupplyState) : State :=
  (forEach allChans (fun s ch => s.hand (.phcSupply ch st)) s).hand (.cstSupply st)

/-- The supply state becomes `new` (R172). -/
def State.changeSupply (s : State) (new : SupplyState) : State :=
  let old := s.smc.supplyState
  if new = old then s
  else
    let s := s.updSmc fun m => { m with supplyState := new }
    let s := if new = .belowDrive then s.supplyLow else if old = .belowDrive then s.supplyBack else s
    s.handSupply new

/-! ### Resets (R173) -/

/-- Every block's values after a reset of a kind; the supply, the reset cause and RSTN are set by the caller (R18, R19,
R41, R57, R58, R73, R98, R109, R110, R122, R149, R152 to R154, R164, R177). What was in flight is lost (log 29). -/
def State.resetBlocks (s : State) (cause : ResetCause) : State :=
  let s := s.resetStore
  State.evalFlt { s with
    handovers := []
    clp := .reset
    tbm := .reset
    ckt := .reset
    asc := ⟨[], []⟩
    ceu := .reset
    phc := .reset
    tga := .reset
    vdr := .reset
    lfs := .reset s.now
    fmg := s.fmg.afterReset cause
    trb := .reset }

/-- A reset of a kind begins and holds the part (R173). -/
def State.beginReset (s : State) (cause : ResetCause) : State :=
  (s.resetBlocks cause).updSmc fun m =>
    ⟨.init, supplyAt m.supply, m.supply, cause, true, m.rstnLow, false, none, false, none⟩

/-- POWER_ON: supply is applied to a part that had none (R173). -/
def execPowerOn (dt volts : Nat) (s : State) : Outcome :=
  .next (((s.pass dt).updSmc fun m => { m with supply := volts }).beginReset .powerOn)

/-- A POWER_ON or BROWNOUT reset holds the part. -/
def Smc.coldHeld (m : Smc) : Bool := m.inReset && m.cause.cold

/-- SUPPLY_CROSSING: VSNS moves to `volts` tenths of a volt (R172, R173). -/
def execSupplyCrossing (dt volts : Nat) (s : State) : Outcome :=
  let s := (s.pass dt).updSmc fun m => { m with supply := volts }
  if volts < 60 && !s.smc.coldHeld then .next (s.beginReset .brownout)
  else if s.smc.inReset then .next s
  else .next (s.changeSupply (s.smc.supplyState.next volts))

/-- LINE_RESET: RSTN is driven low (R173; log 16). -/
def execLineReset (dt : Nat) (s : State) : Outcome :=
  let s := (s.pass dt).updSmc fun m => { m with rstnLow := true }
  if s.smc.coldHeld then .next s else .next (s.beginReset .line)

/-- LINE_REQUEST_RESET: an accepted RSET whose reply has been sent in full begins the reset (R176; log 30). -/
def execLineRequestReset (s : State) : Outcome :=
  if s.smc.resetAsked && s.clp.free then .next (s.beginReset .lineRequest) else .next s

/-- Whether the supply lets a reset of a kind be released (R173). -/
def Smc.mayRelease (m : Smc) : Bool := decide (65 < m.supply) || m.cause == .lineRequest

/-- The reset is released: the blocks stand at their reset values, the responses in force are computed from the kept
records, the supply state is set, the start-up timer runs (R152, R172, R173). -/
def State.releaseReset (s : State) : State :=
  let s : State := { s with lfs := .reset s.now }
  let s := s.updSmc fun m => { m with
    inReset := false, rstnLow := false, supplyState := supplyAt m.supply, startTimer := some (s.now + ms 20) }
  let s := s.recompute.evalFlt
  if s.smc.supplyState = .belowDrive then s.supplyLow else s

/-- RESET_RELEASE: the cause of the reset ends, RSTN high (R173; log 16). -/
def execResetRelease (dt : Nat) (s : State) : Outcome :=
  let s := s.pass dt
  if s.smc.inReset && s.smc.mayRelease then .next s.releaseReset else .next s

/-- SUPPLY_LOW_REPEAT: 100 ms more in BELOW_DRIVE (R172). -/
def execSupplyLowRepeat (s : State) : Outcome :=
  match s.smc.repeatTimer with
  | some t =>
    .next (((s.reachTime t).updSmc fun m => { m with repeatTimer := some (t + ms 100) }).report .smc .supplyLow .present)
  | none => .next s

/-! ### Start-up (R174) -/

/-- The start-up timer expires: GUARD is read, the regions are loaded, the responses recomputed, !RDY handed in, STANDBY
entered (R162, R174). -/
def State.startUp (s : State) (guardOn : Bool) : State :=
  let s := (s.seeGuard guardOn).loadAll.recompute
  let s := s.notice .smc (.rdy s.smc.cause s.cst.regions)
  s.updSmc fun m => { m with mode := .standby, startTimer := none }

/-- START_UP_TIMER_EXPIRY. GUARD is read afresh; its level is a free value (R162, R174; log 15). -/
def execStartUpTimerExpiry (s : State) : Outcome :=
  match s.smc.startTimer with
  | some t => .next { (s.reachTime t).startUp (Config.guardAtStartUp s.freeCount) with freeCount := s.freeCount + 1 }
  | none => .next s

/-! ### Modes (R175) -/

/-- A change of mode by MODE, with its !MOD notice. -/
def State.setMode (s : State) (m : Mode) : State :=
  let old := s.smc.mode
  (s.updSmc fun x => { x with mode := m }).notice .smc (.mod m old s.ckt.cycles)

/-- The Crank Tracker at RUN entry (R20). -/
def Ckt.enterRun (k : Ckt) : Ckt :=
  { Ckt.reset with cycles := k.cycles, noiseReported := k.noiseReported, missingReported := k.missingReported }

/-- The Angle Scheduler at RUN entry (R44). -/
def State.ascEnterRun (s : State) : State := { s with asc := ⟨[], s.tbm.inForce.plan⟩ }

/-- RUN entry from the layout just validated (R175; log 23, 33). -/
def State.enterRun (s : State) : State :=
  let s := s.setMode .run
  let s : State := { s with tbm := { s.tbm with inForce := s.tbm.layout } }
  let s := s.vdrEnterRun.recompute.phcEnterRun.lfsEnterRun.ascEnterRun.ceuEnterRun.tgaEnterRun
  s.updCkt Ckt.enterRun

/-- What is still on its way, as RUN is left, from the lock that has ended: its notifications and the entries of its
schedule. The receivers act on the loss as they leave RUN, and nothing of the schedule is due in STANDBY (R44, R72, R74,
R104, R124; log 45). The Trace Buffer has no part in leaving RUN and takes what is on its way to it; that a CYCLE_START of
the ended lock among that opens a slot in STANDBY, for a cause pushed since then too, is the model's DESIGN CHOICE (R153,
R155; log 56). -/
def Handover.ofLock : Handover → Bool
  | .ascLock _ => true
  | .ceuLock _ => true
  | .phcLockLost _ => true
  | .lfsLockLost _ => true
  | .ceuEdgeClose _ _ _ _ => true
  | .ceuCycleStart _ _ => true
  | .tgaCycleStart _ _ => true
  | .liftEntry _ _ _ => true
  | _ => false

/-- RUN is left (R44, R72, R74, R108, R121, R124, R175; log 23). Duty writes and solenoid requests on their way stay so,
to be discarded: as they are taken, or at the next RUN entry (log 53). -/
def State.leaveRun (s : State) (seen : LoadSeen) : State :=
  let s : State := { s with handovers := s.handovers.filter fun h => !h.ofLock }
  let s := s.setMode .standby
  let s : State := { s.phcLeaveRun.lfsLeaveRun with asc := ⟨[], []⟩ }
  s.ceuLeaveRun.tgaLeaveRun.vdrLeaveRun seen

/-- Every MODE taken empties the layout validation record (R175). -/
def State.dropValidation (s : State) : State := { s with tbm := { s.tbm with validation := none } }

/-- MODE RUN performed, in STANDBY or RUN (R175). -/
def State.doModeRun (s : State) (fields : List Field) : State :=
  let s := s.dropValidation
  if fields ≠ [.word .RUN] then s.answer .MODE .format
  else if s.inRun then s.answer .MODE .mode
  else
    match validate s.tbm.layoutOrigin s.tbm.layout with
    | some f => ({ s with tbm := { s.tbm with validation := some f } } : State).answer .MODE .layout (failureFields f)
    | none => s.enterRun.answer .MODE .ok

/-- MODE_RUN (R175). MODE STANDBY is the row MODE_STANDBY's. -/
def execModeRun (fields : List Field) (s : State) : Outcome :=
  if fields = [.word .STANDBY] then .next s else .next (s.request .MODE fields fun s => s.doModeRun fields)

/-- MODE STANDBY performed, in STANDBY or RUN (R175). -/
def State.doModeStandby (s : State) (fields : List Field) (seen : LoadSeen) : State :=
  let s := s.dropValidation
  if fields ≠ [.word .STANDBY] then s.answer .MODE .format
  else if !s.inRun then s.answer .MODE .ok
  else if s.ckt.state ≠ .stopped then s.answer .MODE .state
  else (s.leaveRun seen).answer .MODE .ok

/-- MODE_STANDBY (R175). MODE RUN is the row MODE_RUN's. -/
def execModeStandby (fields : List Field) (seen : LoadSeen) (s : State) : Outcome :=
  if fields = [.word .RUN] then .next s else .next (s.request .MODE fields fun s => s.doModeStandby fields seen)

/-! ### RSET (R176) -/

/-- RSET performed, the arm record already read. -/
def State.doRset (s : State) (fields : List Field) (armed : Bool) : State :=
  if fields ≠ [] then s.answer .RSET .format
  else if !armed then s.answer .RSET .notArmed
  else (s.updSmc fun m => { m with resetAsked := true }).answer .RSET .ok

/-- RSET (R176). -/
def execRset (fields : List Field) (s : State) : Outcome :=
  .next (s.request .RSET fields fun s => s.disarm.doRset fields (s.armed .reset))

end Sys2Proof.Machine
end

