-- ==== Sys2Proof/Machine/Dispatch.lean ====
section
/-! DEFINITION. One arm for each command, each a direct call of its meaning. -/

namespace Sys2Proof.Machine

/-- The effect of a command on everything but the queue of waiting commands. -/
def exec (i : Instr) (s : State) : Host.Outcome State Fault Refusal :=
  match i with
  | .powerOn dt volts => Sys2Proof.Machine.execPowerOn dt volts s
  | .supplyCrossing dt volts => Sys2Proof.Machine.execSupplyCrossing dt volts s
  | .lineReset dt => Sys2Proof.Machine.execLineReset dt s
  | .lineRequestReset => Sys2Proof.Machine.execLineRequestReset s
  | .resetRelease dt => Sys2Proof.Machine.execResetRelease dt s
  | .supplyLowRepeat => Sys2Proof.Machine.execSupplyLowRepeat s
  | .startUpTimerExpiry => Sys2Proof.Machine.execStartUpTimerExpiry s
  | .crkEdge dt hold => Sys2Proof.Machine.execCrkEdge dt hold s
  | .stallTimerExpiry => Sys2Proof.Machine.execStallTimerExpiry s
  | .angleClockReach au hold => Sys2Proof.Machine.execAngleClockReach au hold s
  | .referenceReport => Sys2Proof.Machine.execReferenceReport s
  | .ascLockGained => Sys2Proof.Machine.execAscLockGained s
  | .ascLockLost => Sys2Proof.Machine.execAscLockLost s
  | .camEdge dt age input pol => Sys2Proof.Machine.execCamEdge dt age input pol s
  | .ceuEdgeClose => Sys2Proof.Machine.execCeuEdgeClose s
  | .ceuCycleStart => Sys2Proof.Machine.execCeuCycleStart s
  | .ceuLockGained => Sys2Proof.Machine.execCeuLockGained s
  | .ceuLockLost => Sys2Proof.Machine.execCeuLockLost s
  | .phcOpptOil => Sys2Proof.Machine.execPhcOpptOil s
  | .phcOpptChanged => Sys2Proof.Machine.execPhcOpptChanged s
  | .tgaCycleStart => Sys2Proof.Machine.execTgaCycleStart s
  | .tgaResponseChange ch => Sys2Proof.Machine.execTgaResponseChange ch s
  | .stalenessTimerExpiry => Sys2Proof.Machine.execStalenessTimerExpiry s
  | .trbCycleStart => Sys2Proof.Machine.execTrbCycleStart s
  | .trbEdgeRecord => Sys2Proof.Machine.execTrbEdgeRecord s
  | .trbLockLost => Sys2Proof.Machine.execTrbLockLost s
  | .triggerPush => Sys2Proof.Machine.execTriggerPush s
  | .pinSenseSample psa psb => Sys2Proof.Machine.execPinSenseSample psa psb s
  | .ocvPeriodStart o => Sys2Proof.Machine.execOcvPeriodStart o s
  | .onPeriodEnd o current => Sys2Proof.Machine.execOnPeriodEnd o current s
  | .overcurrent dt out => Sys2Proof.Machine.execOvercurrent dt out s
  | .lsOnLimit o current => Sys2Proof.Machine.execLsOnLimit o current s
  | .normalWrite o => Sys2Proof.Machine.execNormalWrite o s
  | .immediateWrite o current => Sys2Proof.Machine.execImmediateWrite o current s
  | .energize o => Sys2Proof.Machine.execEnergize o s
  | .deEnergize o current => Sys2Proof.Machine.execDeEnergize o current s
  | .vdrEnableEvaluation out current => Sys2Proof.Machine.execVdrEnableEvaluation out current s
  | .vdrDriverClear out => Sys2Proof.Machine.execVdrDriverClear out s
  | .faultPresent id => Sys2Proof.Machine.execFaultPresent id s
  | .faultGone id => Sys2Proof.Machine.execFaultGone id s
  | .faultEvent id => Sys2Proof.Machine.execFaultEvent id s
  | .fmgLockoutChange => Sys2Proof.Machine.execFmgLockoutChange s
  | .cstSupplyChange => Sys2Proof.Machine.execCstSupplyChange s
  | .savePageEnd dt => Sys2Proof.Machine.execSavePageEnd dt s
  | .sweepPageCheck dt => Sys2Proof.Machine.execSweepPageCheck dt s
  | .resumeTimerExpiry => Sys2Proof.Machine.execResumeTimerExpiry s
  | .lineGapTimeout => Sys2Proof.Machine.execLineGapTimeout s
  | .lineComplete dt => Sys2Proof.Machine.execLineComplete dt s
  | .lineTaken => Sys2Proof.Machine.execLineTaken s
  | .lineSent dt => Sys2Proof.Machine.execLineSent dt s
  | .noticeHandedIn src => Sys2Proof.Machine.execNoticeHandedIn src s
  | .armLapse => Sys2Proof.Machine.execArmLapse s
  | .modeStandby fields seen => Sys2Proof.Machine.execModeStandby fields seen s
  | .save guardOn fields => Sys2Proof.Machine.execSave guardOn fields s
  | .stst guardOn fields => Sys2Proof.Machine.execStst guardOn fields s
  | .characterReceived dt c => Sys2Proof.Machine.execCharacterReceived dt c s
  | .phcMatch ch => Sys2Proof.Machine.execPhcMatch ch s
  | .phcMeasurementMissing ch => Sys2Proof.Machine.execPhcMeasurementMissing ch s
  | .phcLockLost ch => Sys2Proof.Machine.execPhcLockLost ch s
  | .phcStartNotification ch => Sys2Proof.Machine.execPhcStartNotification ch s
  | .releaseTimerExpiry ch => Sys2Proof.Machine.execReleaseTimerExpiry ch s
  | .holdLimitExpiry ch => Sys2Proof.Machine.execHoldLimitExpiry ch s
  | .parkTimerExpiry ch => Sys2Proof.Machine.execParkTimerExpiry ch s
  | .testTimerExpiry ch => Sys2Proof.Machine.execTestTimerExpiry ch s
  | .phcClaimPlaced ch => Sys2Proof.Machine.execPhcClaimPlaced ch s
  | .phcClaimReleased ch => Sys2Proof.Machine.execPhcClaimReleased ch s
  | .phcSupplyChange ch => Sys2Proof.Machine.execPhcSupplyChange ch s
  | .phcResponseChange ch => Sys2Proof.Machine.execPhcResponseChange ch s
  | .phcSourceChange ch => Sys2Proof.Machine.execPhcSourceChange ch s
  | .phcDriverFault ch => Sys2Proof.Machine.execPhcDriverFault ch s
  | .phcClass1Report ch => Sys2Proof.Machine.execPhcClass1Report ch s
  | .phcDriverClear ch => Sys2Proof.Machine.execPhcDriverClear ch s
  | .lfsLiftDecide u => Sys2Proof.Machine.execLfsLiftDecide u s
  | .lfsLiftOpen u => Sys2Proof.Machine.execLfsLiftOpen u s
  | .lfsLiftClose u => Sys2Proof.Machine.execLfsLiftClose u s
  | .travelTimerExpiry u => Sys2Proof.Machine.execTravelTimerExpiry u s
  | .senseChange u => Sys2Proof.Machine.execSenseChange u s
  | .lfsLockLost u => Sys2Proof.Machine.execLfsLockLost u s
  | .lfsStartNotification u => Sys2Proof.Machine.execLfsStartNotification u s
  | .lfsResponseChange u => Sys2Proof.Machine.execLfsResponseChange u s
  | .stuckAction u => Sys2Proof.Machine.execStuckAction u s
  | .unitClear u => Sys2Proof.Machine.execUnitClear u s
  | .liftTestExpiry u => Sys2Proof.Machine.execLiftTestExpiry u s
  | .stat fields => Sys2Proof.Machine.execStat fields s
  | .arms fields => Sys2Proof.Machine.execArms fields s
  | .nmsk fields => Sys2Proof.Machine.execNmsk fields s
  | .idnt fields => Sys2Proof.Machine.execIdnt fields s
  | .modeRun fields => Sys2Proof.Machine.execModeRun fields s
  | .rset fields => Sys2Proof.Machine.execRset fields s
  | .layr fields => Sys2Proof.Machine.execLayr fields s
  | .layw fields => Sys2Proof.Machine.execLayw fields s
  | .tunr fields => Sys2Proof.Machine.execTunr fields s
  | .tunw fields => Sys2Proof.Machine.execTunw fields s
  | .oppt fields => Sys2Proof.Machine.execOppt fields s
  | .mapr fields => Sys2Proof.Machine.execMapr fields s
  | .mapw fields => Sys2Proof.Machine.execMapw fields s
  | .testCh fields => Sys2Proof.Machine.execTestCh fields s
  | .testLift fields => Sys2Proof.Machine.execTestLift fields s
  | .clrl fields => Sys2Proof.Machine.execClrl fields s
  | .rspr fields => Sys2Proof.Machine.execRspr fields s
  | .rspw fields => Sys2Proof.Machine.execRspw fields s
  | .fltr fields => Sys2Proof.Machine.execFltr fields s
  | .fltc fields => Sys2Proof.Machine.execFltc fields s
  | .trct fields => Sys2Proof.Machine.execTrct fields s
  | .trcr fields => Sys2Proof.Machine.execTrcr fields s
  | .trcf fields => Sys2Proof.Machine.execTrcf fields s
  | .swep fields => Sys2Proof.Machine.execSwep fields s
  | .abrt fields => Sys2Proof.Machine.execAbrt fields s
  | .page fields => Sys2Proof.Machine.execPage fields s
  | .lock fields => Sys2Proof.Machine.execLock fields s

end Sys2Proof.Machine
end

