-- ==== Sys2Proof/Machine/Step.lean ====
section
/-! DEFINITION. One step of the part: the command at the front of the queue is performed; with no command waiting, half a
microsecond passes (log 1). -/

namespace Sys2Proof.Machine

/-- One step. -/
def step (s : State) : Host.Outcome State Fault Refusal :=
  match s.pending with
  | [] => .next (s.pass 1)
  | c :: rest => exec c { s with pending := rest }

/-- `s` with the command that a word of the opcode table spells put at the front of its queue; `s` itself where the
word spells none, as here (no row of the table has bits). -/
def State.withFetchWord (s : State) (nbits w : Nat) : State :=
  match decodeTableWord nbits w with
  | some c => { s with pending := c :: s.pending }
  | none => s

end Sys2Proof.Machine
end

