-- ==== Sys2Proof/Safety.lean ====
section
/-! DEFINITION. The notions that statements about the part use: a handover offered to its receiver, a request that begins
to be performed, what a change sends, the values after a reset, and the bounds the manual puts on the part's lists, tallies and pages. -/

namespace Sys2Proof.Machine

/-! ### What a command finds -/

/-- The handover `h` is in flight in `s`, no earlier one of its lane before it and nothing at its angle that it has to wait
for (R43), and `t` is `s` with `h` taken out (log 2). -/
def State.offers (s : State) (h : Handover) (t : State) : Prop :=
  ∃ pre post, s.handovers = pre ++ h :: post ∧ (∀ x ∈ pre, x.lane ≠ h.lane) ∧ s.heldBack h = false ∧
    t = { s with handovers := pre ++ post }

/-- A request begins to be performed: it is no longer waiting for its owner, and the arm record is empty unless the
request is one that reads it (R180, R181). -/
def State.begun (s : State) (k : Keyword) : State :=
  s.updClp fun c => { c with request := none, arm := if consumesArm k then c.arm else none }

/-- The part is free to perform a request of keyword `k` with these fields, and `t` is `s` as the request begins. -/
def State.begins (s : State) (k : Keyword) (fields : List Field) (t : State) : Prop :=
  s.dispatches k fields = true ∧ t = s.begun k

/-! ### What is sent -/

/-- `s` with handovers sent, in this order. -/
def State.sends (s : State) (l : List Handover) : State := { s with handovers := s.handovers ++ l }

/-- What a change of a channel's state to `new` sends: the notice, the news to the Valve Drivers for the output in force,
the news to the Fault Manager where LOCKOUT is entered or left (R75). -/
def State.chanNews (s : State) (ch : Chan) (new old : ChanState) (cause : ChanCause) (holds : Option HoldCauses) :
    List Handover :=
  [.notice .phc (.chs ch new old cause holds s.ckt.cycles)] ++
    ((s.chanDriver ch).toList.map fun o => .enableEvaluation (.ocv o)) ++
    if (old = .lockout) ↔ (new = .lockout) then [] else [.lockoutChange]

/-- What a duty written by a channel sends: the write, to the output that the layout in force binds (R79, R113). -/
def State.dutyNews (s : State) (ch : Chan) (duty : Nat) (immediate : Bool) : List Handover :=
  (s.chanDriver ch).toList.map fun o => .dutyWrite o duty immediate

/-- What a change of a unit's state to `new` sends: the news to the Valve Drivers, and the notice at HIGH, LOW and STUCK
(R125). -/
def State.liftNews (s : State) (u : LiftUnit) (new old : LiftState) (cause : LiftCause) : List Handover :=
  ((s.unitDriver u).toList.map fun o => .enableEvaluation (.ls o)) ++
    if new = .high ∨ new = .low ∨ new = .stuck then [.notice .lfs (.lft u new old cause s.ckt.cycles)] else []

/-- What an energize or de-energize request of a unit sends (R129, R130). -/
def State.solenoidNews (s : State) (u : LiftUnit) (on : Bool) : List Handover :=
  (s.unitDriver u).toList.map fun o => .solenoid o on

/-- What a recomputation of the responses in force sends: each changed one to the arbiter and the channel, or to the Lift
Sequencer (R147). -/
def State.responseNews (s : State) : List Handover :=
  (allChans.flatMap fun ch =>
    if s.chanResponseNow ch = s.fmg.chanResponse.get ch then []
    else [.tgaResponse ch (s.chanResponseNow ch), .phcResponse ch (s.chanResponseNow ch)]) ++
  allUnits.flatMap fun u =>
    if s.unitLowNow u = s.fmg.unitLow.get u then [] else [.lfsResponse u (s.unitLowNow u)]

/-- `s` with every response in force as the rule gives it from the records, and the changes sent (R147). -/
def State.responsesSet (s : State) : State :=
  State.sends
    { s with fmg := { s.fmg with
      chanResponse := s.fmg.chanResponse.map fun ch _ => s.chanResponseNow ch
      unitLow := s.fmg.unitLow.map fun u _ => s.unitLowNow u } }
    s.responseNews

/-- The reply lines that are begun and not ended, or given and not begun (R180, R182). -/
def Clp.owed (c : Clp) : List Line :=
  match c.sending with
  | some (.reply l) => l :: c.replies
  | _ => c.replies

/-! ### The passing of angles -/

/-- Entries that have not fired and stand at or below the angle `v` (R47). -/
def duesOf (l : List Entry) (v : Nat) : List Entry := l.filter fun e => !e.fired && decide (e.angle ≤ v)

/-- A list after those entries have fired. -/
def firedTo (l : List Entry) (v : Nat) : List Entry :=
  l.map fun e => if !e.fired && decide (e.angle ≤ v) then { e with fired := true } else e

/-- One entry stands at or before another in the order of R43: by angle, then by kind, then by owner index, which is the
channel and then the edge, or the unit. -/
def Entry.before (a b : Entry) : Prop :=
  a.angle < b.angle ∨ a.angle = b.angle ∧ (a.kind.rank < b.kind.rank ∨ a.kind.rank = b.kind.rank ∧
    (a.kind.owner.1 < b.kind.owner.1 ∨ a.kind.owner.1 = b.kind.owner.1 ∧ a.kind.owner.2 ≤ b.kind.owner.2))

/-- The list stands in the order of R43. -/
def orderedList (l : List Entry) : Prop := l.Pairwise Entry.before

/-- The clock of `q` has gone `n` angles on from `v` and stands at `w`; `u` is what the clock and the Angle Scheduler
make of that, with the Cam Edge Unit as `ceu` and `report` sent, the last `left` of the entries that fire left out.
Outside CYCLE_LOCKED nothing fires. In CYCLE_LOCKED the entries due fire in list order; past cycle angle 0 those of
the ending cycle fire first, the cycle counter goes up by one, CYCLE_START goes to its three receivers with the new
count, the list is placed anew with its flags clear, and then the entries due in the new cycle fire (R34, R47 to R50,
R52; log 31). -/
def State.clockWent (q u : State) (v n w : Nat) (ceu : Ceu) (report : List Handover) (left : Nat) : Prop :=
  let lap : Bool := q.ckt.lap ^^ decide (((v + n) / 5760 - v / 5760) % 2 = 1)
  (q.ckt.state ≠ .cycleLocked →
    u = { q with ckt := { q.ckt with lap := lap }, ceu := ceu, handovers := q.handovers ++ report }) ∧
  (q.ckt.state = .cycleLocked → ∃ (es : List Entry) (cycles : Word32) (fires : List (List Handover)),
    u = { q with
      ckt := { q.ckt with lap := lap, cycles := cycles }
      ceu := ceu
      asc := { q.asc with entries := es }
      handovers := q.handovers ++ report ++ (fires.take (fires.length - left)).flatten } ∧
    (v + n < 11520 → cycles = q.ckt.cycles ∧ fires = (duesOf q.asc.entries w).map (Entry.handovers cycles) ∧
      (left = 0 → es = firedTo q.asc.entries w)) ∧
    (11520 ≤ v + n → cycles = q.ckt.cycles + 1 ∧
      (q.asc.entries = [] → fires = [] ∧ es = []) ∧
      (q.asc.entries ≠ [] → ∃ l : List Entry,
        l.Perm (q.asc.plan.map fun p => ⟨q.placedAngle p, p.kind, decide (p.kind = .cycleStart)⟩) ∧ orderedList l ∧
        fires = (duesOf q.asc.entries 11520).map (Entry.handovers q.ckt.cycles) ++
          [.tgaCycleStart 0 cycles, .trbCycleStart 0 cycles, .ceuCycleStart 0 cycles] ::
          (duesOf l w).map (Entry.handovers cycles) ∧
        (left = 0 → es = firedTo l w))))

/-- The clock of `q` has gone `n` angles on from `v` and stands at `w`; `t` is what the step makes of that. Where the
end of the reference window lies among those angles, `d` on, the report is sent there and reference seen is cleared
(R36, R70, R71). `hold` has a meaning only where that report is the second wrong half in a row: then the tracker may take
it within the step, and the last `hold` entries find the list already emptied (R32, R54; log 10). -/
def State.passesTo (q t : State) (v n w hold : Nat) : Prop :=
  let lapAt (d : Nat) : Bool := decide (((v + d) / 5760 - v / 5760) % 2 = 1)
  let closes (d : Nat) : Prop := 1 ≤ d ∧ d ≤ n ∧ d ≤ 5760 ∧ q.tbm.inForce.reportAngle = some ((v + d) % 5760)
  ((∀ d, ¬ closes d) → q.clockWent t v n w q.ceu [] 0) ∧
  ∀ d, closes d →
    let ceu : Ceu := { q.ceu with refSeen := false, reportSent := true }
    let ends : Prop := q.ckt.state = .cycleLocked ∧ q.ckt.awaySeen = true ∧ q.ceu.refSeen = false ∧ 1 ≤ q.ckt.wrongHalf ∧
      q.tbm.inForce.homeHalf = some (decide (5760 ≤ (v + d) % 11520)) ∧
      ∀ seen lap, .referenceReport seen lap ∉ q.handovers
    (hold = 0 ∨ ¬ ends → q.clockWent t v n w ceu [.referenceReport q.ceu.refSeen (q.ckt.lap ^^ lapAt d)] 0) ∧
    (0 < hold → ends → ∃ (u : State) (c c' : AngleClock), q.clockWent u v n w ceu [] hold ∧ u.ckt.clock = some c ∧
      c'.value 5760 = c.value 11520 % 5760 ∧
      t = State.sends
        { u with ckt := { u.ckt with
          state := .crankLocked, clock := some c', halfCandidate := none, notSeen := 0, awaySeen := false, wrongHalf := 0 } }
        ([.report .ckt .syncSlip .event, .ascLock false, .ceuLock false] ++ allChans.map Handover.phcLockLost ++
          allUnits.map Handover.lfsLockLost ++
          [.trbLockLost, .notice .ckt (.syn .crankLocked .cycleLocked .halfSlip u.ckt.rpm u.ckt.cycles)]))

/-- Between teeth the clock of `q` runs `n` angles on, and `t` is what that makes of it (R35, R47). -/
def State.runsTo (q t : State) (n hold : Nat) : Prop :=
  (n = 0 → t = q) ∧
  (n ≠ 0 → ∀ c, q.ckt.clock = some c →
    let circle := if q.ckt.state = .cycleLocked then 11520 else 5760
    let v := (c.anchor.angle + c.reached) % circle
    State.passesTo { q with ckt := { q.ckt with clock := some { c with reached := c.reached + n } } } t v n
      ((v + n) % circle) hold)

/-! ### Resets and locks -/

/-- The blocks other than the store and the Fault Manager stand at their values after any reset, nothing is in flight,
and no store operation or result is left (R18, R19, R41, R57, R58, R73, R97, R98, R109, R110, R122, R153, R154, R164,
R177). -/
def State.blocksReset (s : State) : Prop :=
  s.handovers = [] ∧ s.clp = .reset ∧ s.tbm = .reset ∧ s.ckt = .reset ∧ s.asc = ⟨[], []⟩ ∧ s.ceu = .reset ∧
  s.phc = .reset ∧ s.tga = .reset ∧ s.vdr = .reset ∧ s.lfs = .reset s.now ∧ s.trb = .reset ∧
  s.cst.op = .idle ∧ s.cst.sweep = .none ∧ s.cst.lastSave = none

/-- A save that exists is of a region whose lock mark is clear, and its current page is one of that region's (R163,
R165). -/
def Cst.guarded (c : Cst) : Prop :=
  ∀ r gen image, c.op.kind = .save r gen image →
    c.locks.get r = false ∧ regionFirst r ≤ c.op.page ∧ c.op.page < regionFirst r + regionSize r

/-! ### Bounds -/

/-- At most two lines hold a place, at most 8 notices wait, a line under assembly has at most 320 characters (R178, R179,
R183). -/
def Clp.bounded (c : Clp) : Prop :=
  c.buffer.length ≤ 2 ∧ c.queue.length ≤ 8 ∧ ∀ a ∈ c.rx, a.codes.length ≤ 320

/-- A slot's list holds at most 40 records, its offered count is at most 255 (R154). -/
def TraceSlot.bounded (x : TraceSlot) : Prop := x.edges.length ≤ 40 ∧ x.offered ≤ 255

/-- At most 4 causes wait; there are four slots, each within its bounds, at most one of them FILLING (R153, R154). -/
def Trb.bounded (t : Trb) : Prop :=
  t.queue.length ≤ 4 ∧ t.slots.length = 4 ∧ (∀ x ∈ t.slots, x.bounded) ∧
    (t.slots.filter fun x => x.state == .filling).length ≤ 1

/-- Every occurrence count is at most 255 (R140). -/
def FaultTable.bounded (t : FaultTable) : Prop := ∀ id, (t.get id).count ≤ 255

/-- The store is 36 pages of 128 bytes (R161, R162). -/
def Cst.bounded (c : Cst) : Prop := c.pages.length = 36 ∧ ∀ p ∈ c.pages, p.bytes.length = 128

/-- The Angle Schedule holds at most 32 entries, and so does its plan (R43). -/
def Asc.bounded (a : Asc) : Prop := a.entries.length ≤ 32 ∧ a.plan.length ≤ 32

/-- The bounds of all blocks. -/
def State.bounded (s : State) : Prop :=
  s.clp.bounded ∧ s.trb.bounded ∧ s.fmg.table.bounded ∧ s.cst.bounded ∧ s.asc.bounded

end Sys2Proof.Machine
end

