-- ==== Sys2Proof/Certificates/Slice0/Obligations.lean ====
section
/-! DEFINITION. The statements for the provers: how the part steps, what each command makes of the state, and what every
step keeps. Where a statement rests on a choice of this model, its docstring names the log entry. -/

open Sys2Proof Sys2Proof.Machine

/-! ### Steps, bounds, locks, lines -/

/-- A step performs the command at the front of the queue on the state with the queue's rest.
With no command waiting half a microsecond passes and nothing else changes: the model's choice (log 1). -/
def Obligations.StepRunsFrontCommand : Prop :=
  (∀ (c : Instr) (rest : List Instr) (s : State), s.pending = c :: rest → step s = exec c { s with pending := rest }) ∧
  (∀ s : State, s.pending = [] → step s = .next { s with now := s.now + 1 })

/-- No command stops the part, and none touches the queue of commands. -/
def Obligations.EveryCommandAnswersANextState : Prop :=
  ∀ (c : Instr) (s : State), ∃ t, exec c s = .next t ∧ t.pending = s.pending

/-- Every step keeps the bounds the manual puts on the part's lists, counts and pages: two lines and eight notices in
the port, four causes and four slots with at most one FILLING and at most 40 edges each, counts up to 255, 36 pages of
128 bytes, 32 entries. -/
def Obligations.EveryStepKeepsTheBounds : Prop :=
  ∀ s t : State, s.bounded → step s = .next t → t.bounded

/-- The state after reset is within the bounds, and no store operation, so no save, exists in it. -/
def Obligations.ResetStateIsWithinTheBounds : Prop :=
  State.reset.bounded ∧ State.reset.cst.op.kind = .none ∧ State.reset.cst.guarded

/-- No step clears a lock mark or erases or programs a page of a locked region: whatever the command, the locked
region's pages stay as they were. The premise, that an existing save is of an unlocked region and works inside it, is
kept by every step too. -/
def Obligations.LockedRegionsKeepTheirPages : Prop :=
  ∀ s t : State, s.cst.guarded → step s = .next t →
    t.cst.guarded ∧
    ∀ r : Region, s.cst.locks.get r = true →
      t.cst.locks.get r = true ∧ ∀ i < regionSize r, t.page (regionFirst r + i) = s.page (regionFirst r + i)

/-- A request line spelled by the format of lines passes the checks and reads back as its keyword and fields, whatever
decimal values, words and absent fields it carries. The line is given as one that is no long entry: lines above 320
characters, which are answered LONG, are left out. -/
def Obligations.RequestLinesReadBack : Prop :=
  ∀ (k : Keyword) (fields : List Field),
    (∀ f ∈ fields, f = .absent ∨ (∃ v, f = .num v) ∨ ∃ t, f = .word t) →
    checkLine ⟨(Line.mk .request (.kw k) fields).codes, false, false⟩ = .request ⟨k, fields⟩

/-! ### Resets and supply -/

/-- The values the manual gives for reset, block by block, in the state after reset; the supply, the reset cause and
the store's content are the model's choices (log 5, 6, 7) and are not named. Of the Cam Edge Unit no reference report
has been sent. With them stand values that are the
model's: the start phase and start cycle of an IDLE stuck monitor, 0 (log 38), the clock's lap (log 11), the ended occurrence
of a window, none (log 12), the stamps of the cam inputs (log 42) and the arbiter's own copy of a channel's response, NONE (log 24). -/
def Obligations.ResetStateHoldsTheManualsValues : Prop :=
  let s := State.reset
  s.smc.mode = .init ∧ s.smc.supplyReported = false ∧ s.smc.startTimer = some (s.now + ms 20) ∧
  s.smc.repeatTimer = none ∧ s.tbm.validation = none ∧
  s.tbm.layout = .blank ∧ s.tbm.layoutOrigin = .blank ∧ s.tbm.tuning = .builtIn ∧ s.tbm.tuningOrigin = .default ∧
  s.tbm.response = .builtIn ∧ s.tbm.responseOrigin = .default ∧ s.tbm.maps = .all .blank ∧
  s.ckt = ⟨.stopped, none, none, none, none, none, none, none, none, 0, 0, 0, false, none, 0, false, false, 0, false⟩ ∧
  s.asc = ⟨[], []⟩ ∧
  s.ceu = ⟨.all ⟨0, false, List.replicate 6 ⟨false, false, none⟩, 0, 0, 0, 0, false, false, false⟩, false, false, false, false,
    .all 0⟩ ∧
  s.phc = ⟨.all ⟨.unused, ⟨false, false, false, false⟩, 0, 0, 0, 500, ⟨false, 0, 0, 0⟩, none, 0, 0⟩, 0, false⟩ ∧
  s.tga.record = none ∧ s.tga.fresh = .none ∧ s.tga.stale = none ∧ s.tga.staleReported = false ∧
  (∀ ch, (s.tga.chans.get ch).source = .park ∧ (s.tga.chans.get ch).output = 0 ∧
    (s.tga.chans.get ch).mapOutput = none ∧ (s.tga.chans.get ch).response = .none) ∧
  (∀ o, let r := s.vdr.ocv.get o
    r.enabled = false ∧ r.binding = none ∧ r.period = 4000 ∧ r.active = 0 ∧ r.pending = 0 ∧ r.periodStart = none ∧
      r.lineOn = false ∧ r.tripped = false ∧ r.openTally = 0 ∧ r.openReported = false) ∧
  (∀ o, let r := s.vdr.ls.get o
    r.enabled = false ∧ r.binding = none ∧ r.lineOn = false ∧ r.onSince = none ∧ r.tripped = false ∧
      r.openTally = 0 ∧ r.openReported = false) ∧
  s.clp = ⟨none, [], false, none, [], none, [], ⟨true, false, false, true, true, true, true⟩, false, false, false, none,
    none⟩ ∧
  s.lfs.units = .all ⟨.low, 0, false, none, none, 0, false⟩ ∧ s.lfs.request = false ∧ s.lfs.pair = none ∧
  s.lfs.mismatchReported = false ∧ s.lfs.senses = .all ⟨false, 0⟩ ∧
  (∀ id, s.fault id = ⟨.inactive, 0, 0, none, none, none⟩) ∧ (∀ ch, s.fmg.chanResponse.get ch = .none) ∧
  (∀ u, s.fmg.unitLow.get u = false) ∧ s.fmg.flt = false ∧
  s.trb = ⟨[], List.replicate 4 ⟨.free, none, none, none, [], 0, false, false, none, none⟩⟩ ∧
  s.cst.op.kind = .none ∧ s.cst.op.resume = none ∧ s.cst.sweep = .none ∧ s.cst.lastSave = none ∧
  s.cst.locks.get .ident = true

/-- After each of the four reset kinds the port is empty: buffer and queue empty, nothing on TXD, the mask at its
default, the flags clear, the last-refusal record and the arm record empty. That the values stand as the reset begins
is the model's choice (log 29). -/
def Obligations.ResetsEmptyThePort : Prop :=
  let port : Clp := ⟨none, [], false, none, [], none, [], ⟨true, false, false, true, true, true, true⟩,
    false, false, false, none, none⟩
  ∀ (s : State) (dt volts : Nat),
    (∃ t, exec (.powerOn dt volts) s = .next t ∧ t.clp = port) ∧
    (volts < 60 → s.smc.coldHeld = false → ∃ t, exec (.supplyCrossing dt volts) s = .next t ∧ t.clp = port) ∧
    (s.smc.coldHeld = false → ∃ t, exec (.lineReset dt) s = .next t ∧ t.clp = port) ∧
    (s.smc.resetAsked = true → s.clp.free = true → ∃ t, exec .lineRequestReset s = .next t ∧ t.clp = port)

/-- A reset of each kind begins: the cause is set, the mode is INIT, every block stands at its reset values, the
records take what R152 gives for the kind, and the lock marks and the pages stay but for the page a running save has
in progress. That page is cut off, and its region is then INVALID, in a region that was BLANK too: the model's reading
(log 9). A LINE reset during a POWER_ON or BROWNOUT reset leaves everything but RSTN as it was. That the values stand
from the beginning of the reset is the model's choice (log 29), and so are the values, among those of the blocks, of
what has none in the manual (log 11, 12, 24, 38, 42, and 54 for the operation record at kind NONE). A record after a
LINE or LINE_REQUEST reset: INACTIVE and LATCHED kept, ACTIVE LATCHED with its fields, PENDING INACTIVE with its count
alone. -/
def Obligations.ResetsBeginWithEveryBlockReset : Prop :=
  (let began (s t : State) (cause : ResetCause) : Prop :=
      t.smc.mode = .init ∧ t.smc.cause = cause ∧ t.smc.inReset = true ∧ t.smc.supplyReported = false ∧
      t.smc.resetAsked = false ∧ t.smc.startTimer = none ∧ t.smc.repeatTimer = none ∧ t.blocksReset ∧
      t.fmg.table = (if cause = .powerOn ∨ cause = .brownout then .clean else s.fmg.table.afterLine) ∧
      t.cst.locks = s.cst.locks ∧
      (∀ r gen image, s.cst.op.kind = .save r gen image → s.cst.op.running = true → s.cst.guarded →
        s.cst.pages.length = 36 → (evaluatePages r (t.regionPages r)).status = .invalid) ∧
      ∀ n, (∀ r gen image, s.cst.op.kind = .save r gen image → s.cst.op.running = true → n ≠ s.cst.op.page) →
        t.page n = s.page n
    ∀ (s : State) (dt volts : Nat),
      (∃ t, exec (.powerOn dt volts) s = .next t ∧ began s t .powerOn ∧ t.smc.supply = volts ∧ t.now = s.now + dt) ∧
      (volts < 60 → s.smc.coldHeld = false →
        ∃ t, exec (.supplyCrossing dt volts) s = .next t ∧ began s t .brownout ∧ t.smc.supply = volts ∧
          t.now = s.now + dt) ∧
      (s.smc.coldHeld = false →
        ∃ t, exec (.lineReset dt) s = .next t ∧ began s t .line ∧ t.smc.rstnLow = true ∧ t.now = s.now + dt) ∧
      (s.smc.coldHeld = true →
        exec (.lineReset dt) s = .next { s with now := s.now + dt, smc := { s.smc with rstnLow := true } }) ∧
      (s.smc.resetAsked = true → s.clp.free = true →
        ∃ t, exec .lineRequestReset s = .next t ∧ began s t .lineRequest ∧ t.now = s.now)) ∧
  (∀ (f : FaultTable) (id : FaultId),
      ((f.get id).state = .inactive → f.afterLine.get id = f.get id) ∧
      ((f.get id).state = .latched → f.afterLine.get id = f.get id) ∧
      ((f.get id).state = .active → f.afterLine.get id = { f.get id with state := .latched }) ∧
      ((f.get id).state = .pending → f.afterLine.get id = ⟨.inactive, (f.get id).count, 0, none, none, none⟩))

/-- A reset is released: the supply state is set from the supply, the start-up timer runs for 20 ms, an entry to
BELOW_DRIVE is reported, the responses in force and FLT are those of the kept records. That the command stands for
RSTN going high too, so that it releases a reset whatever RSTN was and leaves the pin high, is the model's choice (log
16). -/
def Obligations.ResetReleaseStartsTheStartUpTimer : Prop :=
  ∀ (s : State) (dt : Nat), s.smc.inReset = true → 65 < s.smc.supply ∨ s.smc.cause = .lineRequest →
    ∃ t, exec (.resetRelease dt) s = .next t ∧ t.now = s.now + dt ∧ t.smc.inReset = false ∧ t.smc.rstnLow = false ∧
      t.smc.mode = s.smc.mode ∧ t.smc.cause = s.smc.cause ∧ t.smc.startTimer = some (t.now + ms 20) ∧
      t.smc.supplyState =
        (if 99 < s.smc.supply then .normal else if 84 < s.smc.supply then .belowProgram else .belowDrive) ∧
      (t.smc.supplyState = .belowDrive →
        t.smc.supplyReported = true ∧ t.smc.repeatTimer = some (t.now + ms 100) ∧
        .report .smc .supplyLow .present ∈ t.handovers) ∧
      t.fmg.table = s.fmg.table ∧ (∀ ch, t.fmg.chanResponse.get ch = s.chanResponseNow ch) ∧
      (∀ u, t.fmg.unitLow.get u = s.unitLowNow u) ∧ t.fmg.flt = s.fltNow ∧
      t.clp = s.clp ∧ t.tbm = s.tbm ∧ t.ckt = s.ckt ∧ t.asc = s.asc ∧ t.ceu = s.ceu ∧ t.phc = s.phc ∧ t.tga = s.tga ∧
      t.vdr = s.vdr ∧ t.lfs = .reset t.now ∧ t.trb = s.trb ∧ t.cst = s.cst

/-- The supply state moves by the falling and rising thresholds, and a supply that crosses two takes the state of the
farther one.
VSNS moves outside a reset and not below 6.0 V: a change of supply state is handed to the four channels and to the
store; an entry to BELOW_DRIVE is reported present and repeated every 100 ms, its end is reported gone. -/
def Obligations.SupplyChangesAreReportedAndHandedOn : Prop :=
  (∀ v : Nat,
      (v < 80 → ∀ st : SupplyState, st.next v = .belowDrive) ∧
      (80 ≤ v → v < 95 → SupplyState.normal.next v = .belowProgram) ∧
      (95 ≤ v → SupplyState.normal.next v = .normal) ∧
      (80 ≤ v → v ≤ 99 → SupplyState.belowProgram.next v = .belowProgram) ∧
      (99 < v → SupplyState.belowProgram.next v = .normal) ∧
      (80 ≤ v → v ≤ 84 → SupplyState.belowDrive.next v = .belowDrive) ∧
      (84 < v → v ≤ 99 → SupplyState.belowDrive.next v = .belowProgram) ∧
      (99 < v → SupplyState.belowDrive.next v = .normal)) ∧
  ((∀ (s : State) (dt volts : Nat), s.smc.inReset = false → 60 ≤ volts →
      let old := s.smc.supplyState
      let new := old.next volts
      let news := (allChans.map fun ch => Handover.phcSupply ch new) ++ [.cstSupply new]
      (new = old →
        exec (.supplyCrossing dt volts) s = .next { s with now := s.now + dt, smc := { s.smc with supply := volts } }) ∧
      (new ≠ old → new = .belowDrive →
        exec (.supplyCrossing dt volts) s = .next (State.sends
          { s with
            now := s.now + dt
            smc := { s.smc with
              supply := volts, supplyState := new, supplyReported := true, repeatTimer := some (s.now + dt + ms 100) } }
          (.report .smc .supplyLow .present :: news))) ∧
      (new ≠ old → old = .belowDrive →
        exec (.supplyCrossing dt volts) s = .next (State.sends
          { s with
            now := s.now + dt
            smc := { s.smc with supply := volts, supplyState := new, supplyReported := false, repeatTimer := none } }
          ((if s.smc.supplyReported then [.report .smc .supplyLow .gone] else []) ++ news))) ∧
      (new ≠ old → new ≠ .belowDrive → old ≠ .belowDrive →
        exec (.supplyCrossing dt volts) s = .next (State.sends
          { s with now := s.now + dt, smc := { s.smc with supply := volts, supplyState := new } } news))) ∧
    ∀ (s : State) (x : Time), s.smc.repeatTimer = some x →
      exec .supplyLowRepeat s = .next (State.sends
        { s with now := max s.now x, smc := { s.smc with repeatTimer := some (x + ms 100) } }
        [.report .smc .supplyLow .present]))

/-- Start-up: GUARD is read, every region is evaluated from its pages, !RDY is handed in last, STANDBY is entered, and
no page changes. The status of IDENT and its identity are what the load finds: decoded from its pages where it is VALID,
else none. A VALID region whose content is of its kind and legal gives its table that content, a map with every
mark set; a region that is not VALID, or whose content is of another kind or not legal, gives its table the fallback.
Which content a VALID region's pages carry is the model's (log 8), and so is the level of GUARD then, a free value
(log 15). -/
def Obligations.StartUpLoadsTheRegionsAndEntersStandby : Prop :=
  ∀ (s : State) (x : Time), s.smc.startTimer = some x →
    ∃ t, exec .startUpTimerExpiry s = .next t ∧ t.now = max s.now x ∧
      t.cst.guardOn = Config.guardAtStartUp s.freeCount ∧ t.freeCount = s.freeCount + 1 ∧
      t.smc = { s.smc with mode := .standby, startTimer := none } ∧ t.cst.pages = s.cst.pages ∧
      (∀ r, t.cst.regions.get r = evaluatePages r (s.regionPages r)) ∧
      t.cst.identStatus = (evaluatePages .ident (s.regionPages .ident)).status ∧
      t.cst.identity = (if t.cst.identStatus = .valid then
        some (Config.decodeIdentity ((s.regionPages .ident).map Page.payload)) else none) ∧
      (∃ l, t.handovers = s.handovers ++ l ++ [.notice .smc (.rdy s.smc.cause t.cst.regions)]) ∧
      t.fmg.table = s.fmg.table ∧ (∀ ch, t.fmg.chanResponse.get ch = t.chanResponseNow ch) ∧
      let carries (r : Region) (c : TableImage) : Prop :=
        (t.cst.regions.get r).status = .valid ∧ regionContent r (s.regionPages r) = some c
      (∀ l, carries .layout (.layout l) → l.legal = true → t.tbm.layout = l ∧ t.tbm.layoutOrigin = .loaded) ∧
      ((∀ l, carries .layout (.layout l) → l.legal = false) → t.tbm.layout = .blank ∧ t.tbm.layoutOrigin = .blank) ∧
      (∀ y, carries .tuning (.tuning y) → y.legal = true → t.tbm.tuning = y ∧ t.tbm.tuningOrigin = .loaded) ∧
      ((∀ y, carries .tuning (.tuning y) → y.legal = false) →
        t.tbm.tuning = .builtIn ∧ t.tbm.tuningOrigin = .default) ∧
      (∀ y, carries .response (.response y) → responseLegal y = true →
        t.tbm.response = y ∧ t.tbm.responseOrigin = .loaded) ∧
      ((∀ y, carries .response (.response y) → responseLegal y = false) →
        t.tbm.response = .builtIn ∧ t.tbm.responseOrigin = .default) ∧
      ∀ ch,
        (∀ m, carries (mapRegion ch) (.map m) → m.legal = true →
          t.tbm.maps.get ch = ⟨m, true, true, true, List.replicate 16 (List.replicate 12 true), true⟩) ∧
        ((∀ m, carries (mapRegion ch) (.map m) → m.legal = false) → t.tbm.maps.get ch = .blank)

/-! ### Modes -/

/-- MODE RUN in STANDBY with a layout that validates: RUN entry, answered OK. Every block is set up from the layout
just validated. A bound channel is FAULTED where a driver record of its output is held, else PARKED, LOCKOUT apart; a
bound unit is STUCK where one of its stuck records is held, else HIGH or LOW by its sense. The plan holds one
CYCLE_START, one EDGE_CLOSE at the end of each window of each bound channel, and three entries of each bound unit, of
which two move with its intake channel. An output starts with duty 0 and no open tally, ENABLED where its channel or
unit, as it stood before, is not FAULTED, LOCKOUT or STUCK. Each change of a channel's state and each state a bound unit
takes goes out with its notice. What an unbound channel or unit had reported is reported gone. The arbiter gives a
bound channel the HOST source where a FRESH operating point carries a target for it, else PARK. Nothing written or
asked of an output before is on its way any longer: of the duty writes, only the 0 of a channel that goes to FAULTED is.
That the drivers are set up ahead of the channels and units, so that a change of theirs comes to the drivers as a
handover, is the model's order (log 23); that what was under way is discarded is its reading (log 53). The model's
choices too are that the cause of STUCK is NO_CONFIRM where the confirm record and a driver record are both held (log 36), and that the
agreement check, by which a mismatch is taken back, counts an unbound unit as LOW (log 48). -/
def Obligations.ModeRunEntersRun : Prop :=
  ∀ s t : State, s.begins .MODE [.word .RUN] t → s.smc.mode = .standby →
    validate t.tbm.layoutOrigin t.tbm.layout = none →
    ∃ t', exec (.modeRun [.word .RUN]) s = .next t' ∧
      t'.smc = { s.smc with mode := .run } ∧ t'.now = s.now ∧
      t'.tbm = { t.tbm with inForce := t.tbm.layout, validation := none } ∧
      t'.clp = t.clp.answer (.kw .MODE) .ok [] ∧
      t'.asc.entries = [] ∧ (t'.asc.plan.map PlanEntry.kind).Nodup ∧
      (∀ p, p ∈ t'.asc.plan ↔ p = ⟨0, .cycleStart, none⟩ ∨
        (∃ ch c k e, (t.tbm.layout.bind.get ch).bound = true ∧ t.tbm.layout.cam.get ch = some c ∧
          (t.tbm.layout.edges.get ch)[k]? = some e ∧ p = ⟨(match c.dir with
            | .adv => (e.angle + c.halfWidth) % 11520
            | .ret => (e.angle + (c.range + c.halfWidth)) % 11520), .edgeClose ch (k + 1), none⟩) ∨
        ∃ u, (t.tbm.layout.lift.get u).bound = true ∧
          let i := t.tbm.layout.lift.get u
          let at_ (a : Option Nat) : Nat := (a.getD 0 + if u = .L2 then t.tbm.layout.cyl.getD 0 else 0) % 11520
          let moves := (t.tbm.layout.cam.get (intake u)).map fun c => (c.dir, c.range)
          p = ⟨at_ i.decision, .liftDecide u, none⟩ ∨ p = ⟨at_ i.windowOpen, .liftOpen u, moves⟩ ∨
            p = ⟨at_ i.windowClose, .liftClose u, moves⟩) ∧
      t'.ckt = { Ckt.reset with
        cycles := s.ckt.cycles, noiseReported := s.ckt.noiseReported, missingReported := s.ckt.missingReported } ∧
      (∀ o, let r := s.vdr.ocv.get o
        let r' := t'.vdr.ocv.get o
        r'.binding = t'.ownerOcv o ∧ r'.period = t.tbm.layout.pwm.get o ∧ r'.active = 0 ∧ r'.pending = 0 ∧
        r'.openTally = 0 ∧ r'.tripped = r.tripped ∧
        (r'.enabled = true ↔ ∃ ch, t'.ownerOcv o = some ch ∧ (s.phc.chans.get ch).state ≠ .faulted ∧
          (s.phc.chans.get ch).state ≠ .lockout) ∧
        (r.enabled = false → r'.openReported = r.openReported ∧
          (r'.enabled = true → r'.periodStart = some (BitVec.ofNat 32 s.now) ∧ r'.lineOn = false))) ∧
      (∀ o, let r := s.vdr.ls.get o
        let r' := t'.vdr.ls.get o
        r'.binding = t'.ownerLs o ∧ r'.openTally = 0 ∧ r'.tripped = r.tripped ∧
        (r'.enabled = true ↔ ∃ u, t'.ownerLs o = some u ∧ (s.lfs.units.get u).state ≠ .stuck) ∧
        (r.enabled = false → r'.openReported = r.openReported ∧ r'.lineOn = r.lineOn)) ∧
      t'.phc.lowOilRun = 0 ∧ t'.phc.oilReported = s.phc.oilReported ∧
      (∀ ch, (t'.phc.chans.get ch).holds = .empty ∧ (t'.phc.chans.get ch).duty = 0 ∧
        (t'.phc.chans.get ch).integral = 0 ∧ (t'.phc.chans.get ch).learned = (s.tbm.tuning.chan.get ch).hold0 ∧
        (t'.phc.chans.get ch).timer = none ∧ (t'.phc.chans.get ch).presented = 0 ∧
        (t'.phc.chans.get ch).stuck.watching = false ∧ (t'.phc.chans.get ch).stuck.reference = 0 ∧
        (t'.phc.chans.get ch).inBand = 0 ∧ (t'.phc.chans.get ch).parkCount = 0 ∧
        ((s.phc.chans.get ch).state = .lockout → (t'.phc.chans.get ch).state = .lockout) ∧
        ((s.phc.chans.get ch).state ≠ .lockout → (t.tbm.layout.bind.get ch).bound = false →
          (t'.phc.chans.get ch).state = .unused) ∧
        let held := ∃ o, (t.tbm.layout.bind.get ch).driver = some o ∧
          ((s.fault (.driverShort (.ocv o))).held = true ∨ (s.fault (.driverOpen (.ocv o))).held = true)
        ((s.phc.chans.get ch).state ≠ .lockout → (t.tbm.layout.bind.get ch).bound = true → held →
          (t'.phc.chans.get ch).state = .faulted) ∧
        ((s.phc.chans.get ch).state ≠ .lockout → (t.tbm.layout.bind.get ch).bound = true → ¬ held →
          (t'.phc.chans.get ch).state = .parked) ∧
        let old := (s.phc.chans.get ch).state
        let new : ChanState :=
          if old = .lockout then .lockout else if (t.tbm.layout.bind.get ch).bound then .parked else .unused
        (new ≠ old → ∀ h ∈ t'.chanNews ch new old .run none, h ∈ t'.handovers) ∧
        (new = old → ∀ a b holds n, .notice .phc (.chs ch a b .run holds n) ∈ t'.handovers →
          .notice .phc (.chs ch a b .run holds n) ∈ t.handovers) ∧
        ((t'.phc.chans.get ch).state = .faulted →
          ∀ h ∈ t'.dutyNews ch 0 true ++ t'.chanNews ch .faulted .parked .driver none, h ∈ t'.handovers)) ∧
      (∀ u, (t'.lfs.units.get u).claim = false ∧ (t'.lfs.units.get u).attempts = 0 ∧
        (t'.lfs.units.get u).travel = none ∧ (t'.lfs.units.get u).test = none ∧ (t'.lfs.units.get u).posTally = 0 ∧
        (t'.lfs.units.get u).posReported = ((t.tbm.layout.lift.get u).bound && (s.lfs.units.get u).posReported) ∧
        ((t.tbm.layout.lift.get u).bound = false → (s.lfs.units.get u).posReported = true →
          .report .lfs (.liftPosition u) .gone ∈ t'.handovers) ∧
        ((t.tbm.layout.lift.get u).bound = false → (t'.lfs.units.get u).state = .low) ∧
        let stuck := (s.fault (.liftNoConfirm u)).held = true ∨ ∃ o, (t.tbm.layout.lift.get u).driver = some o ∧
          ((s.fault (.driverShort (.ls o))).held = true ∨ (s.fault (.driverOpen (.ls o))).held = true)
        ((t.tbm.layout.lift.get u).bound = true → stuck → (t'.lfs.units.get u).state = .stuck) ∧
        ∀ n, (t.tbm.layout.lift.get u).bound = true → (t.tbm.layout.lift.get u).sense = some n →
          let by_ : LiftState := if (s.lfs.senses.get n).high then .high else .low
          (¬ stuck → (t'.lfs.units.get u).state = by_) ∧
          (∀ h ∈ t'.liftNews u by_ (s.lfs.units.get u).state .run, h ∈ t'.handovers) ∧
          (stuck → ∀ h ∈ t'.liftNews u .stuck by_
            (if (s.fault (.liftNoConfirm u)).held then .noConfirm else .driver), h ∈ t'.handovers)) ∧
      t'.lfs.request = false ∧ t'.lfs.pair = none ∧ t'.lfs.senses = s.lfs.senses ∧
      (let agree := s.lfs.mismatchReported = true ∧ (t'.lfs.units.get .L1).state = (t'.lfs.units.get .L2).state ∧
          ((t'.lfs.units.get .L1).state = .high ∨ (t'.lfs.units.get .L1).state = .low);
        (agree → t'.lfs.mismatchReported = false ∧ .report .lfs .liftMismatch .gone ∈ t'.handovers) ∧
        (¬ agree → t'.lfs.mismatchReported = s.lfs.mismatchReported)) ∧
      t'.ceu.matching = false ∧ t'.ceu.partialCycle = false ∧ t'.ceu.refSeen = false ∧ t'.ceu.reportSent = false ∧
      (∀ ch, let r := s.ceu.chans.get ch
        ((t.tbm.layout.bind.get ch).bound = true → t'.ceu.chans.get ch = { CeuChan.reset with
          phase := r.phase, valid := r.valid, missingReported := r.missingReported
          patternReported := r.patternReported }) ∧
        ((t.tbm.layout.bind.get ch).bound = false → t'.ceu.chans.get ch = { CeuChan.reset with phase := r.phase } ∧
          (r.missingReported = true → .report .ceu (.camMissing ch) .gone ∈ t'.handovers) ∧
          (r.patternReported = true → .report .ceu (.camPattern ch) .gone ∈ t'.handovers))) ∧
      t'.tga = { s.tga with chans := t'.tga.chans } ∧
      (∀ ch, let r := t'.tga.chans.get ch
        let may := (t.tbm.layout.bind.get ch).bound = true ∧ (s.tga.chans.get ch).response ≠ .park ∧ s.tga.fresh = .fresh
        r.mapOutput = none ∧ r.response = (s.tga.chans.get ch).response ∧
        (∀ o n c, may → s.tga.record = some o → o.targets.get ch = some n → t.tbm.layout.cam.get ch = some c →
          r.source = .host ∧ r.output = min n c.range ∧ .phcSource ch .host ∈ t'.handovers) ∧
        (¬ may ∨ (∀ o, s.tga.record = some o → o.targets.get ch = none) → r.source = .park ∧ r.output = 0)) ∧
      t'.fmg.table = s.fmg.table ∧ (∀ ch, t'.fmg.chanResponse.get ch = t'.chanResponseNow ch) ∧
      t'.trb = s.trb ∧ t'.cst = s.cst ∧ .notice .smc (.mod .run .standby s.ckt.cycles) ∈ t'.handovers ∧
      (∀ o d i, .dutyWrite o d i ∈ t'.handovers → d = 0 ∧ i = true ∧
        ∃ ch, (t.tbm.layout.bind.get ch).driver = some o ∧ (t'.phc.chans.get ch).state = .faulted) ∧
      ∀ o on, .solenoid o on ∉ t'.handovers

/-- MODE RUN where it is refused: in RUN with MODE; in STANDBY with LAYOUT where validation fails, the failed check
kept in the validation record; a field count or word other than RUN or STANDBY with FORMAT. RSET: refused with FORMAT
with any field, with NOT_ARMED unless the arm record names RESET; accepted it is answered OK and the reset is asked
for. The arm record is emptied each time. Layout validation: the first of the twelve checks that fails names it, each
check on its first failing instance: what each fails on, the detail it names, and the fields that carry it. That the
detail's words and order are these is the model's choice (log 18). -/
def Obligations.ModeRunAndRsetRefusals : Prop :=
  (∀ (s t : State) (fields : List Field), s.begins .MODE fields t → fields ≠ [.word .STANDBY] →
      (fields ≠ [.word .RUN] → exec (.modeRun fields) s =
        .next (({ t with tbm := { t.tbm with validation := none } } : State).answer .MODE .format)) ∧
      (fields = [.word .RUN] → s.smc.mode = .run → exec (.modeRun fields) s =
        .next (({ t with tbm := { t.tbm with validation := none } } : State).answer .MODE .mode)) ∧
      (∀ f, fields = [.word .RUN] → s.smc.mode = .standby → validate t.tbm.layoutOrigin t.tbm.layout = some f →
        exec (.modeRun fields) s = .next
          (({ t with tbm := { t.tbm with validation := some f } } : State).answer .MODE .layout (failureFields f)))) ∧
  (∀ (s t : State) (fields : List Field), s.begins .RSET fields t →
      let t : State := { t with clp := { t.clp with arm := none } }
      (fields ≠ [] → exec (.rset fields) s = .next (t.answer .RSET .format)) ∧
      (fields = [] → (∀ x, s.clp.arm ≠ some (.reset, x)) → exec (.rset fields) s = .next (t.answer .RSET .notArmed)) ∧
      (∀ x, fields = [] → s.clp.arm = some (.reset, x) → exec (.rset fields) s =
        .next (({ t with smc := { t.smc with resetAsked := true } } : State).answer .RSET .ok))) ∧
  (∀ (o : Origin) (l : Layout),
    let first (p : Chan → Prop) (ch : Chan) : Prop := p ch ∧ ∀ c, chanNum c < chanNum ch → ¬ p c
    let firstUnit (p : LiftUnit → Prop) (u : LiftUnit) : Prop := p u ∧ ∀ v, unitNum v < unitNum u → ¬ p v
    let bound (ch : Chan) : Prop := (l.bind.get ch).cam ≠ none ∧ (l.bind.get ch).driver ≠ none
    let boundUnit (u : LiftUnit) : Prop := (l.lift.get u).driver ≠ none ∧ (l.lift.get u).sense ≠ none
    let partly (ch : Chan) : Prop := ¬ ((l.bind.get ch).cam = none ↔ (l.bind.get ch).driver = none)
    let partlyUnit (u : LiftUnit) : Prop := ¬ ((l.lift.get u).driver = none ↔ (l.lift.get u).sense = none)
    let references (ch : Chan) : Bool := (l.cam.get ch).any CamItem.reference
    let descent (ch : Chan) (k : Nat) : Prop := ∃ a b, 2 ≤ k ∧ (l.edges.get ch)[k - 2]? = some a ∧
      (l.edges.get ch)[k - 1]? = some b ∧ b.angle ≤ a.angle
    let tight (ch : Chan) (k : Nat) : Prop := ∃ c a b, l.cam.get ch = some c ∧ 1 ≤ k ∧
      (l.edges.get ch)[k - 1]? = some a ∧
      ((l.edges.get ch)[k]? = some b ∧ b.angle - a.angle < c.range + 2 * c.halfWidth + 1 ∨
        (l.edges.get ch)[k]? = none ∧ (l.edges.get ch)[0]? = some b ∧
          b.angle + 11520 - a.angle < c.range + 2 * c.halfWidth + 1)
    let owns (kind : ConflictKind) (n : Nat) (x : LineABCD) : Prop :=
      match kind with
      | .camin => ∃ ch, bound ch ∧ n = chanNum ch ∧ (l.bind.get ch).cam = some x
      | .ocv => ∃ ch, bound ch ∧ n = chanNum ch ∧ (l.bind.get ch).driver = some x
      | .ls => ∃ u, boundUnit u ∧ n = unitNum u ∧ (l.lift.get u).driver.map abOf = some x
      | .sense => ∃ u, boundUnit u ∧ n = unitNum u ∧ (l.lift.get u).sense.map abOf = some x
    let clash (kind : ConflictKind) (x : LineABCD) (a b : Nat) : Prop :=
      a < b ∧ owns kind a x ∧ owns kind b x ∧ (∀ c, a < c → c < b → ¬ owns kind c x) ∧
        ∀ y c d, c < a → c < d → owns kind c y → ¬ owns kind d y
    let free (kind : ConflictKind) : Prop := ∀ x a b, ¬ clash kind x a b
    let ahead (u : LiftUnit) (c : CamItem) (a : Option Nat) (p : Nat) : Int :=
      match c.dir with
      | .adv => ((a.getD 0 : Int) - (l.lift.get u).decision.getD 0 - p) % 11520
      | .ret => ((a.getD 0 : Int) - (l.lift.get u).decision.getD 0 + p) % 11520
    let open_ (u : LiftUnit) (c : CamItem) (p : Nat) : Int := ahead u c (l.lift.get u).windowOpen p
    let late (u : LiftUnit) : Prop := boundUnit u ∧ ∃ c p, l.cam.get (intake u) = some c ∧ (p = 0 ∨ p = c.range) ∧
      (ahead u c (l.lift.get u).windowClose p ≤ open_ u c p ∨ open_ u c p < 320)
    let count := 1 + ((allChans.filter fun ch => (l.bind.get ch).bound).map fun ch => (l.edges.get ch).length).sum +
      3 * (allUnits.filter fun u => (l.lift.get u).bound).length
    validate o l = [checkOrigin o, checkWheel l, checkCyl l, checkPartial l, checkChannel l, checkReference l, checkOrder l,
      checkOverlap l, checkConflict l, checkIntake l, checkLead l, checkCapacity l].findSome? id ∧
    checkOrigin o = (if o = .blank then some .origin else none) ∧
    (l.wheel = none → checkWheel l = some .wheelAbsent) ∧
    (∀ w, l.wheel = some w → checkWheel l =
      if w.positions - w.missing < 10 then some (.wheelTeeth (w.positions - w.missing)) else none) ∧
    checkCyl l = (if l.cyl = none then some .cyl else none) ∧
    (∀ f, checkPartial l = some f ↔ (∃ ch, f = .partialChan ch ∧ first partly ch) ∨
      ∃ u, f = .partialUnit u ∧ (∀ ch, ¬ partly ch) ∧ firstUnit partlyUnit u) ∧
    (∀ f, checkChannel l = some f ↔ ∃ ch, f = .channel ch ∧
      first (fun c => bound c ∧ (l.cam.get c = none ∨ l.edges.get c = [])) ch) ∧
    (∀ f, checkReference l = some f ↔
      (∃ n, f = .refCount n ∧ n ≠ 1 ∧ n = (allChans.filter references).length) ∨
      ∃ ch, (∀ c, references c = true ↔ c = ch) ∧ (f = .refUnbound ch ∧ ¬ bound ch ∨
        f = .refWide ch ∧ bound ch ∧ ∃ c, l.cam.get ch = some c ∧ 2880 ≤ c.range + 2 * c.halfWidth)) ∧
    (∀ f, checkOrder l = some f ↔ ∃ ch k, f = .order ch k ∧ first (fun c => bound c ∧ ∃ j, descent c j) ch ∧
      descent ch k ∧ ∀ j < k, ¬ descent ch j) ∧
    (∀ f, checkOverlap l = some f ↔ ∃ ch k, f = .overlap ch k ∧ first (fun c => bound c ∧ ∃ j, tight c j) ch ∧
      tight ch k ∧ ∀ j < k, ¬ tight ch j) ∧
    (∀ f, checkConflict l = some f ↔ ∃ kind x a b, f = .conflict kind x a b ∧ clash kind x a b ∧
      (kind ≠ .camin → free .camin) ∧ (kind = .ls ∨ kind = .sense → free .ocv) ∧ (kind = .sense → free .ls)) ∧
    (∀ f, checkIntake l = some f ↔ ∃ u, f = .intake u ∧ firstUnit (fun v => boundUnit v ∧ ¬ bound (intake v)) u) ∧
    (∀ f, checkLead l = some f ↔ ∃ u c n, f = .lead u n ∧ firstUnit late u ∧ l.cam.get (intake u) = some c ∧
      (n : Int) = min (open_ u c 0) (open_ u c c.range)) ∧
    checkCapacity l = if 32 < count then some (.capacity count) else none) ∧
  ∀ (ch : Chan) (u : LiftUnit) (k n a b : Nat) (kind : ConflictKind) (x : LineABCD),
    failureFields .origin = [.word .ORIGIN] ∧ failureFields .wheelAbsent = [.word .WHEEL, .word .WHEEL] ∧
    failureFields (.wheelTeeth n) = [.word .WHEEL, .num n] ∧ failureFields .cyl = [.word .CYL] ∧
    failureFields (.partialChan ch) = [.word .PARTIAL, .word .CH, .num (chanNum ch)] ∧
    failureFields (.partialUnit u) = [.word .PARTIAL, .word .LIFT, .num (unitNum u)] ∧
    failureFields (.channel ch) = [.word .CHANNEL, .num (chanNum ch)] ∧
    failureFields (.refCount n) = [.word .REFERENCE, .num n] ∧
    failureFields (.refUnbound ch) = [.word .REFERENCE, .word .CH, .num (chanNum ch)] ∧
    failureFields (.refWide ch) = [.word .REFERENCE, .word .EDGE, .num (chanNum ch)] ∧
    failureFields (.order ch k) = [.word .ORDER, .num (chanNum ch), .num k] ∧
    failureFields (.overlap ch k) = [.word .OVERLAP, .num (chanNum ch), .num k] ∧
    failureFields (.conflict kind x a b) = [.word .CONFLICT, .word (conflictWord kind), .word (abcdWord x), .num a, .num b] ∧
    failureFields (.intake u) = [.word .INTAKE, .num (unitNum u)] ∧
    failureFields (.lead u n) = [.word .LEAD, .num (unitNum u), .num n] ∧
    failureFields (.capacity n) = [.word .CAPACITY, .num n]

/-- MODE STANDBY: in STANDBY nothing changes but the emptied validation record; in RUN with the tracker not STOPPED it
is refused with STATE; with the tracker STOPPED RUN is left, tests end, every output is disabled, the plan is emptied,
and the channels, the units and the Cam Edge Unit stand as lock lost leaves them, whether or not they have taken the
notification: a channel that drives goes to PARKING, a unit in a wait or move state settles by its sense, and nothing of
the ended lock or its schedule is still on its way to them, to the scheduler or to the arbiter. That is the model's
reading of "lock has already been lost" (log 45). -/
def Obligations.ModeStandbyLeavesRun : Prop :=
  ∀ (s t : State) (seen : LoadSeen), s.begins .MODE [.word .STANDBY] t →
    (s.smc.mode = .standby → exec (.modeStandby [.word .STANDBY] seen) s =
      .next (({ t with tbm := { t.tbm with validation := none } } : State).answer .MODE .ok)) ∧
    (s.smc.mode = .run → s.ckt.state ≠ .stopped → exec (.modeStandby [.word .STANDBY] seen) s =
      .next (({ t with tbm := { t.tbm with validation := none } } : State).answer .MODE .state)) ∧
    (s.smc.mode = .run → s.ckt.state = .stopped →
      ∃ t', exec (.modeStandby [.word .STANDBY] seen) s = .next t' ∧
        t'.smc = { s.smc with mode := .standby } ∧ t'.now = s.now ∧ t'.asc = ⟨[], []⟩ ∧ t'.ckt = s.ckt ∧
        t'.tbm = { t.tbm with validation := none } ∧ t'.fmg = s.fmg ∧ t'.trb = s.trb ∧ t'.cst = s.cst ∧
        t'.clp = t.clp.answer (.kw .MODE) .ok [] ∧
        t'.ceu.matching = false ∧ t'.ceu.partialCycle = false ∧ t'.ceu.refSeen = false ∧
        t'.ceu.reportSent = s.ceu.reportSent ∧ t'.ceu.stamps = s.ceu.stamps ∧
        (∀ ch, t'.ceu.chans.get ch = { s.ceu.chans.get ch with
          valid := false, windows := List.replicate 6 ⟨false, false, none⟩, cycMatches := 0, cycStrays := 0
          noMatchRun := 0, strayRun := 0 }) ∧
        (∀ o, (t'.vdr.ocv.get o).enabled = false ∧ ((s.vdr.ocv.get o).enabled = true →
          (t'.vdr.ocv.get o).lineOn = false ∧ (t'.vdr.ocv.get o).openReported = false)) ∧
        (∀ o, (t'.vdr.ls.get o).enabled = false ∧ ((s.vdr.ls.get o).enabled = true →
          (t'.vdr.ls.get o).lineOn = false ∧ (t'.vdr.ls.get o).openReported = false)) ∧
        (∀ ch, let r := s.phc.chans.get ch
          let r' := t'.phc.chans.get ch
          let drives := r.state = .releasing ∨ r.state = .tracking ∨ r.state = .holding
          r'.presented = 0 ∧
          (drives → r'.state = .parking ∧ r'.duty = 0 ∧ r'.holds = .empty ∧ r'.parkCount = 0 ∧
            r'.timer = some (.park, s.now + ms (s.tbm.tuning.chan.get ch).parkMs)) ∧
          (r.state = .driveTest → r'.state = .parked ∧ r'.duty = 0 ∧ r'.timer = none) ∧
          (¬ drives → r.state ≠ .driveTest → r' = { r with presented := 0 })) ∧
        (∀ u, let r := s.lfs.units.get u
          let r' := t'.lfs.units.get u
          let moves := r.state ≠ .high ∧ r.state ≠ .low ∧ r.state ≠ .stuck
          r'.test = none ∧
          (r.test = none → ¬ moves → r' = r) ∧
          (moves → r'.claim = false ∧ r'.attempts = 0 ∧ r'.travel = none) ∧
          ∀ n, r.test ≠ none ∨ moves → (s.tbm.layout.lift.get u).sense = some n →
            r'.state = if (s.lfs.senses.get n).high then .high else .low) ∧
        (∀ b, .ascLock b ∉ t'.handovers ∧ .ceuLock b ∉ t'.handovers) ∧ (∀ ch, .phcLockLost ch ∉ t'.handovers) ∧
        (∀ u, .lfsLockLost u ∉ t'.handovers) ∧ (∀ k a c, .liftEntry k a c ∉ t'.handovers) ∧
        (∀ ch k a c, .ceuEdgeClose ch k a c ∉ t'.handovers) ∧
        (∀ a c, .ceuCycleStart a c ∉ t'.handovers ∧ .tgaCycleStart a c ∉ t'.handovers) ∧
        (∀ ch, (t'.tga.chans.get ch).source = .park ∧ (t'.tga.chans.get ch).output = 0 ∧
          (t'.tga.chans.get ch).mapOutput = none) ∧
        .notice .smc (.mod .standby .run s.ckt.cycles) ∈ t'.handovers)

/-! ### The port -/

/-- A single-line reply is one line owed, the keyword with the status code and the fields; a status other than OK or
ACCEPTED is kept in the last-refusal record with the keyword. A run is its lines with an end line that counts them.
The notices waiting stay, and so does what else the port keeps: the line under assembly, the buffer, whether its head
is being answered, the request dispatched, the mask, the three flags and the arm record. -/
def Obligations.RepliesAreOwedInFull : Prop :=
  ∀ (c : Clp) (key : LineKey) (st : Status) (fields : List Field) (lines : List (List Field)),
    (c.answer key st fields).owed = c.owed ++ [⟨.reply, key, .word st.token :: fields⟩] ∧
    (c.answer key st fields).lastRefusal = (if st = .ok ∨ st = .accepted then c.lastRefusal else some (key, st)) ∧
    (∀ d : Clp, d = c.answer key st fields ∨ d = c.answerRun key lines → d.queue = c.queue ∧ d.buffer = c.buffer ∧
      d.rx = c.rx ∧ d.answering = c.answering ∧ d.request = c.request ∧ d.mask = c.mask ∧ d.overlap = c.overlap ∧
      d.dropped = c.dropped ∧ d.lineError = c.lineError ∧ d.arm = c.arm) ∧
    (c.answerRun key lines).owed =
      c.owed ++ lines.map (fun f => Line.mk .reply key f) ++ [⟨.reply, key, [.word .END, .num lines.length]⟩] ∧
    (c.answerRun key lines).lastRefusal = c.lastRefusal

/-- Received characters are put together into a line: the first begins it, a gap of more than 5 ms drops what came
before and sets LINE_ERROR, the 321st and later ones make it a long entry, a character that is not printable marks it
bad. The gap is not timed in a line begun in INIT: the model's choice (log 20). CR LF ends the line under assembly: it
takes a place in the buffer where one is free, else it is dropped and OVERLAP is set; a line begun in INIT is dropped
without a trace; a line after whose last character more than 5 ms passed is dropped with LINE_ERROR: that the time
before the CR LF counts as a gap in the line is the model's choice (log 20); with no character since the line before
nothing completes: the model's choice (log 20). -/
def Obligations.CharactersMakeLinesThatTakePlaces : Prop :=
  ((∀ (s : State) (dt : Nat) (x : Byte), s.smc.inReset = false →
      let now := s.now + dt
      let bad := !(decide (0x20#8 ≤ x) && decide (x ≤ 0x7E#8))
      let fresh : Assembly := ⟨[x], false, bad, s.smc.mode == .init, now⟩
      (s.clp.rx = none → exec (.characterReceived dt x) s =
        .next { s with now := now, clp := { s.clp with rx := some fresh } }) ∧
      (∀ a, s.clp.rx = some a → a.fromInit = false → a.last + ms 5 < now → exec (.characterReceived dt x) s =
        .next { s with now := now, clp := { s.clp with rx := some fresh, lineError := true } }) ∧
      (∀ a, s.clp.rx = some a → a.fromInit = true ∨ now ≤ a.last + ms 5 → a.codes.length < 320 →
        exec (.characterReceived dt x) s = .next { s with
          now := now
          clp := { s.clp with rx := some { a with codes := a.codes ++ [x], bad := a.bad || bad, last := now } } }) ∧
      (∀ a, s.clp.rx = some a → a.fromInit = true ∨ now ≤ a.last + ms 5 → 320 ≤ a.codes.length →
        exec (.characterReceived dt x) s = .next { s with
          now := now
          clp := { s.clp with rx := some { a with long := true, last := now } } })) ∧
    ∀ (s : State) (a : Assembly), s.clp.rx = some a → a.fromInit = false →
      exec .lineGapTimeout s = .next { s with
        now := max s.now (a.last + ms 5 + 1), clp := { s.clp with rx := none, lineError := true } }) ∧
  (∀ (s : State) (dt : Nat), s.smc.inReset = false →
      let now := s.now + dt
      (s.clp.rx = none → exec (.lineComplete dt) s = .next { s with now := now }) ∧
      ∀ a, s.clp.rx = some a →
        (a.fromInit = true → exec (.lineComplete dt) s =
          .next { s with now := now, clp := { s.clp with rx := none } }) ∧
        (a.fromInit = false → a.last + ms 5 < now → exec (.lineComplete dt) s =
          .next { s with now := now, clp := { s.clp with rx := none, lineError := true } }) ∧
        (a.fromInit = false → now ≤ a.last + ms 5 → s.clp.buffer.length < 2 → exec (.lineComplete dt) s =
          .next { s with
            now := now
            clp := { s.clp with rx := none, buffer := s.clp.buffer ++ [⟨a.codes, a.long, a.bad⟩] } }) ∧
        (a.fromInit = false → now ≤ a.last + ms 5 → 2 ≤ s.clp.buffer.length → exec (.lineComplete dt) s =
          .next { s with now := now, clp := { s.clp with rx := none, overlap := true } }))

/-- A line is taken where requests are taken and the reply before is sent in full: a line that passes the checks is
dispatched as a request, another is answered and sets LINE_ERROR; every line but RSET, LOCK and CLRL empties the arm
record.
The checks on a line, in their order: long; bad, or not a '>' at its head and at its end a '*' with two hexadecimal
digits of either case; checksum; keyword of four capital letters; keyword known. -/
def Obligations.LinesAreTakenAndCheckedInOrder : Prop :=
  (∀ (s : State) (l : RxLine) (rest : List RxLine), s.takesRequests = true → s.clp.free = true →
      s.clp.buffer = l :: rest →
      (∀ r, checkLine l = .request r → exec .lineTaken s = .next { s with clp := { s.clp with
        answering := true
        request := some r
        arm := if r.key = .RSET ∨ r.key = .LOCK ∨ r.key = .CLRL then s.clp.arm else none } }) ∧
      (∀ key st, checkLine l = .refuse key st →
        let c : Clp := { s.clp with answering := true, lineError := true, arm := none }
        exec .lineTaken s = .next { s with clp := c.answer key st [] })) ∧
  (∀ l : RxLine,
      (l.long = true → checkLine l = .refuse .dashes .long) ∧
      (l.long = false → l.bad = true → checkLine l = .refuse .dashes .format) ∧
      let hex (c : Byte) (n : Nat) : Prop :=
        n < 10 ∧ c.toNat = 48 + n ∨ 10 ≤ n ∧ n < 16 ∧ (c.toNat = 55 + n ∨ c.toNat = 87 + n)
      let parts (body : List Byte) (sum : Byte) : Prop := ∃ (hi lo : Byte) (h n : Nat), hex hi h ∧ hex lo n ∧
        l.codes = 0x3E#8 :: body ++ [0x2A#8, hi, lo] ∧ sum.toNat = 16 * h + n
      (l.long = false → l.bad = false → (∀ body sum, ¬ parts body sum) → checkLine l = .refuse .dashes .format) ∧
      ∀ body sum, l.long = false → l.bad = false → parts body sum →
        (checksum body ≠ sum → checkLine l = .refuse .dashes .check) ∧
        (checksum body = sum → ∀ key rest, splitSpaces body = key :: rest →
          ((key.length ≠ 4 ∨ ¬ key.all capital) → checkLine l = .refuse .dashes .format) ∧
          (key.length = 4 → key.all capital = true → (∀ k, keywordCodes k ≠ key) →
            checkLine l = .refuse (.raw key) .unknown) ∧
          (∀ k, key = keywordCodes k → checkLine l = .request ⟨k, rest.map readField⟩)))

/-- A line on TXD ends: the next line of the reply begins, else, the place of the line answered in full being free, the
oldest notice waiting, else nothing. -/
def Obligations.RepliesGoOutBeforeNotices : Prop :=
  ∀ (s : State) (dt : Nat) (x : Sending), s.clp.sending = some x →
    let done := s.clp.answering && s.clp.replies.isEmpty && s.clp.request.isNone
    let place : Clp := if done then { s.clp with answering := false, buffer := s.clp.buffer.tail } else s.clp
    (∀ l more, s.clp.replies = l :: more → exec (.lineSent dt) s = .next { s with
      now := s.now + dt, clp := { place with sending := some (.reply l), replies := more } }) ∧
    (∀ n more, s.clp.replies = [] → s.clp.queue = n :: more → exec (.lineSent dt) s = .next { s with
      now := s.now + dt, clp := { place with sending := some (.notice n), queue := more } }) ∧
    (s.clp.replies = [] → s.clp.queue = [] → exec (.lineSent dt) s = .next { s with
      now := s.now + dt, clp := { place with sending := none } })

/-- A notice handed in is discarded where its kind is masked, dropped with NOTICES_DROPPED where 8 wait, else queued; an
idle transmitter with no reply to send begins the oldest at once. -/
def Obligations.NoticesAreMaskedQueuedOrDropped : Prop :=
  ∀ (s t : State) (src : Block) (n : Notice), s.offers (.notice src n) t →
    (t.clp.mask.on (noticeKind n) = false → exec (.noticeHandedIn src) s = .next t) ∧
    (t.clp.mask.on (noticeKind n) = true → 8 ≤ t.clp.queue.length → exec (.noticeHandedIn src) s =
      .next { t with clp := { t.clp with dropped := true } }) ∧
    (t.clp.mask.on (noticeKind n) = true → t.clp.queue.length < 8 → t.clp.sending.isSome = true →
      exec (.noticeHandedIn src) s = .next { t with clp := { t.clp with queue := t.clp.queue ++ [n] } }) ∧
    (t.clp.mask.on (noticeKind n) = true → t.clp.queue.length < 8 → t.clp.sending = none → t.clp.replies = [] →
      ∃ m rest, t.clp.queue ++ [n] = m :: rest ∧ exec (.noticeHandedIn src) s =
        .next { t with clp := { t.clp with sending := some (.notice m), queue := rest } })

/-- ARMS names one operation for 50 ms or is refused with FORMAT and leaves the record empty; the lapse empties it, but
for a request that was taken before it and reads it. The 50 ms run from the step that performs the ARMS, while a
request counts as taken from the step that takes its line: the model's choice (log 50). STAT is answered with ten
lines, read as the part stands as it is taken, and clears the three line flags, the last-refusal record, the validation
record and the mask left as they are (the order of the fields of a line: log 18); IDNT with the status and the identity
that the load found, each identity field "-" where there is none; either is refused with FORMAT with a field. NMSK:
fields that are not pairs of a notice name and ON or OFF (an odd count, an unknown name, another word) and pairs with a
name given twice are refused with FORMAT, RDY among the names with RANGE; else all the named kinds are set together and
the whole mask is answered. -/
def Obligations.ArmsStatIdntAndNmsk : Prop :=
  ((∀ (s t : State) (fields : List Field), s.begins .ARMS fields t →
      let armed (op : ArmOp) : Outcome :=
        .next (({ t with clp := { t.clp with arm := some (op, s.now + ms 50) } } : State).answer .ARMS .ok)
      t.clp.arm = none ∧
      (fields = [.word .RESET] → exec (.arms fields) s = armed .reset) ∧
      (fields = [.word .LOCK] → exec (.arms fields) s = armed .lock) ∧
      (fields = [.word .CLRL] → exec (.arms fields) s = armed .clrl) ∧
      (fields ≠ [.word .RESET] → fields ≠ [.word .LOCK] → fields ≠ [.word .CLRL] →
        exec (.arms fields) s = .next (t.answer .ARMS .format))) ∧
    ∀ (s : State) (op : ArmOp) (x : Time), s.clp.arm = some (op, x) →
      let taken := ∃ r, s.clp.request = some r ∧ (r.key = .RSET ∨ r.key = .LOCK ∨ r.key = .CLRL)
      (¬ taken → exec .armLapse s = .next { s with now := max s.now x, clp := { s.clp with arm := none } }) ∧
      (taken → exec .armLapse s = .next s)) ∧
  (∀ (s t : State) (fields : List Field),
      (s.begins .STAT fields t →
        (fields ≠ [] → exec (.stat fields) s = .next (t.answer .STAT .format)) ∧
        let flag (b : Bool) : Field := .word (if b then .SET else .CLEAR)
        (fields = [] → exec (.stat fields) s = .next (State.answerRun
          { t with clp := { t.clp with overlap := false, dropped := false, lineError := false } } .STAT
          ([[.word (modeWord t.smc.mode), .word (resetWord t.smc.cause), .word (crankWord t.ckt.state), .num t.ckt.rpm,
              .num t.ckt.cycles.toNat],
            [.word (supplyWord t.smc.supplyState), .num t.smc.supply, .word (if t.fmg.flt then .ASSERTED else .RELEASED),
              .word (originWord t.tbm.layoutOrigin), .word (originWord t.tbm.tuningOrigin),
              .word (originWord t.tbm.responseOrigin)]] ++
          ([Chan.IN1, .EX1, .IN2, .EX2].map fun ch => [.word (chanStateWord (t.phc.chans.get ch).state),
            .num (t.phc.chans.get ch).presented, .num (t.ceu.chans.get ch).phase, flag (t.ceu.chans.get ch).valid,
            .num (t.phc.chans.get ch).duty, .word (sourceWord (t.tga.chans.get ch).source)]) ++
          ([LiftUnit.L1, .L2].map fun u => [.word (liftStateWord (t.lfs.units.get u).state)]) ++
          [[flag t.clp.overlap, flag t.clp.dropped, flag t.clp.lineError] ++
              (match t.clp.lastRefusal with
                | some (key, st) => [.other (keyCodes key), .word st.token]
                | none => [.absent, .absent]),
            match t.tbm.validation with
              | some f => failureFields f
              | none => [.absent]])))) ∧
      (s.begins .IDNT fields t →
        (fields ≠ [] → exec (.idnt fields) s = .next (t.answer .IDNT .format)) ∧
        (∀ i, fields = [] → t.cst.identity = some i → exec (.idnt fields) s = .next (t.answer .IDNT .ok
          [.word (regionStatusWord t.cst.identStatus), i.part, i.issue, i.serial, i.date])) ∧
        (fields = [] → t.cst.identity = none → exec (.idnt fields) s = .next (t.answer .IDNT .ok
          [.word (regionStatusWord t.cst.identStatus), .absent, .absent, .absent, .absent])))) ∧
  (∀ (s t : State) (fields : List Field), s.begins .NMSK fields t →
      let name (k : NoticeKind) : Token := match k with
        | .flt => .FLT
        | .syn => .SYN
        | .chs => .CHS
        | .lft => .LFT
        | .trc => .TRC
        | .sto => .STO
        | .mod => .MOD
        | .rdy => .RDY
      let spelled (pairs : List (NoticeKind × Bool)) : List Field :=
        pairs.flatMap fun p => [.word (name p.1), .word (if p.2 then .ON else .OFF)]
      ((∀ pairs, fields ≠ spelled pairs) → exec (.nmsk fields) s = .next (t.answer .NMSK .format)) ∧
      (∀ pairs, fields = spelled pairs → ¬ (pairs.map fun p => p.1).Nodup →
        exec (.nmsk fields) s = .next (t.answer .NMSK .format)) ∧
      ∀ pairs, fields = spelled pairs → (pairs.map fun p => p.1).Nodup →
        ((∃ b, (.rdy, b) ∈ pairs) → exec (.nmsk fields) s = .next (t.answer .NMSK .range)) ∧
        ((∀ b, (.rdy, b) ∉ pairs) → ∃ m : Mask,
          (∀ k b, (k, b) ∈ pairs → m.on k = b) ∧
          (∀ k, (∀ b, (k, b) ∉ pairs) → m.on k = t.clp.mask.on k) ∧
          exec (.nmsk fields) s = .next (({ t with clp := { t.clp with mask := m } } : State).answer .NMSK .ok
            [.word .FLT, onOff m.flt, .word .SYN, onOff m.syn, .word .CHS, onOff m.chs, .word .LFT, onOff m.lft,
              .word .TRC, onOff m.trc, .word .STO, onOff m.sto, .word .MOD, onOff m.mod])))

/-! ### The Crank Tracker -/

/-- CRK edges: ignored outside RUN; in RUN an edge whose interval lies below the minimum, or below a quarter of the last
interval, is discarded: it adds one to the noise tally, and the fourth is reported; nothing else changes.
The first edge in STOPPED is accepted without an interval: the stall timer starts, SEEKING is entered with no tooth
number and no clock, the start notification goes to the channels and the units, !SYN is handed in. -/
def Obligations.NoiseIsDiscardedAndSeekingBegins : Prop :=
  (∀ (s : State) (dt hold : Nat),
      (s.inRun = false → exec (.crkEdge dt hold) s = .next { s with now := s.now + dt }) ∧
      ∀ (w : Wheel) (last : Word32), s.inRun = true → s.tbm.inForce.wheel = some w → w.positions ≠ 0 →
        s.ckt.lastEdge = some last →
        let i := BitVec.ofNat 32 (s.now + dt) - last
        (i.toNat < 6666 / w.positions ∨ ∃ li, s.ckt.lastInterval = some li ∧ 4 * i.toNat < li.toNat) →
        (s.ckt.noiseTally ≠ 3 → exec (.crkEdge dt hold) s = .next { s with
          now := s.now + dt, ckt := { s.ckt with noiseTally := s.ckt.noiseTally + 1 } }) ∧
        (s.ckt.noiseTally = 3 → exec (.crkEdge dt hold) s = .next (State.sends
          { s with now := s.now + dt, ckt := { s.ckt with noiseTally := 4, noiseReported := true } }
          [.report .ckt .crankNoise .present]))) ∧
  (∀ (s : State) (dt hold : Nat) (w : Wheel), s.inRun = true → s.tbm.inForce.wheel = some w →
      s.ckt.state = .stopped → s.ckt.lastEdge = none →
      exec (.crkEdge dt hold) s = .next (State.sends
        { s with
          now := s.now + dt
          ckt := { s.ckt with
            state := .seeking
            lastEdge := some (BitVec.ofNat 32 (s.now + dt))
            intervalBefore := s.ckt.lastInterval
            lastInterval := none
            pitch := none
            tooth := none
            clock := none
            stall := some (s.now + dt + ms w.stallMs) } }
        (allChans.map Handover.phcStart ++ allUnits.map Handover.lfsStart ++
          [.notice .ckt (.syn .seeking .stopped .start s.ckt.rpm s.ckt.cycles)])))

/-- The part of an accepted edge that every state shares: times, intervals, stall timer, pitch period, the noise tally
at a gap edge; then in SEEKING the tooth number is counted, a gap edge starts the count anew, and the gap edge that
ends a count of T teeth brings CRANK_LOCKED with rpm and an angle clock anchored at tooth 1. -/
def Obligations.SeekingCountsTeethBetweenGaps : Prop :=
  ∀ (s : State) (dt hold : Nat) (w : Wheel) (last : Word32), s.inRun = true → s.tbm.inForce.wheel = some w →
    w.positions ≠ 0 → s.ckt.state = .seeking → s.ckt.lastEdge = some last →
    let tb := BitVec.ofNat 32 (s.now + dt)
    let i := tb - last
    6666 / w.positions ≤ i.toNat → (∀ li, s.ckt.lastInterval = some li → li.toNat ≤ 4 * i.toNat) →
    let gap : Bool := s.ckt.lastInterval.any fun b => decide (w.gapFactor * b.toNat ≤ 8 * i.toNat)
    let clean : Bool := s.ckt.noiseTally == 0 && s.ckt.lastGap.isSome && s.ckt.noiseReported
    let k : Ckt := { s.ckt with
      lastEdge := some tb
      intervalBefore := s.ckt.lastInterval
      lastInterval := some i
      stall := some (s.now + dt + ms w.stallMs)
      pitch := some (if gap then i.toNat / (w.missing + 1) else i.toNat) }
    let g : Ckt := { k with
      noiseTally := 0, noiseReported := k.noiseReported && !clean, tooth := some 1, lastGap := some tb }
    let news : List Handover := if clean then [.report .ckt .crankNoise .gone] else []
    (gap = false → exec (.crkEdge dt hold) s = .next { s with
      now := s.now + dt, ckt := { k with tooth := s.ckt.tooth.map fun n => if n < 63 then n + 1 else n } }) ∧
    (gap = true → s.ckt.tooth ≠ some w.teeth → exec (.crkEdge dt hold) s =
      .next (State.sends { s with now := s.now + dt, ckt := g } news)) ∧
    (∀ lg, gap = true → s.ckt.tooth = some w.teeth → s.ckt.lastGap = some lg → tb ≠ lg →
      let rpm := 120000000 / (tb - lg).toNat
      exec (.crkEdge dt hold) s = .next (State.sends
        { s with
          now := s.now + dt
          ckt := { g with
            state := .crankLocked
            rpm := rpm
            halfCandidate := none
            notSeen := 0
            clock := some ⟨⟨tb, w.toothAngle 1, w.spanAu 1, (i.toNat / (w.missing + 1)) * w.spanPitches 1⟩, none, 0⟩ } }
        (news ++ [.notice .ckt (.syn .crankLocked .seeking .teeth rpm s.ckt.cycles)])))

/-- A wrong tooth count in CRANK_LOCKED or CYCLE_LOCKED: SEEKING, with this gap kept where it is one, no clock, no
half candidate, the tallies and away seen clear, reference seen clear and no report sent, a reference report still on
its way ignored; from CYCLE_LOCKED with SYNC_SLIP and the lock-lost notification to every receiver. A right count in
CRANK_LOCKED or CYCLE_LOCKED: the tooth number goes on, at a gap edge rpm is set from the revolution time; the clock
stands at the tooth, anchored there with the span to the next and the time expected for it, the old anchor kept, and
the angles up to the tooth are passed: entries fire, the cycle starts, the reference report is sent, as State.passesTo
says. That a CRK_EDGE tells where a half slip within its stretch is taken is the model's choice (log 10). So are, in
State.passesTo and State.clockWent, the clock's lap, the bit of it that a report carries, and that a passage of cycle
angle 0 which lies after a report that ends the lock is counted always (log 11); that with an empty list a cycle's
start hands out nothing is the model's reading (log 31), and that the list of a lost lock, until the scheduler has
taken its lock lost, fires under a new one is the model's choice (log 58). -/
def Obligations.WrongCountsEndTheLockRightOnesMoveTheClock : Prop :=
  (∀ (s : State) (dt hold : Nat) (w : Wheel) (i : Word32), s.inRun = true → s.tbm.inForce.wheel = some w →
      s.ckt.classify w (BitVec.ofNat 32 (s.now + dt)) = .accepted (some i) →
      s.ckt.state = .crankLocked ∨ s.ckt.state = .cycleLocked →
      let tb := BitVec.ofNat 32 (s.now + dt)
      let gap : Bool := s.ckt.lastInterval.any fun b => decide (w.gapFactor * b.toNat ≤ 8 * i.toNat)
      (gap = true ∧ s.ckt.tooth ≠ some w.teeth ∨ gap = false ∧ s.ckt.tooth = some w.teeth) →
      ∃ t, exec (.crkEdge dt hold) s = .next t ∧
        t.ckt.state = .seeking ∧ t.ckt.tooth = (if gap then some 1 else none) ∧
        t.ckt.lastGap = (if gap then some tb else s.ckt.lastGap) ∧ t.ckt.clock = none ∧ t.ckt.halfCandidate = none ∧
        t.ckt.notSeen = 0 ∧ t.ckt.awaySeen = false ∧ t.ckt.wrongHalf = 0 ∧ t.ckt.lastEdge = some tb ∧ t.ckt.stall = some (s.now + dt + ms w.stallMs) ∧
        t.ckt.rpm = s.ckt.rpm ∧ t.ckt.cycles = s.ckt.cycles ∧ t.ckt.missingReported = s.ckt.missingReported ∧
        t.ceu = { s.ceu with refSeen := false, reportSent := false } ∧
        (∃ pre, t.handovers = (s.handovers.filter fun h => match h with
            | .referenceReport _ _ => false
            | _ => true) ++ pre ++
          (if s.ckt.state = .cycleLocked then
            [.report .ckt .syncSlip .event, .ascLock false, .ceuLock false] ++ allChans.map Handover.phcLockLost ++
              allUnits.map Handover.lfsLockLost ++ [.trbLockLost] else []) ++
          [.notice .ckt (.syn .seeking s.ckt.state .count s.ckt.rpm s.ckt.cycles)] ∧
          (pre = [] ∨ pre = [.report .ckt .crankNoise .gone])) ∧
        t = { s with now := s.now + dt, ckt := t.ckt, ceu := t.ceu, handovers := t.handovers }) ∧
  (∀ (s : State) (dt hold : Nat) (w : Wheel) (i : Word32) (c : AngleClock), s.inRun = true →
      s.tbm.inForce.wheel = some w → s.ckt.classify w (BitVec.ofNat 32 (s.now + dt)) = .accepted (some i) →
      s.ckt.state = .crankLocked ∨ s.ckt.state = .cycleLocked → s.ckt.clock = some c →
      let tb := BitVec.ofNat 32 (s.now + dt)
      let gap : Bool := s.ckt.lastInterval.any fun b => decide (w.gapFactor * b.toNat ≤ 8 * i.toNat)
      let pitch := if gap then quotient i.toNat (w.missing + 1) else i.toNat
      let circle := if s.ckt.state = .cycleLocked then 11520 else 5760
      ∀ n, (gap = true ∧ s.ckt.tooth = some w.teeth ∧ n = 1 ∨
          gap = false ∧ s.ckt.tooth ≠ some w.teeth ∧ n = (if s.ckt.tooth.getD 0 < 63 then s.ckt.tooth.getD 0 + 1 else
            s.ckt.tooth.getD 0)) →
      let clean : Bool := gap && s.ckt.noiseTally == 0 && s.ckt.lastGap.isSome && s.ckt.noiseReported
      let v := (c.anchor.angle + c.reached) % circle
      let tooth := (c.anchor.angle + c.anchor.span) % circle
      ∃ q t : State, exec (.crkEdge dt hold) s = .next t ∧
        q = { s with
          now := s.now + dt, ckt := q.ckt
          handovers := s.handovers ++ if clean then [.report .ckt .crankNoise .gone] else [] } ∧
        q.ckt = { s.ckt with
          tooth := some n
          pitch := some pitch
          lastEdge := some tb
          lastInterval := some i
          intervalBefore := s.ckt.lastInterval
          stall := some (s.now + dt + ms w.stallMs)
          lastGap := if gap then some tb else s.ckt.lastGap
          noiseTally := if gap then 0 else s.ckt.noiseTally
          noiseReported := s.ckt.noiseReported && !clean
          rpm := q.ckt.rpm
          clock := some ⟨⟨tb, tooth, w.spanAu n, pitch * w.spanPitches n⟩, some c.anchor, 0⟩ } ∧
        (∀ lg, gap = true → s.ckt.lastGap = some lg → q.ckt.rpm = quotient 120000000 (tb - lg).toNat) ∧
        (gap = false → q.ckt.rpm = s.ckt.rpm) ∧
        q.passesTo t v (c.anchor.span - c.reached) tooth hold)

/-- The stall timer expires: STOPPED with the tracker record as after reset but for the cycle counter, noise reported
and missing reported, a reference report still on its way ignored; lock lost goes out where the tracker was
CYCLE_LOCKED; !SYN carries the cause STALL. The stopped notification is not among what is handed: it changes nothing at
its receivers, and that it is left out is the model's choice (log 27); so is the clock's lap, clear (log 11). -/
def Obligations.StallStopsTheTracker : Prop :=
  ∀ (s : State) (x : Time), s.ckt.stall = some x →
    exec .stallTimerExpiry s = .next (State.sends
      { s with
        now := max s.now x
        ckt := ⟨.stopped, none, none, none, none, none, none, none, none, 0, s.ckt.cycles, 0, s.ckt.noiseReported, none,
          0, s.ckt.missingReported, false, 0, false⟩
        ceu := { s.ceu with refSeen := false, reportSent := false }
        handovers := s.handovers.filter fun h => match h with
          | .referenceReport _ _ => false
          | _ => true }
      ((if s.ckt.state = .cycleLocked then
        [.ascLock false, .ceuLock false] ++ allChans.map Handover.phcLockLost ++ allUnits.map Handover.lfsLockLost ++
          [.trbLockLost] else []) ++
        [.notice .ckt (.syn .stopped s.ckt.state .stall 0 s.ckt.cycles)]))

/-- A reference report in CRANK_LOCKED: the not-seen tally and CAM_MISSING of the reference channel; the revolution's
half it proposes becomes the candidate, and where it differs from the candidate before it, the two agree:
CYCLE_LOCKED, lock gained to the scheduler and the Cam Edge Unit, !SYN with cause HALF. A reference report in
CYCLE_LOCKED: one in the away half is remembered; one in the home half counts a cycle as wrong where the away report
was SEEN and it is NOT_SEEN, else sets the tally to 0; the second wrong cycle in a row brings CRANK_LOCKED with
SYNC_SLIP and lock lost. The revolution and the half are those in which the report was sent: where the clock's lap
shows that the clock has gone on into the other half since, the half it now stands in is the other one. That a report
arrives at its sending is the model's choice (log 11); that a relabelled clock keeps its place is too (log 41). -/
def Obligations.ReportsLockTheCycleOrSlip : Prop :=
  (∀ (s t : State) (seen lap home : Bool) (ref : Chan) (cam : CamItem) (e : EdgeItem),
      s.offers (.referenceReport seen lap) t → t.ckt.state = .crankLocked →
      t.tbm.inForce.reference = some (ref, cam, e) → home = decide (5760 ≤ cam.windowEnd e.angle) →
      let proposal := if seen then home else !home
      let missing := !seen && decide (3 ≤ t.ckt.notSeen)
      let k : Ckt := { t.ckt with
        notSeen := if seen then 0 else t.ckt.notSeen + 1
        missingReported := !seen && t.ckt.missingReported || missing }
      let news : List Handover :=
        if seen && t.ckt.missingReported then [.report .ckt (.camMissing ref) .gone]
        else if missing then [.report .ckt (.camMissing ref) .present] else []
      (t.ckt.halfCandidate ≠ some (!proposal) → exec .referenceReport s =
        .next (State.sends { t with ckt := { k with halfCandidate := some proposal } } news)) ∧
      (∀ c, t.ckt.halfCandidate = some (!proposal) → t.ckt.clock = some c →
        ∃ c' : AngleClock,
          c'.value 11520 = (c.anchor.angle + c.reached) % 5760 + (if (proposal ^^ (t.ckt.lap ^^ lap)) then 5760 else 0) ∧
          c'.reached = c.reached ∧ c'.anchor.time = c.anchor.time ∧ c'.anchor.span = c.anchor.span ∧
          exec .referenceReport s = .next (State.sends
            { t with ckt := { k with state := .cycleLocked, clock := some c', wrongHalf := 0, awaySeen := false } }
            (news ++ [.ascLock true, .ceuLock true,
              .notice .ckt (.syn .cycleLocked .crankLocked .half t.ckt.rpm t.ckt.cycles)])))) ∧
  (∀ (s t : State) (seen lap home : Bool) (ref : Chan) (cam : CamItem) (e : EdgeItem) (c : AngleClock),
      s.offers (.referenceReport seen lap) t → t.ckt.state = .cycleLocked → t.ckt.clock = some c →
      t.tbm.inForce.reference = some (ref, cam, e) → home = decide (5760 ≤ cam.windowEnd e.angle) →
      let second := decide (5760 ≤ (c.anchor.angle + c.reached) % 11520) ^^ (t.ckt.lap ^^ lap)
      let gone := seen && t.ckt.missingReported
      let k : Ckt := { t.ckt with missingReported := t.ckt.missingReported && !gone }
      let news : List Handover := if gone then [.report .ckt (.camMissing ref) .gone] else []
      let wrong := if t.ckt.awaySeen && !seen then t.ckt.wrongHalf + 1 else 0
      (second ≠ home → exec .referenceReport s = .next (State.sends { t with ckt := { k with awaySeen := seen } } news)) ∧
      (second = home → wrong < 2 → exec .referenceReport s =
        .next (State.sends { t with ckt := { k with wrongHalf := wrong, awaySeen := false } } news)) ∧
      (second = home → 2 ≤ wrong → ∃ c' : AngleClock,
        c'.value 5760 = (c.anchor.angle + c.reached) % 5760 ∧
        exec .referenceReport s = .next (State.sends
          { t with ckt := { k with
            state := .crankLocked, clock := some c', halfCandidate := none, notSeen := 0, awaySeen := false
            wrongHalf := 0 } }
          (news ++ [.report .ckt .syncSlip .event, .ascLock false, .ceuLock false] ++ allChans.map Handover.phcLockLost ++
            allUnits.map Handover.lfsLockLost ++
            [.trbLockLost, .notice .ckt (.syn .crankLocked .cycleLocked .halfSlip t.ckt.rpm t.ckt.cycles)]))))

/-! ### The angle clock and the Angle Schedule -/

/-- Between teeth the clock runs on, at most to one au short of the next tooth; with no clock, or at that place,
nothing happens. The time goes on to that at which the clock's formula first gives the angle, unless it stands there
or later. The angles are reached one by one: where the end of the reference window lies among them, first those before
it, then that angle, where the report is sent, then the rest. What the angles passed bring is as State.passesTo says:
in CYCLE_LOCKED the entries reached fire, each once and in list order, each handed to its owner with its angle and the
cycle counter, no entry of CYCLE_START among them; past cycle angle 0 the entries of the ending cycle fire first, then
CYCLE_START with the new count, then those of the new cycle, each placed anew. That the clock is moved by events, and
that an event tells where a half slip at the report's own angle is taken, is the model's choice (log 10). So are the
clock's lap, the bit of it that a report carries, and that a passage of cycle angle 0 after a report that ends the
lock is counted always (log 11); that with an empty list a cycle's start hands out nothing is the model's reading (log
31), and that the list of a lost lock, until the scheduler has taken its lock lost, fires under a new one is the
model's choice (log 58). In CYCLE_LOCKED, where neither cycle angle 0 nor a reference report lies in the stretch, the
step is exactly the firing of the entries due; in CRANK_LOCKED at the end of the reference window, exactly the report,
SEEN where reference seen is set. -/
def Obligations.EntriesFireAndReferencesAreReported : Prop :=
  (∀ (e : Entry) (cycle : Word32), e.handovers cycle =
      match e.kind with
      | .cycleStart => []
      | .edgeClose ch k => [.ceuEdgeClose ch k e.angle cycle]
      | .liftDecide u => [.liftEntry (.liftDecide u) e.angle cycle]
      | .liftOpen u => [.liftEntry (.liftOpen u) e.angle cycle]
      | .liftClose u => [.liftEntry (.liftClose u) e.angle cycle]) ∧
  (∀ (s : State) (au hold : Nat),
      (s.ckt.clock = none → exec (.angleClockReach au hold) s = .next s) ∧
      ∀ c, s.ckt.clock = some c →
        let n := min au (c.anchor.span - 1 - c.reached)
        let circle := if s.ckt.state = .cycleLocked then 11520 else 5760
        let v := (c.anchor.angle + c.reached) % circle
        (n = 0 → exec (.angleClockReach au hold) s = .next s) ∧
        let now := s.now + (c.anchor.reachTime (c.reached + n) - (BitVec.ofNat 32 s.now - c.anchor.time).toNat)
        let q : State := { s with now := now }
        let closes (d : Nat) : Prop :=
          1 ≤ d ∧ d ≤ n ∧ d ≤ 5760 ∧ s.tbm.inForce.reportAngle = some ((v + d) % 5760)
        (n ≠ 0 → ∃ t : State, exec (.angleClockReach au hold) s = .next t ∧
          ((∀ d, ¬ closes d) → q.runsTo t n 0) ∧
          ∀ d, closes d → ∃ a b : State, q.runsTo a (d - 1) 0 ∧ a.runsTo b 1 hold ∧ b.runsTo t (n - d) 0) ∧
        (n ≠ 0 → s.ckt.state = .cycleLocked → s.reportDue v n = none → v + n < 11520 →
          exec (.angleClockReach au hold) s = .next (State.sends
            { s with
              now := now
              ckt := { s.ckt with
                clock := some { c with reached := c.reached + n }
                lap := s.ckt.lap ^^ decide (v < 5760 ∧ 5760 ≤ v + n) }
              asc := { s.asc with entries := s.asc.entries.map fun e =>
                if !e.fired && decide (e.angle ≤ v + n) then { e with fired := true } else e } }
            ((s.asc.entries.filter fun e => !e.fired && decide (e.angle ≤ v + n)).flatMap
              (Entry.handovers s.ckt.cycles))))) ∧
  (∀ (s : State) (c : AngleClock) (hold w : Nat), s.ckt.clock = some c → s.ckt.state = .crankLocked →
      c.reached + 1 < c.anchor.span → s.tbm.inForce.reportAngle = some w → w < 5760 →
      let v := (c.anchor.angle + c.reached) % 5760
      let lap : Bool := s.ckt.lap ^^ decide (v = 5759)
      let now := s.now + (c.anchor.reachTime (c.reached + 1) - (BitVec.ofNat 32 s.now - c.anchor.time).toNat)
      (w = (v + 1) % 5760 → exec (.angleClockReach 1 hold) s = .next (State.sends
        { s with
          now := now, ckt := { s.ckt with clock := some { c with reached := c.reached + 1 }, lap := lap }
          ceu := { s.ceu with refSeen := false, reportSent := true } }
        [.referenceReport s.ceu.refSeen lap])) ∧
      (w ≠ (v + 1) % 5760 → exec (.angleClockReach 1 hold) s = .next
        { s with now := now, ckt := { s.ckt with clock := some { c with reached := c.reached + 1 }, lap := lap } })) ∧
  (∀ (a : Anchor) (k : Nat), 0 < a.span →
      k * a.expected ≤ a.reachTime k * a.span ∧ ∀ m, k * a.expected ≤ m * a.span → a.reachTime k ≤ m)

/-- Lock gained builds the list: the entries of the plan at their angles now, those at or below the clock marked
fired, in ascending order of angle; entries that share an angle by kind, CYCLE_START, LIFT_CLOSE, EDGE_CLOSE,
LIFT_DECIDE, LIFT_OPEN; those of one kind by channel and then edge, or by unit. Where the lock is already lost again
and the clock is absent, every entry is marked fired, and a clock that is a revolution angle again is compared with as
it stands: the model's choice (log 43). Lock lost empties the list, as it is taken, and keeps the plan; that the list
stands until then, under a new lock too, is the model's choice (log 58). Where an entry is placed: a fixed entry at
its angle of the plan; a moving one moved by the intake channel's measured phase clamped to 0 and the range, 0 where
it is not valid; earlier for ADV, later for RET. That a build which finds a record valid places by it too, where R46
and R55 speak of phase 0, is the model's choice (log 55). The order at one angle serves the owners: an EDGE_CLOSE is
not taken while a LIFT_CLOSE of its angle and cycle is still on its way, and a LIFT_DECIDE not while an EDGE_CLOSE of
its unit's intake channel of its angle and cycle is, or the measurement missing that came of one. That "told before"
is read as taken before is the model's reading (log 2). -/
def Obligations.TheScheduleFollowsLockAndPhase : Prop :=
  (∀ s t : State,
      (s.offers (.ascLock true) t → ∃ l,
        exec .ascLockGained s = .next { t with asc := { t.asc with entries := l } } ∧
        (∀ v, t.clockValue = some v →
          l.Perm (t.asc.plan.map fun p => ⟨t.placedAngle p, p.kind, decide (t.placedAngle p ≤ v)⟩)) ∧
        (t.clockValue = none → l.Perm (t.asc.plan.map fun p => ⟨t.placedAngle p, p.kind, true⟩)) ∧
        let rank (k : EntryKind) : Nat := match k with
          | .cycleStart => 0
          | .liftClose _ => 1
          | .edgeClose _ _ => 2
          | .liftDecide _ => 3
          | .liftOpen _ => 4
        let major (k : EntryKind) : Nat := match k with
          | .cycleStart => 0
          | .edgeClose ch _ => chanNum ch
          | .liftDecide u | .liftOpen u | .liftClose u => unitNum u
        let minor (k : EntryKind) : Nat := match k with
          | .edgeClose _ e => e
          | _ => 0
        l.Pairwise (fun a b => a.angle < b.angle ∨ a.angle = b.angle ∧
          (rank a.kind < rank b.kind ∨ rank a.kind = rank b.kind ∧
            (major a.kind < major b.kind ∨ major a.kind = major b.kind ∧ minor a.kind ≤ minor b.kind)))) ∧
      (s.offers (.ascLock false) t → exec .ascLockLost s = .next { t with asc := { t.asc with entries := [] } })) ∧
  (∀ (s : State) (pre post : List Handover) (u v : LiftUnit) (ch : Chan) (k a : Nat) (c : Word32),
      (s.handovers = pre ++ .ceuEdgeClose ch k a c :: post →
        (∀ x ∈ pre, (∀ c' k' a' n, x ≠ .ceuEdgeClose c' k' a' n) ∧ ∀ a' n, x ≠ .ceuCycleStart a' n) →
        .liftEntry (.liftClose v) a c ∈ s.handovers → exec .ceuEdgeClose s = .next s) ∧
      (s.handovers = pre ++ .liftEntry (.liftDecide u) a c :: post → (∀ x ∈ pre, ∀ k' a' n, x ≠ .liftEntry k' a' n) →
        (∃ e, .ceuEdgeClose (intake u) e a c ∈ s.handovers) ∨
          (∃ (e : Nat) (i : CamItem) (x : EdgeItem), .phcMissing (intake u) e c ∈ s.handovers ∧
            s.tbm.inForce.cam.get (intake u) = some i ∧ (s.tbm.inForce.edges.get (intake u))[e - 1]? = some x ∧
            a = match i.dir with
              | .adv => (x.angle + i.halfWidth) % 11520
              | .ret => (x.angle + (i.range + i.halfWidth)) % 11520) →
        exec (.lfsLiftDecide u) s = .next s)) ∧
  (∀ (s : State) (p : PlanEntry),
      (p.moves = none → s.placedAngle p = p.angle) ∧
      ∀ (u : LiftUnit) (g : Nat) (x : Nat), (p.kind = .liftOpen u ∨ p.kind = .liftClose u) →
        let r := s.ceu.chans.get (intake u)
        ((r.valid = false ∨ r.phase < 0) ∧ x = 0 ∨ r.valid = true ∧ 0 ≤ r.phase ∧ r.phase ≤ g ∧ (x : Int) = r.phase ∨
          r.valid = true ∧ (g : Int) < r.phase ∧ x = g) →
        (p.moves = some (.adv, g) → s.placedAngle p = (p.angle + 11520 - x % 11520) % 11520) ∧
        (p.moves = some (.ret, g) → s.placedAngle p = (p.angle + x) % 11520))

/-! ### The Cam Edge Unit -/

/-- A cam edge: ignored on an input of no bound channel, outside RUN, or with no angle clock. On the reference channel
it counts for the reference look, where it has the polarity of its first edge, lies in the reference window and is not
late: that is where no report has been sent since the clock became present, or the clock has not passed the window's
end from the edge's angle. With matching set, an edge in a window, in time, of the right polarity and the first there
is a match: window, tally, phase record, CAM_MISSING gone where it was reported or none was taken since the lock; the
match goes to the channel, the edge record to the Trace Buffer. Any other is a stray. An edge is late in its window
where the unit has taken the EDGE_CLOSE that ends the occurrence it belongs to. The occurrence is told by a cycle
count: that of the cycle in which the clock gives the edge its angle, and one more where the window straddles angle 0
and the edge lies before it. The edge's cycle is the latest anchor's, which is the present one less the passages of
angle 0 that the clock has made since, or that of the anchor before, with the passages between that anchor and the
edge; so it is the edge's own also where the edge lies ahead of the clock. That it is told so, and the lateness of the
look, read from the clock with the reports sent, are the model's choices (log 12), and so are the angle and the
occurrence with which an edge is placed after a half slip while matching is still set (log 44). An edge captured
before the last one taken on its input is none still to be taken: edges of one input come in the order of their time
stamps (log 42). The angle of an edge is the clock's value at its time stamp: from the latest anchor, or from the one
before where it is older, at that anchor's rate and at most one au short of its span, and that anchor's angle where it
is older still. Without a previous anchor it is the latest anchor's angle: the model's choice (log 32). -/
def Obligations.CamEdgesAreMatchesOrStrays : Prop :=
  (∀ (s : State) (t : Word32),
    (s.ckt.clock = none → s.angleAt t = none ∧ s.cycleAt t = none) ∧
    ∀ c, s.ckt.clock = some c →
      let age (x : Word32) : Nat := (BitVec.ofNat 32 s.now - x).toNat
      let circle := if s.ckt.state = .cycleLocked then 11520 else 5760
      let reading (a : Anchor) : Nat :=
        a.angle + min (quotient ((t - a.time).toNat * a.span) a.expected) (a.span - 1)
      let passages (angle : Nat) : Word32 := BitVec.ofNat 32 (angle / circle)
      let latest := s.ckt.cycles - passages (c.anchor.angle + c.reached)
      (age t ≤ age c.anchor.time → s.angleAt t = some (reading c.anchor % circle) ∧
        s.cycleAt t = some (latest + passages (reading c.anchor))) ∧
      (age c.anchor.time < age t →
        (c.previous = none → s.angleAt t = some c.anchor.angle ∧ s.cycleAt t = some latest) ∧
        ∀ p, c.previous = some p →
          let before := latest - passages (p.angle + p.span)
          (age t ≤ age p.time → s.angleAt t = some (reading p % circle) ∧
            s.cycleAt t = some (before + passages (reading p))) ∧
          (age p.time < age t → s.angleAt t = some p.angle ∧ s.cycleAt t = some before))) ∧
  ∀ (s : State) (dt age : Nat) (i : LineABCD) (pol : Polarity),
    let at_ := s.now + dt - age
    let p : State := { s with now := s.now + dt, ceu := { s.ceu with stamps := s.ceu.stamps.set i at_ } }
    let stamp : Word32 := BitVec.ofNat 32 at_
    (at_ < s.ceu.stamps.get i → exec (.camEdge dt age i pol) s = .next { s with now := s.now + dt }) ∧
    (s.ceu.stamps.get i ≤ at_ →
    (s.chanOfInput i = none ∨ s.inRun = false ∨ s.ckt.clock = none → exec (.camEdge dt age i pol) s = .next p) ∧
    ∀ ch a, s.chanOfInput i = some ch → s.inRun = true → p.angleAt stamp = some a →
      ∃ b : Bool,
        (b = true ↔ s.ceu.refSeen = true ∨ ∃ (c : CamItem) (e : EdgeItem) (v : Nat),
          s.tbm.inForce.reference = some (ch, c, e) ∧ s.clockValue = some v ∧
          e.pol = pol ∧ forward 5760 (c.windowStart e.angle % 5760) (a % 5760) ≤ c.width ∧
          (s.ceu.reportSent = false ∨ passedEnd 5760 a (c.windowEnd e.angle % 5760) (v % 5760) = false)) ∧
        let q : State := { p with ceu := { p.ceu with refSeen := b } }
        let r := s.ceu.chans.get ch
        (s.ceu.matching = false → exec (.camEdge dt age i pol) s = .next q) ∧
        ∀ c, s.ceu.matching = true → s.tbm.inForce.cam.get ch = some c →
          let late (k : Nat) (e : EdgeItem) : Prop := ∃ n, p.cycleAt stamp = some n ∧
            (r.window k).ended = some (if a ≤ c.windowEnd e.angle then n else n + 1)
          (∀ k e, windowOf c a 1 (s.tbm.inForce.edges.get ch) = some (k, e) → e.pol = pol →
            (r.window k).matched = false → ¬ late k e →
            ∃ phase : Int,
              -(c.halfWidth : Int) ≤ phase ∧ phase ≤ c.range + c.halfWidth ∧
              (c.dir = .adv → (11520 : Int) ∣ e.angle - a - phase) ∧
              (c.dir = .ret → (11520 : Int) ∣ a - e.angle - phase) ∧
              exec (.camEdge dt age i pol) s = .next (State.sends
                { q with ceu := { q.ceu with chans := q.ceu.chans.set ch { r with
                  windows := r.windows.set (k - 1) ⟨true, (r.window k).opened, (r.window k).ended⟩
                  cycMatches := if r.cycMatches < 255 then r.cycMatches + 1 else r.cycMatches
                  phase := phase
                  valid := true
                  missingReported := false
                  firstAfterLock := false } } }
                ((if r.missingReported || r.firstAfterLock then [.report .ceu (.camMissing ch) .gone] else []) ++
                  [.phcMatch ch k phase stamp s.ckt.cycles, .trbEdge ⟨i, pol, a, some (k, phase)⟩]))) ∧
          ((∀ k e, windowOf c a 1 (s.tbm.inForce.edges.get ch) = some (k, e) → e.pol ≠ pol ∨
              (r.window k).matched = true ∨ late k e) →
            exec (.camEdge dt age i pol) s = .next (State.sends
              { q with ceu := { q.ceu with chans := q.ceu.chans.set ch { r with
                cycStrays := if r.cycStrays < 255 then r.cycStrays + 1 else r.cycStrays } } }
              [.trbEdge ⟨i, pol, a, none⟩])))

/-- An EDGE_CLOSE with matching set ends its window's occurrence with both flags clear, keeping the cycle count it
carries, and a window that is neither matched nor partial has its measurement told missing; with matching clear it has
no effect. That a matched window's partial flag is cleared with it is the model's choice (log 34). The Cam Edge Unit
at lock gained: matching and partial cycle are set, the tallies of every channel are 0, and in a bound channel first
after lock is set and each window is unmatched, partial where the clock stands inside it other than at its end, and an
EDGE_CLOSE still on its way to the unit is dropped, since it was fired before the unit took the notification: the
model's reading (log 45). The occurrence kept as ended is then this cycle's for a window whose end lies at or below
the clock, else that of the cycle before; the count by which an ended occurrence is told is the model's own (log 12).
Where the lock is lost again by then, a clock that is absent gives no window partial and no occurrence ended, and one
that is a revolution angle again is read as it stands: the model's choice (log 59). At lock lost: matching, partial
cycle, reference seen, every valid flag, window flag, tally and run are cleared, while the phase and the reported
flags stay; entries of the schedule handed out before the notification and not yet taken are dropped, since they would
be handled as matching clear: the model's reading (log 35). -/
def Obligations.EdgeWindowsCloseAndLockClearsMatching : Prop :=
  (∀ (s t : State) (ch : Chan) (k angle : Nat) (cycle : Word32), s.offers (.ceuEdgeClose ch k angle cycle) t →
      let r := t.ceu.chans.get ch
      (t.ceu.matching = false → exec .ceuEdgeClose s = .next t) ∧
      (t.ceu.matching = true → exec .ceuEdgeClose s = .next (State.sends
        { t with ceu := { t.ceu with chans := t.ceu.chans.set ch { r with
          windows := r.windows.set (k - 1) ⟨false, false, some cycle⟩ } } }
        (if (r.window k).matched || (r.window k).opened then [] else [.phcMissing ch k cycle])))) ∧
  (∀ s t : State,
      (s.offers (.ceuLock true) t → ∃ x : PerChan CeuChan,
        exec .ceuLockGained s = .next { t with
          ceu := ⟨x, true, true, t.ceu.refSeen, t.ceu.reportSent, t.ceu.stamps⟩
          handovers := t.handovers.filter fun h => match h with
            | .ceuEdgeClose _ _ _ _ => false
            | _ => true } ∧
        ∀ ch, let r := t.ceu.chans.get ch
          (t.chanBound ch = false → x.get ch = { r with cycMatches := 0, cycStrays := 0 }) ∧
          (t.chanBound ch = true →
            x.get ch = { r with
              cycMatches := 0, cycStrays := 0, firstAfterLock := true, windows := (x.get ch).windows } ∧
            ∀ (c : CamItem) (k : Nat) (e : EdgeItem), t.tbm.inForce.cam.get ch = some c →
              (t.tbm.inForce.edges.get ch)[k]? = some e →
              ∃ (b : Bool) (n : Option Word32), (x.get ch).windows[k]? = some ⟨false, b, n⟩ ∧
                (b = true ↔ ∃ v, t.clockValue = some v ∧ c.contains e.angle v = true ∧ v ≠ c.windowEnd e.angle) ∧
                (t.clockValue = none → n = none) ∧
                ∀ v, t.clockValue = some v →
                  n = some (if c.windowEnd e.angle ≤ v then t.ckt.cycles else t.ckt.cycles - 1))) ∧
      ∀ pre post, s.handovers = pre ++ .ceuLock false :: post → (∀ b, .ceuLock b ∉ pre) →
        exec .ceuLockLost s = .next { s with
          ceu := ⟨s.ceu.chans.map fun _ r => { r with
            valid := false, windows := List.replicate 6 ⟨false, false, none⟩, cycMatches := 0, cycStrays := 0
            noMatchRun := 0, strayRun := 0 }, false, false, false, s.ceu.reportSent, s.ceu.stamps⟩
          handovers := (pre.filter fun h => match h with
            | .ceuEdgeClose _ _ _ _ => false
            | .ceuCycleStart _ _ => false
            | _ => true) ++ post })

/-- CYCLE_START at the Cam Edge Unit, with matching set: in every bound channel the valid flag falls after a cycle
without a match and the tallies start anew; after a full cycle the no-match run and the stray run go up or to 0,
CAM_MISSING is reported from the third, CAM_PATTERN from the fourth cycle on and gone after a clean one. That a
CYCLE_START taken with matching clear has no effect is the model's reading (log 35). -/
def Obligations.CycleStartJudgesTheChannels : Prop :=
  ∀ (s t : State) (angle : Nat) (cycle : Word32), s.offers (.ceuCycleStart angle cycle) t →
    (t.ceu.matching = false → exec .ceuCycleStart s = .next t) ∧
    (t.ceu.matching = true →
      let full := !t.ceu.partialCycle
      let noMatch (r : CeuChan) : Nat := if r.cycMatches = 0 then bump 255 r.noMatchRun else 0
      let strays (r : CeuChan) : Nat := if 2 ≤ r.cycStrays then bump 255 r.strayRun else 0
      let news (ch : Chan) : List Handover :=
        let r := t.ceu.chans.get ch
        if full && t.chanBound ch then
          (if 3 ≤ noMatch r then [.report .ceu (.camMissing ch) .present] else []) ++
            (if 4 ≤ strays r then [.report .ceu (.camPattern ch) .present]
              else if r.cycStrays < 2 ∧ (r.patternReported = true ∨ r.firstAfterLock = true) then
                [.report .ceu (.camPattern ch) .gone]
              else [])
        else []
      ∃ x : PerChan CeuChan,
        exec .ceuCycleStart s = .next (State.sends
          { t with ceu := ⟨x, true, false, t.ceu.refSeen, t.ceu.reportSent, t.ceu.stamps⟩ } (allChans.flatMap news)) ∧
        ∀ ch, let r := t.ceu.chans.get ch
          (t.chanBound ch = false → x.get ch = r) ∧
          (t.chanBound ch = true → full = false → x.get ch = { r with
            valid := r.valid && r.cycMatches != 0, cycMatches := 0, cycStrays := 0 }) ∧
          (t.chanBound ch = true → full = true → x.get ch = { r with
            valid := r.valid && r.cycMatches != 0
            cycMatches := 0
            cycStrays := 0
            noMatchRun := noMatch r
            strayRun := strays r
            missingReported := r.missingReported || decide (3 ≤ noMatch r)
            patternReported := decide (2 ≤ r.cycStrays) && (r.patternReported || decide (4 ≤ strays r))
            firstAfterLock := false }))

/-! ### The Phaser Controllers -/

/-- What the entries to a channel's states make of its record, and what they send: PARKING, FAULTED and LOCKOUT with
duty 0 at once, RELEASING with the release duty and its timer, HOLDING and TRACKING with the learned hold duty, the
end of a drive test. A hold limit period starts with SUPPLY or MEASURE; an entry to TRACKING under a response HOLD
goes on to HOLDING. -/
def Obligations.ChannelEntriesSetTheRecord : Prop :=
  ∀ (s : State) (ch : Chan) (cause : ChanCause),
    let r := s.phc.chans.get ch
    let y := s.tbm.tuning.chan.get ch
    let idle : StuckMonitor := { r.stuck with watching := false }
    let put (x : ChanRec) (l : List Handover) : State :=
      State.sends { s with phc := { s.phc with chans := s.phc.chans.set ch x } } l
    let tracked : State := put
      { r with
        state := .tracking, duty := r.learned, holds := .empty, timer := none, inBand := 0
        stuck := { idle with reference := (s.ceu.chans.get ch).phase } }
      (s.dutyNews ch r.learned false ++ s.chanNews ch .tracking r.state cause none)
    s.park ch cause = put
      { r with
        state := .parking, duty := 0, holds := .empty, stuck := idle, parkCount := 0
        timer := some (.park, s.now + ms y.parkMs) }
      (s.dutyNews ch 0 true ++ s.chanNews ch .parking r.state cause none) ∧
    s.faulted ch = put
      { r with state := .faulted, duty := 0, holds := .empty, stuck := idle, parkCount := 0, timer := none }
      (s.dutyNews ch 0 true ++ s.chanNews ch .faulted r.state .driver none) ∧
    s.lockOut ch = put { r with state := .lockout, duty := 0, parkCount := 0, timer := none }
      (s.dutyNews ch 0 true ++ s.chanNews ch .lockout r.state .double none) ∧
    s.release ch = put
      { r with
        state := .releasing, duty := y.releaseDuty, integral := 0, inBand := 0
        timer := some (.release, s.now + ms y.releaseMs) }
      (s.dutyNews ch y.releaseDuty false ++ s.chanNews ch .releasing r.state .release none) ∧
    (∀ c : HoldCause,
      let holds := HoldCauses.empty.put c true
      s.hold ch c = put
        { r with
          state := .holding, duty := r.learned, holds := holds, stuck := idle
          timer := if c = .supply ∨ c = .measure then some (.holdLimit, s.now + ms s.tbm.tuning.dev.holdLimitMs)
            else r.timer }
        (s.dutyNews ch r.learned false ++ s.chanNews ch .holding r.state .hold (some holds))) ∧
    (s.fmg.chanResponse.get ch ≠ .hold → s.track ch cause = tracked) ∧
    (s.fmg.chanResponse.get ch = .hold → s.track ch cause = tracked.hold ch .response) ∧
    (r.state = .driveTest → s.endTest ch cause = put { r with state := .parked, duty := 0, timer := none }
      (s.dutyNews ch 0 true ++ s.chanNews ch .parked .driveTest cause none)) ∧
    (r.state ≠ .driveTest → s.endTest ch cause = s)

/-- The release conditions. A PARKED channel releases where all hold and stays where one fails; a RELEASING channel
goes to PARKING where one fails other than rpm and oil pressure, with that one's cause, in an order that is the
model's choice (log 26); a channel in another state is left. That the supply state and a hold claim are read as they
stand, ahead of the handover of a change, is the model's choice too (log 24). -/
def Obligations.ReleaseConditionsDecideLeavingPark : Prop :=
  ∀ (s : State) (ch : Chan),
    let r := s.phc.chans.get ch
    let y := s.tbm.tuning.chan.get ch
    let locked := s.smc.mode = .run ∧ s.ckt.state = .cycleLocked
    let free := s.fmg.chanResponse.get ch ≠ .park
    let sourced := (s.tga.chans.get ch).source ≠ .park
    let beyond := y.parkTol < r.presented
    let driven := s.smc.supplyState ≠ .belowDrive
    let unclaimed := ∀ u, intake u = ch → (s.lfs.units.get u).claim = false
    let all := locked ∧ y.releaseRpm ≤ s.ckt.rpm ∧ (∃ o, s.tga.record = some o ∧ y.releaseKpa ≤ o.oilKpa) ∧ sourced ∧
      beyond ∧ free ∧ driven ∧ unclaimed
    (r.state = .parked → all → s.evaluate ch = s.release ch) ∧
    (r.state = .parked → ¬ all → s.evaluate ch = s) ∧
    (r.state = .releasing →
      (¬ locked → s.evaluate ch = s.park ch .lock) ∧
      (locked → ¬ free → s.evaluate ch = s.park ch .response) ∧
      (locked → free → ¬ sourced → s.evaluate ch = s.park ch .source) ∧
      (locked → free → sourced → ¬ beyond → s.evaluate ch = s.park ch .lost) ∧
      (locked → free → sourced → beyond → ¬ driven → s.evaluate ch = s.park ch .supply) ∧
      (locked → free → sourced → beyond → driven → ¬ unclaimed → s.evaluate ch = s.park ch .lost) ∧
      (locked → free → sourced → beyond → driven → unclaimed → s.evaluate ch = s)) ∧
    (r.state ≠ .parked → r.state ≠ .releasing → s.evaluate ch = s)

/-- What a channel does with a match, by its state. In PARKED, RELEASING and HOLDING the presented target moves toward
the arbiter output by at most SLEW first. In PARKING the second match in a row within PARK_TOL settles the channel.
The phase is read from the Cam Edge Unit's record as the match is taken (log 37). The control step of a TRACKING
channel: target step, error, integral and proportional terms, the duty clamped and written, hold learning, the stuck
monitor. -/
def Obligations.MatchesAndControlStepsDriveTheValve : Prop :=
  (∀ (s t : State) (ch : Chan) (k : Nat) (phase : Int) (stamp cycle : Word32),
      s.offers (.phcMatch ch k phase stamp cycle) t →
      let r := t.phc.chans.get ch
      let y := t.tbm.tuning.chan.get ch
      let out := (t.tga.chans.get ch).output
      let p :=
        if r.presented ≤ out then (if out - r.presented ≤ y.slew then out else r.presented + y.slew)
        else if r.presented - out ≤ y.slew then out
        else r.presented - y.slew
      let put (x : ChanRec) : State := { t with phc := { t.phc with chans := t.phc.chans.set ch x } }
      let near := (t.ceu.chans.get ch).phase ≤ y.parkTol
      let left : HoldCauses := { r.holds with measure := false }
      (r.state = .parked ∨ r.state = .releasing →
        exec (.phcMatch ch) s = .next ((put { r with presented := p }).evaluate ch)) ∧
      (r.state = .holding → left = .empty →
        exec (.phcMatch ch) s = .next ((put { r with presented := p }).track ch .resume)) ∧
      (r.state = .holding → left ≠ .empty → exec (.phcMatch ch) s =
        .next (put { r with presented := p, holds := left, timer := if left.supply then r.timer else none })) ∧
      (r.state = .parking → r.timer = none → exec (.phcMatch ch) s = .next t) ∧
      (r.state = .parking → r.timer ≠ none →
        (¬ near → exec (.phcMatch ch) s = .next (put { r with parkCount := 0 })) ∧
        (near → r.parkCount = 0 → exec (.phcMatch ch) s = .next (put { r with parkCount := 1 })) ∧
        (near → r.parkCount ≠ 0 → exec (.phcMatch ch) s = .next (State.sends
          (put { r with state := .parked, timer := none, parkCount := 0 })
          (t.chanNews ch .parked .parking .settled none)))) ∧
      (r.state = .unused ∨ r.state = .driveTest ∨ r.state = .faulted ∨ r.state = .lockout →
        exec (.phcMatch ch) s = .next t)) ∧
  (∀ (s t : State) (ch : Chan) (k : Nat) (phase : Int) (stamp cycle : Word32),
      s.offers (.phcMatch ch k phase stamp cycle) t → (t.phc.chans.get ch).state = .tracking →
      let r := t.phc.chans.get ch
      let y := t.tbm.tuning.chan.get ch
      let out := (t.tga.chans.get ch).output
      let p :=
        if r.presented ≤ out then (if out - r.presented ≤ y.slew then out else r.presented + y.slew)
        else if r.presented - out ≤ y.slew then out
        else r.presented - y.slew
      let f := (t.ceu.chans.get ch).phase
      let e : Int := p - f
      let i : Int := max (-(y.ilim : Int)) (min y.ilim (r.integral + (y.ki * e).tdiv 256))
      let sum : Int := r.learned + (y.kp * e).tdiv 16 + i
      let d : Nat := if sum < y.dmin then y.dmin else if y.dmax < sum then y.dmax else sum.toNat
      let near := e.natAbs ≤ y.deadband
      let m := r.stuck
      let moved := m.start < p ∧ m.start + y.moveMin ≤ f ∨ p < m.start ∧ f + y.moveMin ≤ m.start
      let stuck := m.watching = true ∧ ¬ near ∧ ¬ moved ∧ y.stuckCycles ≤ (cycle - m.startCycle).toNat
      exec (.phcMatch ch) s = .next (State.sends
        { t with phc := { t.phc with chans := t.phc.chans.set ch { r with
          presented := p
          integral := i
          duty := d
          inBand := if near ∧ r.inBand + 1 < 8 then r.inBand + 1 else 0
          learned :=
            if near ∧ 8 ≤ r.inBand + 1 then
              (if r.learned < d then r.learned + 1 else if d < r.learned then r.learned - 1 else r.learned)
            else r.learned
          stuck :=
            if near ∨ m.watching = true ∧ moved then { m with watching := false, reference := f }
            else if m.watching = false ∧ y.step ≤ ((p : Int) - m.reference).natAbs then
              { m with watching := true, start := f, startCycle := cycle }
            else if stuck then { m with start := f, startCycle := cycle }
            else m } } }
        (t.dutyNews ch d false ++ if stuck then [.report .phc (.phaserStuck ch) .event] else [])))

/-- Hold causes. A missing measurement, a claim, a supply below the drive floor, a response HOLD: TRACKING enters
HOLDING, HOLDING adds the cause, RELEASING parks on a claim or a low supply. A claim released, the supply back, a
response NONE: HOLDING loses the cause and with the last one tracks again; a channel in another state has its release
conditions evaluated. A match takes the cause MEASURE from a HOLDING channel, whose presented target moves toward the
arbiter output by at most SLEW first; with the last cause it tracks again, and the hold limit goes on only under
SUPPLY. -/
def Obligations.HoldCausesComeAndGo : Prop :=
  ∀ (s t : State) (ch : Chan),
    let r := t.phc.chans.get ch
    let put (x : ChanRec) : State := { t with phc := { t.phc with chans := t.phc.chans.set ch x } }
    let adds (c : HoldCause) : State :=
      if r.state = .tracking then t.hold ch c
      else if r.state = .holding then put { r with
        holds := r.holds.put c true
        timer := if (c = .supply ∨ c = .measure) ∧ r.holds.supply = false ∧ r.holds.measure = false then
          some (.holdLimit, t.now + ms t.tbm.tuning.dev.holdLimitMs) else r.timer }
      else t
    let loses (c : HoldCause) : State :=
      let left := r.holds.put c false
      if r.state = .holding then
        (if left = .empty then t.track ch .resume
          else put { r with holds := left, timer := if left.supply || left.measure then r.timer else none })
      else t.evaluate ch
    (∀ k cycle, s.offers (.phcMissing ch k cycle) t → exec (.phcMeasurementMissing ch) s = .next (adds .measure)) ∧
    (s.offers (.phcClaim ch true) t → exec (.phcClaimPlaced ch) s =
      .next (if r.state = .releasing then t.park ch .lost else adds .claim)) ∧
    (s.offers (.phcSupply ch .belowDrive) t → exec (.phcSupplyChange ch) s =
      .next (if r.state = .releasing then t.park ch .supply else adds .supply)) ∧
    (s.offers (.phcResponse ch .hold) t → exec (.phcResponseChange ch) s =
      .next (if r.state = .tracking ∨ r.state = .holding then adds .response else t.evaluate ch)) ∧
    (s.offers (.phcClaim ch false) t → exec (.phcClaimReleased ch) s = .next (loses .claim)) ∧
    (∀ x, x ≠ .belowDrive → s.offers (.phcSupply ch x) t → exec (.phcSupplyChange ch) s = .next (loses .supply)) ∧
    (s.offers (.phcResponse ch .none) t → exec (.phcResponseChange ch) s = .next (loses .response)) ∧
    ∀ k phase stamp cycle, s.offers (.phcMatch ch k phase stamp cycle) t → r.state = .holding →
      let out := (t.tga.chans.get ch).output
      let slew := (t.tbm.tuning.chan.get ch).slew
      let p :=
        if r.presented ≤ out then (if out - r.presented ≤ slew then out else r.presented + slew)
        else if r.presented - out ≤ slew then out
        else r.presented - slew
      let left : HoldCauses := { r.holds with measure := false }
      exec (.phcMatch ch) s = .next (if left = .empty then (put { r with presented := p }).track ch .resume
        else put { r with presented := p, holds := left, timer := if left.supply then r.timer else none })

/-- What sends a channel to PARKING, what ends a drive test, and the four timers: lock lost, a response PARK, a source
PARK and the hold limit park a driving channel; a start notification, a response PARK and the test timer end a drive
test; the release timer brings TRACKING; the park timer brings PARKED, or PARK_FAIL where a valid measurement lies
beyond PARK_TOL. That the park timer's outcome reads PARK_TOL as it stands at the expiry is the model's choice (log 52):
the manual names the matches alone as the points at which the parking outcome uses it. -/
def Obligations.LossesAndTimersMoveTheChannel : Prop :=
  (∀ (s t : State) (ch : Chan),
    let st := (t.phc.chans.get ch).state
    let driving := st = .releasing ∨ st = .tracking ∨ st = .holding
    (s.offers (.phcLockLost ch) t → exec (.phcLockLost ch) s = .next (if driving then t.park ch .lock else t)) ∧
    (s.offers (.phcResponse ch .park) t → exec (.phcResponseChange ch) s =
      .next (if driving then t.park ch .response else t.endTest ch .response)) ∧
    (s.offers (.phcSource ch .park) t →
      exec (.phcSourceChange ch) s = .next (if driving then t.park ch .source else t)) ∧
    (∀ x, x ≠ .park → s.offers (.phcSource ch x) t → exec (.phcSourceChange ch) s = .next (t.evaluate ch)) ∧
    (s.offers (.phcStart ch) t → exec (.phcStartNotification ch) s = .next (t.endTest ch .abandon))) ∧
  ∀ (s : State) (ch : Chan) (kind : ChanTimer) (x : Time), (s.phc.chans.get ch).timer = some (kind, x) →
    let t : State := { s with now := max s.now x }
    let r := s.phc.chans.get ch
    let put (x : ChanRec) : State := { t with phc := { t.phc with chans := t.phc.chans.set ch x } }
    let failed := s.ckt.state = .cycleLocked ∧ (s.ceu.chans.get ch).valid = true ∧
      ((s.tbm.tuning.chan.get ch).parkTol : Int) < (s.ceu.chans.get ch).phase
    (kind = .release → exec (.releaseTimerExpiry ch) s = .next (t.track ch .released)) ∧
    (kind = .holdLimit → r.state = .holding → exec (.holdLimitExpiry ch) s = .next (t.park ch .limit)) ∧
    (kind = .test → exec (.testTimerExpiry ch) s = .next (t.endTest ch .testEnd)) ∧
    (kind = .park → failed → exec (.parkTimerExpiry ch) s =
      .next (State.sends (put { r with timer := none }) [.report .phc (.parkFail ch) .event])) ∧
    (kind = .park → ¬ failed → exec (.parkTimerExpiry ch) s = .next (State.sends
      (put { r with state := .parked, timer := none, parkCount := 0 })
      (t.chanNews ch .parked r.state .timeout none)))

/-- Driver faults, class-1 reports and driver clears, by the channel's state: a driver fault brings FAULTED, a class-1
report LOCKOUT from PARKING and FAULTED, a clear brings a FAULTED channel back to PARKED. A DRIVER_SHORT is both at
once, taken by either row: the model's reading (log 39). The oil pressure of an accepted OPPT: with a driving channel
whose HOLD_KPA exceeds it the low-oil run goes up, and from 3 on OIL_LOW is reported and those channels park; a
pressure high enough for every bound channel sets the run to 0 and takes the report back; any other leaves both. The
news of a changed OPPT has every channel evaluate its release conditions. That the channels act, and give their
notices, in the order IN1, EX1, IN2, EX2 is the model's choice (log 23). -/
def Obligations.DriverFaultsAndOilPressure : Prop :=
  (∀ (s t : State) (ch : Chan),
      let r := t.phc.chans.get ch
      let second := r.state = .parking ∨ r.state = .faulted
      let out := r.state = .unused ∨ r.state = .lockout
      let short : State := if second then t.lockOut ch else if out then t else t.faulted ch
      (s.offers (.phcDriverFault ch true) t →
        exec (.phcDriverFault ch) s = .next short ∧ exec (.phcClass1Report ch) s = .next short) ∧
      (s.offers (.phcDriverFault ch false) t → exec (.phcDriverFault ch) s =
        .next (if out ∨ r.state = .faulted then t else t.faulted ch)) ∧
      (s.offers (.phcClass1 ch) t → exec (.phcClass1Report ch) s = .next (if second then t.lockOut ch else t)) ∧
      (s.offers (.phcDriverClear ch) t → exec (.phcDriverClear ch) s = .next
        (if r.state = .faulted then State.sends
          { t with phc := { t.phc with chans := t.phc.chans.set ch { r with state := .parked } } }
          (t.chanNews ch .parked .faulted .driverClear none)
        else t))) ∧
  (∀ s t : State,
      (∀ k, s.offers (.phcOil k) t →
        let low := allChans.filter fun ch =>
          ((t.phc.chans.get ch).state == .releasing || (t.phc.chans.get ch).state == .tracking ||
            (t.phc.chans.get ch).state == .holding) && decide (k < (t.tbm.tuning.chan.get ch).holdKpa)
        let run := if t.phc.lowOilRun < 255 then t.phc.lowOilRun + 1 else t.phc.lowOilRun
        let enough := ∀ ch, t.chanBound ch = true → (t.tbm.tuning.chan.get ch).holdKpa ≤ k
        (low ≠ [] → run < 3 → exec .phcOpptOil s = .next { t with phc := { t.phc with lowOilRun := run } }) ∧
        (low ≠ [] → 3 ≤ run → exec .phcOpptOil s = .next (forEach low (fun s ch => s.park ch .oil) (State.sends
          { t with phc := { t.phc with lowOilRun := run, oilReported := true } } [.report .phc .oilLow .present]))) ∧
        (low = [] → enough → exec .phcOpptOil s = .next (State.sends
          { t with phc := { t.phc with lowOilRun := 0, oilReported := false } }
          (if t.phc.oilReported then [.report .phc .oilLow .gone] else []))) ∧
        (low = [] → ¬ enough → exec .phcOpptOil s = .next t)) ∧
      (s.offers .phcOpptChanged t → exec .phcOpptChanged s = .next (forEach allChans State.evaluate t)))

/-- TEST CH starts a drive test of a PARKED bound channel in RUN with the tracker STOPPED; CLRL, armed, releases every
channel in LOCKOUT to PARKED or UNUSED, and on to FAULTED where a driver record of its output is held. Each refusal
comes in its order. That the channels released change, and give their notices, in the order IN1, EX1, IN2, EX2 is the
model's choice (log 23). -/
def Obligations.DriveTestsAndLockoutRelease : Prop :=
  ∀ (s t : State) (fields : List Field),
    (s.begins .TEST fields t → fields.head? ≠ some (.word .LIFT) →
      ((∀ c d x, fields ≠ [.word .CH, .num c, .num d, .num x]) →
        exec (.testCh fields) s = .next (t.answer .TEST .format)) ∧
      ∀ c d x, fields = [.word .CH, .num c, .num d, .num x] →
        (¬ (1 ≤ c ∧ c ≤ 4 ∧ 0 ≤ d ∧ d ≤ 1000 ∧ 10 ≤ x ∧ x ≤ 1000) →
          exec (.testCh fields) s = .next (t.answer .TEST .range)) ∧
        (∀ ch, c = chanNum ch → 0 ≤ d → d ≤ 1000 → 10 ≤ x → x ≤ 1000 →
          let r := t.phc.chans.get ch
          let fit := t.ckt.state = .stopped ∧ r.state = .parked ∧ t.fmg.chanResponse.get ch ≠ .park
          (t.smc.mode ≠ .run → exec (.testCh fields) s = .next (t.answer .TEST .mode)) ∧
          (t.smc.mode = .run → t.chanBound ch = false → exec (.testCh fields) s = .next (t.answer .TEST .unbound)) ∧
          (t.smc.mode = .run → t.chanBound ch = true → ¬ fit →
            exec (.testCh fields) s = .next (t.answer .TEST .state)) ∧
          (t.smc.mode = .run → t.chanBound ch = true → fit → exec (.testCh fields) s = .next ((State.sends
            { t with phc := { t.phc with chans := t.phc.chans.set ch { r with
              state := .driveTest, duty := d.toNat, timer := some (.test, t.now + ms x.toNat) } } }
            (t.dutyNews ch d.toNat false ++ t.chanNews ch .driveTest .parked .test none)).answer .TEST .ok)))) ∧
    (s.begins .CLRL fields t →
      let u : State := { t with clp := { t.clp with arm := none } }
      let armed := ∃ x, s.clp.arm = some (.clrl, x)
      let locked := allChans.filter fun ch => (t.phc.chans.get ch).state == .lockout
      (fields ≠ [] → exec (.clrl fields) s = .next (u.answer .CLRL .format)) ∧
      (fields = [] → ¬ armed → exec (.clrl fields) s = .next (u.answer .CLRL .notArmed)) ∧
      (fields = [] → armed → t.smc.mode ≠ .run → exec (.clrl fields) s = .next (u.answer .CLRL .mode)) ∧
      (fields = [] → armed → t.smc.mode = .run → t.ckt.state ≠ .stopped →
        exec (.clrl fields) s = .next (u.answer .CLRL .state)) ∧
      (fields = [] → armed → t.smc.mode = .run → t.ckt.state = .stopped → exec (.clrl fields) s =
        .next ((forEach locked State.unlock u).answer .CLRL .ok [.num locked.length]))) ∧
    ∀ ch,
      let new : ChanState := if s.chanBound ch then .parked else .unused
      let q : State := State.sends
        { s with phc := { s.phc with chans := s.phc.chans.set ch { s.phc.chans.get ch with state := new } } }
        (s.chanNews ch new (s.phc.chans.get ch).state .clrl none)
      let held := ∃ o, s.chanDriver ch = some o ∧
        ((s.fault (.driverShort (.ocv o))).held = true ∨ (s.fault (.driverOpen (.ocv o))).held = true)
      (held → s.unlock ch = q.faulted ch) ∧ (¬ held → s.unlock ch = q)

/-! ### The Target Arbiter -/

/-- The arbiter's choice for one channel, and what follows it: HOST with the stated target up to the range, else MAP
with the map output, else PARK; PARK outside RUN, unbound, under a response PARK or with no fresh OPPT. A change of
source is handed to the channel, with the presented target 0 where it is to PARK. What has the arbiter choose afresh:
an accepted OPPT, which becomes the record, makes it fresh, starts the staleness timer anew, and is handed on; the
staleness timer, which drops the map outputs and reports HOST_STALE where the engine turns in RUN; CYCLE_START, which
looks each map up; a changed response, for its channel. An OPPT is eight fields: load, oil temperature and oil pressure
as decimal values, four targets decimal or "-", and L, H or "-"; any other is refused with FORMAT, one with a field
beyond its range with RANGE. -/
def Obligations.TheArbiterChoosesAtPointsAndCycles : Prop :=
  (∀ (s : State) (ch : Chan),
      let r := s.tga.chans.get ch
      let open_ := s.smc.mode = .run ∧ s.chanBound ch = true ∧ r.response ≠ .park ∧ s.tga.fresh = .fresh
      let host := s.tga.record.bind fun o => o.targets.get ch
      let settles (source : Source) (out : Nat) : Prop :=
        (source = r.source → s.arbitrate ch =
          { s with tga := { s.tga with chans := s.tga.chans.set ch { r with source := source, output := out } } }) ∧
        (source ≠ r.source → source ≠ .park → s.arbitrate ch = State.sends
          { s with tga := { s.tga with chans := s.tga.chans.set ch { r with source := source, output := out } } }
          [.phcSource ch source]) ∧
        (source ≠ r.source → source = .park → s.arbitrate ch = State.sends
          { s with
            tga := { s.tga with chans := s.tga.chans.set ch { r with source := source, output := out } }
            phc := { s.phc with chans := s.phc.chans.set ch { s.phc.chans.get ch with presented := 0 } } }
          [.phcSource ch source])
      (¬ open_ → settles .park 0) ∧
      (∀ x c, open_ → host = some x → s.tbm.inForce.cam.get ch = some c → settles .host (min x c.range)) ∧
      (∀ m, open_ → host = none → r.mapOutput = some m → settles .map m) ∧
      (open_ → host = none → r.mapOutput = none → settles .park 0)) ∧
  ((∀ (s t : State) (fields : List Field), s.begins .OPPT fields t →
      (let target (x : Option Int) : Field := x.elim .absent .num
        let line (load temp kpa : Int) (t1 t2 t3 t4 : Option Int) (lift : Option Bool) : List Field :=
          [.num load, .num temp, .num kpa, target t1, target t2, target t3, target t4,
            lift.elim .absent fun h => .word (if h then .H else .L)]
        ((∀ load temp kpa t1 t2 t3 t4 lift, fields ≠ line load temp kpa t1 t2 t3 t4 lift) →
          exec (.oppt fields) s = .next (t.answer .OPPT .format)) ∧
        ∀ load temp kpa t1 t2 t3 t4 lift, fields = line load temp kpa t1 t2 t3 t4 lift →
          (load < 0 ∨ 1000 < load ∨ temp < -40 ∨ 150 < temp ∨ kpa < 0 ∨ 1000 < kpa ∨
            ∃ x n, x ∈ [t1, t2, t3, t4] ∧ x = some n ∧ (n < 0 ∨ 960 < n)) →
          exec (.oppt fields) s = .next (t.answer .OPPT .range)) ∧
      ∀ (load kpa : Nat) (temp : Int) (t1 t2 t3 t4 : Option Nat) (lift : Option Bool),
        let target (x : Option Nat) : Field := x.elim .absent fun n => .num n
        fields = [.num load, .num temp, .num kpa, target t1, target t2, target t3, target t4,
          lift.elim .absent fun h => .word (if h then .H else .L)] →
        load ≤ 1000 → -40 ≤ temp → temp ≤ 150 → kpa ≤ 1000 → (∀ x n, x ∈ [t1, t2, t3, t4] → x = some n → n ≤ 960) →
        let period := ms t.tbm.tuning.dev.staleMs
        exec (.oppt fields) s = .next (((forEach allChans State.arbitrate (State.sends
          { t with tga := { t.tga with
            record := some ⟨load, temp, kpa, ⟨t1, t2, t3, t4⟩, lift⟩
            fresh := .fresh
            stale := some (t.now + period, period)
            staleReported := false } }
          (if t.tga.staleReported then [.report .tga .hostStale .gone] else []))).sends
            [.phcOil kpa, .phcOpptChanged]).answer .OPPT .ok)) ∧
    (∀ (s : State) (x period : Time), s.tga.stale = some (x, period) →
      let now := max s.now x
      let turning := s.smc.mode = .run ∧ s.ckt.state ≠ .stopped
      let q : State := forEach allChans State.arbitrate { s with
        now := now
        tga := { s.tga with
          fresh := .stale
          stale := some (now + period, period)
          chans := s.tga.chans.map fun _ r => { r with mapOutput := none } } }
      (¬ turning → exec .stalenessTimerExpiry s = .next q) ∧
      (turning → exec .stalenessTimerExpiry s = .next (State.sends
        { q with tga := { q.tga with staleReported := true } } [.report .tga .hostStale .present]))) ∧
    (∀ (s t : State) (angle : Nat) (cycle : Word32), s.offers (.tgaCycleStart angle cycle) t → ∃ x : PerChan TgaChan,
      exec .tgaCycleStart s = .next (forEach allChans State.arbitrate { t with tga := { t.tga with chans := x } }) ∧
      ∀ ch,
        let looked := t.smc.mode = .run ∧ t.chanBound ch = true ∧ (t.tbm.maps.get ch).available = true ∧
          t.tga.fresh = .fresh
        x.get ch = { t.tga.chans.get ch with mapOutput := (x.get ch).mapOutput } ∧
        (¬ looked → (x.get ch).mapOutput = none) ∧
        (∀ o c, looked → t.tga.record = some o → t.tbm.inForce.cam.get ch = some c → (x.get ch).mapOutput =
          some ((t.tbm.maps.get ch).data.lookup t.ckt.rpm o.load o.oilTemp c.range))) ∧
    ∀ (s t : State) (ch : Chan) (a : PhaserAction), s.offers (.tgaResponse ch a) t →
      exec (.tgaResponseChange ch) s = .next (State.arbitrate
        { t with tga := { t.tga with chans := t.tga.chans.set ch { t.tga.chans.get ch with response := a } } } ch))

/-- The map lookup: bilinear interpolation between the breakpoints that bracket speed and load, times the derate
factor interpolated on temperature, all exact and rounded down once, up to the range; a value outside the breakpoints
is taken as the nearest one. -/
def Obligations.MapLookupInterpolatesExactly : Prop :=
  ∀ (m : MapData) (rpm load range : Nat) (temp : Int), m.rpm.length = 16 → m.load.length = 12 → m.temps.length = 8 →
    m.rpm.Pairwise (· < ·) → m.load.Pairwise (· < ·) → m.temps.Pairwise (· < ·) →
    (∀ (i j k : Nat) (x0 x1 y0 y1 : Nat) (t0 t1 : Int),
      m.rpm[i]? = some x0 → m.rpm[i + 1]? = some x1 → x0 ≤ rpm → rpm < x1 ∨ i = 14 ∧ rpm = x1 →
      m.load[j]? = some y0 → m.load[j + 1]? = some y1 → y0 ≤ load → load < y1 ∨ j = 10 ∧ load = y1 →
      m.temps[k]? = some t0 → m.temps[k + 1]? = some t1 → t0 ≤ temp → temp < t1 ∨ k = 6 ∧ temp = t1 →
      let dx : Int := x1 - x0
      let dy : Int := y1 - y0
      let a : Int := m.cell i j * dx + (rpm - x0) * (m.cell (i + 1) j - m.cell i j)
      let b : Int := m.cell i (j + 1) * dx + (rpm - x0) * (m.cell (i + 1) (j + 1) - m.cell i (j + 1))
      let v : Int := a * dy + (load - y0) * (b - a)
      let f0 : Int := m.factors.getD k 0
      let f1 : Int := m.factors.getD (k + 1) 0
      let f : Int := f0 * (t1 - t0) + (temp - t0) * (f1 - f0)
      m.lookup rpm load temp range = min (v * f / (dx * dy * (t1 - t0) * 1000)).toNat range) ∧
    (∀ lo hi, m.rpm.head? = some lo → m.rpm.getLast? = some hi →
      m.lookup rpm load temp range = m.lookup (max lo (min hi rpm)) load temp range) ∧
    (∀ lo hi, m.load.head? = some lo → m.load.getLast? = some hi →
      m.lookup rpm load temp range = m.lookup rpm (max lo (min hi load)) temp range) ∧
    ∀ lo hi, m.temps.head? = some lo → m.temps.getLast? = some hi →
      m.lookup rpm load temp range = m.lookup rpm load (max lo (min hi temp)) range

/-! ### The Valve Drivers -/

/-- The judgement of an on period for open load, and the periods of an OCV output. A period shorter than 200 µs or
under a low supply is not judged; current sets the tally to 0 and takes a report back; without current the tally goes
up, and at 3 the output is reported open. The high time ends the on period; at the period's end the pending duty is
taken and the line goes ON for its high time where the output is not tripped. While an immediate write to the output is
on its way, which takes effect at once, no further period starts: the model's reading (log 53). That at duty 1000, where
both fall at one moment, the end of the on period stands for the start of the period too is the model's choice (log
14). -/
def Obligations.OcvPeriodsRunAndAreJudged : Prop :=
  (∀ (len tally : Nat) (below current reported : Bool),
    (len < 400 ∨ below = true → judge len below current tally reported = ⟨tally, reported, none⟩) ∧
    (400 ≤ len → below = false → current = true →
      judge len below current tally reported = ⟨0, false, if reported then some .gone else none⟩) ∧
    (400 ≤ len → below = false → current = false → tally < 2 →
      judge len below current tally reported = ⟨tally + 1, reported, none⟩) ∧
    (400 ≤ len → below = false → current = false → tally = 2 ∨ tally = 3 →
      judge len below current tally reported = ⟨3, true, some .present⟩)) ∧
  ∀ (s : State) (o : LineABCD) (current : Bool),
    let r := s.vdr.ocv.get o
    let high := r.active * r.period / 1000
    let put (t : State) (x : OcvRec) : State := { t with vdr := { t.vdr with ocv := t.vdr.ocv.set o x } }
    let ended (t : State) (len : Nat) (x : OcvRec) (k : OcvRec → OcvRec) : State :=
      let j := judge len (t.smc.supplyState == .belowDrive) current r.openTally r.openReported
      State.sends (put t (k { x with lineOn := false, openTally := j.tally, openReported := j.reported }))
        (j.report.toList.map fun v => .report .vdr (.driverOpen (.ocv o)) v)
    let next (t : State) (x : OcvRec) : OcvRec := { x with
      active := r.pending
      periodStart := some (BitVec.ofNat 32 t.now)
      lineOn := decide (0 < r.pending * r.period / 1000) && !r.tripped }
    let writing := ∃ d, .dutyWrite o d true ∈ s.handovers
    (r.enabled = false ∨ r.lineOn = true ∨ writing → exec (.ocvPeriodStart o) s = .next s) ∧
    (r.lineOn = false ∨ 1000 ≤ r.active ∧ writing → exec (.onPeriodEnd o current) s = .next s) ∧
    ∀ b, r.periodStart = some b →
      let age := (BitVec.ofNat 32 s.now - b).toNat
      let t : State := { s with now := s.now + (2 * r.period - age) }
      let h : State := { s with now := s.now + (2 * high - age) }
      (r.enabled = true → r.lineOn = false → ¬ writing → exec (.ocvPeriodStart o) s = .next (put t (next t r))) ∧
      (r.lineOn = true → r.active < 1000 →
        exec (.onPeriodEnd o current) s = .next (ended h (2 * high) r fun x => x)) ∧
      (r.lineOn = true → 1000 ≤ r.active → ¬ writing →
        exec (.onPeriodEnd o current) s = .next (ended t (2 * r.period) r fun x => next t x))

/-- The enable of an output is evaluated where its channel or unit has changed state: ENABLED in RUN where the binding
names a channel neither FAULTED nor LOCKOUT, or a unit not STUCK. Enabled anew an OCV output begins a period at duty
0; disabled, the line goes OFF with the on period judged, duties, tally and times go, and an open load reported is
taken back. What was written to a DISABLED output or asked of it ahead of the evaluation, and is still on its way, is
discarded with it: the model's reading (log 53). -/
def Obligations.EnablesFollowModeAndState : Prop :=
  ∀ (s : State) (pre post : List Handover) (current : Bool),
    (∀ o, s.handovers = pre ++ .enableEvaluation (.ocv o) :: post → .enableEvaluation (.ocv o) ∉ pre →
      let r := s.vdr.ocv.get o
      let t : State := { s with handovers := (if r.enabled then pre else pre.filter fun h => match h with
        | .dutyWrite o' _ _ => decide (o' ≠ o)
        | _ => true) ++ post }
      let may := t.smc.mode = .run ∧
        ∃ ch, r.binding = some ch ∧ (t.phc.chans.get ch).state ≠ .faulted ∧ (t.phc.chans.get ch).state ≠ .lockout
      let u := t.cutOcv o current
      let x := u.vdr.ocv.get o
      (may → r.enabled = false → exec (.vdrEnableEvaluation (.ocv o) current) s = .next
        { t with vdr := { t.vdr with ocv := t.vdr.ocv.set o { r with
          enabled := true, active := 0, pending := 0, periodStart := some (BitVec.ofNat 32 t.now)
          lineOn := false } } }) ∧
      (¬ may → r.enabled = true → exec (.vdrEnableEvaluation (.ocv o) current) s = .next (State.sends
        { u with vdr := { u.vdr with ocv := u.vdr.ocv.set o { x with
          enabled := false, active := 0, pending := 0, periodStart := none, lineOn := false, openTally := 0
          openReported := false } } }
        (if x.openReported then [.report .vdr (.driverOpen (.ocv o)) .gone] else []))) ∧
      ((may ↔ r.enabled = true) → exec (.vdrEnableEvaluation (.ocv o) current) s = .next t)) ∧
    (∀ o, s.handovers = pre ++ .enableEvaluation (.ls o) :: post → .enableEvaluation (.ls o) ∉ pre →
      let r := s.vdr.ls.get o
      let t : State := { s with handovers := (if r.enabled then pre else pre.filter fun h => match h with
        | .solenoid o' _ => decide (o' ≠ o)
        | _ => true) ++ post }
      let may := t.smc.mode = .run ∧ ∃ u, r.binding = some u ∧ (t.lfs.units.get u).state ≠ .stuck
      let u := t.cutLs o current
      let x := u.vdr.ls.get o
      (may → r.enabled = false → exec (.vdrEnableEvaluation (.ls o) current) s = .next
        { t with vdr := { t.vdr with ls := t.vdr.ls.set o { r with enabled := true } } }) ∧
      (¬ may → r.enabled = true → exec (.vdrEnableEvaluation (.ls o) current) s = .next (State.sends
        { u with vdr := { u.vdr with ls := u.vdr.ls.set o { x with
          enabled := false, lineOn := false, onSince := none, openTally := 0, openReported := false } } }
        (if x.openReported then [.report .vdr (.driverOpen (.ls o)) .gone] else []))) ∧
      ((may ↔ r.enabled = true) → exec (.vdrEnableEvaluation (.ls o) current) s = .next t))

/-- Writes and solenoid requests: a normal write replaces the pending duty of an enabled output, an immediate write
ends the period and begins one with its value; an energize turns an enabled, untripped line ON, a de-energize or 50 ms
turn it OFF with the on period judged; overcurrent turns the line OFF unjudged, trips the output and is reported; a
driver clear clears tripped. Writes to a disabled output are discarded; while news of a change of state that has its
enable evaluated is on its way to it, they wait for that: the model's reading (log 53). That on since is absent whenever an LS line
goes OFF, and that a driver clear leaves the line of an OCV output OFF until its next period, are the model's choices
(log 46, 47). -/
def Obligations.WritesSolenoidsAndShorts : Prop :=
  (∀ (s : State) (o : LineABCD) (current : Bool), let r := s.vdr.ocv.get o
    let j := judge (BitVec.ofNat 32 s.now - r.periodStart.getD (BitVec.ofNat 32 s.now)).toNat
      (s.smc.supplyState == .belowDrive) current r.openTally r.openReported
    (r.lineOn = false → s.cutOcv o current = s) ∧
    (r.lineOn = true → s.cutOcv o current = State.sends
      { s with vdr := { s.vdr with ocv := s.vdr.ocv.set o { r with
        lineOn := false, openTally := j.tally, openReported := j.reported } } }
      (j.report.toList.map fun v => .report .vdr (.driverOpen (.ocv o)) v))) ∧
  (∀ (s : State) (o : LineAB) (current : Bool), let r := s.vdr.ls.get o
    let j (len : Nat) := judge len (s.smc.supplyState == .belowDrive) current r.openTally r.openReported
    let off (t : State) (len : Nat) : State := State.sends
      { t with vdr := { t.vdr with ls := t.vdr.ls.set o { r with
        lineOn := false, onSince := none, openTally := (j len).tally, openReported := (j len).reported } } }
      ((j len).report.toList.map fun v => .report .vdr (.driverOpen (.ls o)) v)
    let age := (BitVec.ofNat 32 s.now - r.onSince.getD (BitVec.ofNat 32 s.now)).toNat
    (r.lineOn = false → s.cutLs o current = s ∧ exec (.lsOnLimit o current) s = .next s) ∧
    (r.lineOn = true → s.cutLs o current = off s age ∧
      exec (.lsOnLimit o current) s = .next (off { s with now := s.now + (100000 - age) } 100000))) ∧
  (∀ (s t : State) (o : LineABCD) (d : Nat) (current : Bool), let r := t.vdr.ocv.get o
    (s.offers (.dutyWrite o d false) t → exec (.normalWrite o) s = .next
      (if r.enabled then { t with vdr := { t.vdr with ocv := t.vdr.ocv.set o { r with pending := d } } } else t)) ∧
    (s.offers (.dutyWrite o d true) t →
      let u := t.cutOcv o current
      let x := u.vdr.ocv.get o
      exec (.immediateWrite o current) s = .next
        (if r.enabled then { u with vdr := { u.vdr with ocv := u.vdr.ocv.set o { x with
          active := d, pending := d, periodStart := some (BitVec.ofNat 32 t.now)
          lineOn := decide (0 < d * x.period / 1000) && !x.tripped } } }
        else t))) ∧
  (∀ (s t : State) (o : LineAB) (current : Bool), let r := t.vdr.ls.get o
    (s.offers (.solenoid o true) t → exec (.energize o) s = .next
      (if r.enabled && !r.tripped && !r.lineOn then
        { t with vdr := { t.vdr with ls := t.vdr.ls.set o { r with
          lineOn := true, onSince := some (BitVec.ofNat 32 t.now) } } }
      else t)) ∧
    (s.offers (.solenoid o false) t → exec (.deEnergize o current) s = .next (t.cutLs o current))) ∧
  (∀ (s : State) (current : Bool),
    (∀ o, (s.vdr.ocv.get o).enabled = false → .enableEvaluation (.ocv o) ∈ s.handovers →
      exec (.normalWrite o) s = .next s ∧ exec (.immediateWrite o current) s = .next s) ∧
    (∀ o, (s.vdr.ls.get o).enabled = false → .enableEvaluation (.ls o) ∈ s.handovers →
      exec (.energize o) s = .next s ∧ exec (.deEnergize o current) s = .next s)) ∧
  (∀ (s : State) (dt : Nat),
    let t : State := { s with now := s.now + dt }
    (∀ o, let r := s.vdr.ocv.get o
      exec (.overcurrent dt (.ocv o)) s = .next
        (if r.lineOn then State.sends
          { t with vdr := { t.vdr with ocv := t.vdr.ocv.set o { r with lineOn := false, tripped := true } } }
          [.report .vdr (.driverShort (.ocv o)) .event]
        else t)) ∧
    (∀ o, let r := s.vdr.ls.get o
      exec (.overcurrent dt (.ls o)) s = .next
        (if r.lineOn then State.sends
          { t with vdr := { t.vdr with ls := t.vdr.ls.set o { r with
            lineOn := false, onSince := none, tripped := true } } }
          [.report .vdr (.driverShort (.ls o)) .event]
        else t))) ∧
  ∀ s t : State,
    (∀ o, s.offers (.vdrDriverClear (.ocv o)) t → exec (.vdrDriverClear (.ocv o)) s = .next
      { t with vdr := { t.vdr with ocv := t.vdr.ocv.set o { t.vdr.ocv.get o with tripped := false } } }) ∧
    (∀ o, s.offers (.vdrDriverClear (.ls o)) t → exec (.vdrDriverClear (.ls o)) s = .next
      { t with vdr := { t.vdr with ls := t.vdr.ls.set o { t.vdr.ls.get o with tripped := false } } })

/-! ### The Trace Buffer -/

/-- Trigger causes wait, up to 4, in a queue; a push onto a full one is dropped and reported unless it is TRACE_MISSED
itself. A FILLING slot is closed by CYCLE_START or, incomplete, by lock lost: READY with the summaries, !TRC handed
in. CYCLE_START then opens the lowest FREE slot for the oldest cause, or the cause is lost and reported. The push
which that report brings is a step of its own, and one that finds the queue refilled by then is dropped like any
other: the model's choice (log 60). A CYCLE_START handed out before the lock-lost notification and not yet taken as
the buffer takes that is dropped, so that the next slot opens at the first CYCLE_START after a new lock: the model's
reading (log 35). One taken before the notification opens a slot like any other, lock already lost or not, and for a
cause pushed since then too: the model's choice (log 56). The edge records handed and not yet taken as the lock-lost
notification is go into the slot before it closes, in the order of their handing (log 35). An edge record is offered
to the FILLING slot: the offered count goes up to 255, the list takes 40 records, a later one sets truncated; with no
slot FILLING it is let go. That an edge record of a lost lock which is taken with the slot of a new lock FILLING goes
into that one is the model's choice (log 57). -/
def Obligations.TracesOpenFillAndClose : Prop :=
  (∀ s t : State,
      (∀ c, s.offers (.trbPush c) t →
        (t.trb.queue.length < 4 → exec .triggerPush s = .next { t with trb := { t.trb with queue := t.trb.queue ++ [c] } }) ∧
        (4 ≤ t.trb.queue.length → c = .fault .traceMissed → exec .triggerPush s = .next t) ∧
        (4 ≤ t.trb.queue.length → c ≠ .fault .traceMissed → exec .triggerPush s =
          .next (t.sends [.report .trb .traceMissed .event]))) ∧
      (∀ lost, (∀ x ∈ t.trb.slots, x.state ≠ .filling) → t.closeSlot lost = t) ∧
      (∀ lost pre x post, t.trb.slots = pre ++ x :: post → x.state = .filling → (∀ y ∈ pre, y.state ≠ .filling) →
        let sum (ch : Chan) : ChanSummary :=
          ⟨(t.phc.chans.get ch).state, (t.phc.chans.get ch).presented, (t.ceu.chans.get ch).phase,
            (t.phc.chans.get ch).duty⟩
        t.closeSlot lost = State.sends
          { t with trb := { t.trb with slots := pre ++ { x with
            state := .ready
            incomplete := x.incomplete || lost
            chanSummary := some ⟨sum .IN1, sum .EX1, sum .IN2, sum .EX2⟩
            unitSummary := some ⟨t.lfs.units.l1.state, t.lfs.units.l2.state⟩ } :: post } }
          [.notice .trb (.trc (pre.length + 1) x.cause x.startCycle x.edges.length x.truncated (x.incomplete || lost))]) ∧
      (∀ pre post, s.handovers = pre ++ .trbLockLost :: post → .trbLockLost ∉ pre →
        let rest := (pre.filter fun h => match h with
            | .trbCycleStart _ _ => false
            | _ => true) ++ post
        let edges := rest.filterMap fun h => match h with
          | .trbEdge e => some e
          | _ => none
        ((∀ x ∈ s.trb.slots, x.state ≠ .filling) → exec .trbLockLost s = .next { s with handovers := rest }) ∧
        ∀ front x back, s.trb.slots = front ++ x :: back → x.state = .filling → (∀ y ∈ front, y.state ≠ .filling) →
          exec .trbLockLost s = .next (State.closeSlot
            { s with
              handovers := rest.filter fun h => match h with
                | .trbEdge _ => false
                | _ => true
              trb := { s.trb with slots := front ++ { x with
                edges := x.edges ++ edges.take (40 - x.edges.length)
                offered := if x.offered < 255 then min 255 (x.offered + edges.length) else x.offered
                truncated := x.truncated || decide (edges ≠ [] ∧ 40 < x.edges.length + edges.length) } :: back } }
            true)) ∧
      ∀ angle cycle, s.offers (.trbCycleStart angle cycle) t →
        let u := t.closeSlot false
        (u.trb.queue = [] → exec .trbCycleStart s = .next u) ∧
        (∀ c rest pre x post, u.trb.queue = c :: rest → u.trb.slots = pre ++ x :: post → x.state = .free →
          (∀ y ∈ pre, y.state ≠ .free) → exec .trbCycleStart s = .next { u with trb := ⟨rest, pre ++
            ⟨.filling, some c, some cycle, some t.ckt.rpm, [], 0, false, false, none, none⟩ :: post⟩ }) ∧
        (∀ c rest, u.trb.queue = c :: rest → (∀ x ∈ u.trb.slots, x.state ≠ .free) → exec .trbCycleStart s =
          .next (State.sends { u with trb := { u.trb with queue := rest } } [.report .trb .traceMissed .event]))) ∧
  (∀ (s t : State) (e : EdgeRecord), s.offers (.trbEdge e) t →
      ((∀ x ∈ t.trb.slots, x.state ≠ .filling) → exec .trbEdgeRecord s = .next t) ∧
      ∀ pre x post, t.trb.slots = pre ++ x :: post → x.state = .filling → (∀ y ∈ pre, y.state ≠ .filling) →
        let count := if x.offered < 255 then x.offered + 1 else x.offered
        (x.edges.length < 40 → exec .trbEdgeRecord s = .next { t with trb := { t.trb with
          slots := pre ++ { x with offered := count, edges := x.edges ++ [e] } :: post } }) ∧
        (40 ≤ x.edges.length → exec .trbEdgeRecord s = .next { t with trb := { t.trb with
          slots := pre ++ { x with offered := count, truncated := true } :: post } }))

/-- TRCF frees a slot: READY or FILLING becomes FREE with its reset values, with no !TRC and the queue as it was, and
is answered OK; FREE is answered EMPTY; a slot out of range RANGE, a bad field FORMAT; in any mode. With no slot
FILLING an edge record is let go. -/
def Obligations.TrcfFreesASlot : Prop :=
  (∀ (s t : State) (fields : List Field), s.begins .TRCF fields t →
    ((∀ v, fields ≠ [.num v]) → exec (.trcf fields) s = .next (t.answer .TRCF .format)) ∧
    ∀ v, fields = [.num v] →
      (¬ (1 ≤ v ∧ v ≤ 4) → exec (.trcf fields) s = .next (t.answer .TRCF .range)) ∧
      ∀ pre x post, 1 ≤ v → v ≤ 4 → t.trb.slots = pre ++ x :: post → v = pre.length + 1 →
        (x.state = .ready ∨ x.state = .filling → exec (.trcf fields) s = .next
          (({ t with trb := { t.trb with slots :=
            pre ++ ⟨.free, none, none, none, [], 0, false, false, none, none⟩ :: post } } : State).answer .TRCF .ok)) ∧
        (x.state = .free → exec (.trcf fields) s = .next (t.answer .TRCF .empty))) ∧
  ∀ (s t : State) (e : EdgeRecord), s.offers (.trbEdge e) t → (∀ x ∈ t.trb.slots, x.state ≠ .filling) →
    exec .trbEdgeRecord s = .next t

/-- TRCT pushes one to four REQUEST causes in RUN and answers how many were queued and how many dropped, each dropped
one reported. TRCR without a field answers slots and queue in one line, with a READY slot the run of its lines, with
another slot EMPTY; it changes no slot. The order of the fields in the lines, and YES and NO for the truncated and
incomplete flags, are the model's choice (log 18). -/
def Obligations.TraceRequestsAskAndRead : Prop :=
  ∀ (s t : State) (fields : List Field),
    (s.begins .TRCT fields t →
      ((∀ v, fields ≠ [.num v]) → exec (.trct fields) s = .next (t.answer .TRCT .format)) ∧
      ∀ v, fields = [.num v] →
        (¬ (1 ≤ v ∧ v ≤ 4) → exec (.trct fields) s = .next (t.answer .TRCT .range)) ∧
        (1 ≤ v → v ≤ 4 → t.smc.mode ≠ .run → exec (.trct fields) s = .next (t.answer .TRCT .mode)) ∧
        (1 ≤ v → v ≤ 4 → t.smc.mode = .run →
          let queued := min v.toNat (4 - t.trb.queue.length)
          let dropped := v.toNat - queued
          exec (.trct fields) s = .next ((State.sends
            { t with trb := { t.trb with queue := t.trb.queue ++ List.replicate queued .request } }
            (List.replicate dropped (.report .trb .traceMissed .event))).answer .TRCT .ok [.num queued, .num dropped]))) ∧
    (s.begins .TRCR fields t →
      (fields = [] → exec (.trcr fields) s = .next (t.answer .TRCR .ok
        ((t.trb.slots.flatMap fun x => .word (slotWord x.state) :: causeFields x.cause) ++
          (t.trb.queue.flatMap fun c => causeFields (some c)) ++ [.num t.trb.queue.length]))) ∧
      (fields ≠ [] → (∀ v, fields ≠ [.num v]) → exec (.trcr fields) s = .next (t.answer .TRCR .format)) ∧
      ∀ v, fields = [.num v] →
        (¬ (1 ≤ v ∧ v ≤ 4) → exec (.trcr fields) s = .next (t.answer .TRCR .range)) ∧
        ∀ pre x post, 1 ≤ v → v ≤ 4 → t.trb.slots = pre ++ x :: post → v = pre.length + 1 →
          (x.state ≠ .ready → exec (.trcr fields) s = .next (t.answer .TRCR .empty)) ∧
          (∀ c u, x.state = .ready → x.chanSummary = some c → x.unitSummary = some u →
            exec (.trcr fields) s = .next (t.answerRun .TRCR
              ((.num v :: causeFields x.cause ++ [optField word32 x.startCycle, optField nat x.startRpm,
                  .num x.edges.length, .num x.offered, yesNo x.truncated, yesNo x.incomplete]) ::
                x.edges.map edgeRecordFields ++ c.toList.map chanSummaryFields ++
                u.toList.map fun st => [.word (liftStateWord st)]))))

/-! ### The Lift Sequencer -/

/-- A unit enters a state: HIGH, LOW and STUCK give a notice and set the position tally to 0, every entry is handed to
the Valve Drivers; where the two units then show one profile a reported mismatch is taken back and the pair record
emptied, with a unit that is not bound showing LOW: the model's choice (log 48). A unit that settles takes HIGH where
its sense shows HIGH, else LOW. The sense is the debounced position of the input that its LIFT item binds; that a unit
whose item binds none has the sense LOW is the model's choice (log 33), on which the manual is silent. -/
def Obligations.LiftUnitsEnterStates : Prop :=
  ∀ (s : State) (u : LiftUnit) (new : LiftState) (cause : LiftCause),
    let r := s.lfs.units.get u
    let t : State := State.sends
      { s with lfs := { s.lfs with units := s.lfs.units.set u { r with
        state := new, posTally := if new = .high ∨ new = .low ∨ new = .stuck then 0 else r.posTally } } }
      (s.liftNews u new r.state cause)
    let other := (s.lfs.units.get (otherUnit u)).state
    (s.lfs.mismatchReported = true → new = other → new = .high ∨ new = .low →
      s.enterLift u new cause = State.sends
        { t with lfs := { t.lfs with mismatchReported := false, pair := none } } [.report .lfs .liftMismatch .gone]) ∧
    (¬ (s.lfs.mismatchReported = true ∧ new = other ∧ (new = .high ∨ new = .low)) → s.enterLift u new cause = t) ∧
    s.settle u cause = s.enterLift u (if s.senseHigh u then .high else .low) cause ∧
    (∀ n, (s.tbm.layout.lift.get u).sense = some n → s.senseHigh u = (s.lfs.senses.get n).high) ∧
    ((s.tbm.layout.lift.get u).sense = none → s.senseHigh u = false)

/-- A LIFT_DECIDE: the lift request by the first row that applies, the pair check, then for a settled unit the
position check and, where its wanted profile differs and the three switch conditions hold, the wait state with the
claim on a TRACKING or PARKED intake channel. A unit that the layout in force does not bind is not reached. That a
LIFT_DECIDE which comes to a unit under test, as one still on its way when the tracker stopped, has no effect at all,
request and pair check included, is the model's choice (log 51). What the window-time condition gives at rpm 0 the
manual leaves open (log 13). -/
def Obligations.LiftDecisionsStartASwitch : Prop :=
  ∀ (s t : State) (u : LiftUnit) (angle : Nat) (cycle : Word32), s.offers (.liftEntry (.liftDecide u) angle cycle) t →
    let y := t.tbm.tuning.dev
    let r := t.lfs.units.get u
    let rpm := t.ckt.rpm
    let ch := (t.phc.chans.get (intake u)).state
    (t.unitBound u = false ∨ r.test ≠ none → exec (.lfsLiftDecide u) s = .next t) ∧
    (t.unitBound u = true → r.test = none → ∃ (req fits : Bool),
      (∀ o q, t.tga.record = some o → t.tga.fresh = .fresh → o.lift = some q → req = q) ∧
      (t.tga.record = none → req = t.lfs.request) ∧
      (∀ o, t.tga.record = some o → t.tga.fresh ≠ .fresh ∨ o.lift = none →
        (y.upRpm ≤ rpm ∧ y.upLoad ≤ o.load → req = true) ∧
        (¬ (y.upRpm ≤ rpm ∧ y.upLoad ≤ o.load) → rpm < y.downRpm ∨ o.load < y.downLoad → req = false) ∧
        (¬ (y.upRpm ≤ rpm ∧ y.upLoad ≤ o.load) → y.downRpm ≤ rpm → y.downLoad ≤ o.load → req = t.lfs.request)) ∧
      (rpm ≠ 0 → (fits = true ↔
        ((t.tbm.tuning.unit.get u).travelMs + (t.tbm.tuning.unit.get u).marginMs) * 100 * (5760 * rpm) ≤
          t.windowLength u * 60000000)) ∧
      let q : State := { t with lfs := { t.lfs with request := req } }
      let p : State :=
        match t.lfs.pair with
        | none => q
        | some x =>
          if t.unitBound .L1 = false ∨ t.unitBound .L2 = false then q
          else if (t.lfs.units.get (otherUnit x.lead)).state = (if x.high then .high else .low) then
            { q with lfs := { q.lfs with pair := none } }
          else if 2 ≤ (cycle - x.cycle).toNat then
            State.sends { q with lfs := { q.lfs with mismatchReported := true } } [.report .lfs .liftMismatch .present]
          else q
      (r.state ≠ .high → r.state ≠ .low → exec (.lfsLiftDecide u) s = .next p) ∧
      ∀ high : Bool, r.state = (if high then .high else .low) →
        let differs := t.senseHigh u ≠ high
        let n := if r.posTally < 255 then r.posTally + 1 else r.posTally
        let x : UnitRec :=
          if differs then { r with posTally := n, posReported := r.posReported || decide (3 ≤ n) }
          else { r with posTally := 0, posReported := false }
        let news : List Handover :=
          if differs then (if 3 ≤ n then [.report .lfs (.liftPosition u) .present] else [])
          else if r.posReported then [.report .lfs (.liftPosition u) .gone]
          else []
        let wanted := if t.fmg.unitLow.get u then false else req
        let go := wanted ≠ high ∧ rpm ≤ y.ceilingRpm ∧ fits = true ∧ (ch = .tracking ∨ ch = .parked ∨ ch = .unused)
        let wait : LiftState := if high then .lowerWait else .raiseWait
        (¬ go → exec (.lfsLiftDecide u) s = .next
          (State.sends { p with lfs := { p.lfs with units := p.lfs.units.set u x } } news)) ∧
        (go → exec (.lfsLiftDecide u) s = .next (State.sends
          { p with lfs := { p.lfs with units := p.lfs.units.set u { x with
            state := wait, attempts := 0, claim := if ch = .unused then x.claim else true } } }
          (news ++ t.liftNews u wait r.state .run ++
            if ch = .unused then [] else [.phcClaim (intake u) true]))))

/-- LIFT_OPEN in a wait state withdraws the switch where the intake channel is TRACKING or RELEASING, else begins the
move: the attempt is counted, and the output energized with the travel timer unless the sense is there already. The
travel timer ends the energizing. LIFT_CLOSE in a move state ends it too and confirms, goes back to the wait state, or
after the second attempt enters STUCK; a confirmation sets or empties the pair record. Other states take neither
entry. That the de-energize is handed whether or not the line is ON is the model's choice (log 22). -/
def Obligations.LiftWindowsOpenAndClose : Prop :=
  (∀ (s t : State) (u : LiftUnit) (angle : Nat) (cycle : Word32),
    let r := t.lfs.units.get u
    let ch := (t.phc.chans.get (intake u)).state
    let put (x : UnitRec) (l : List Handover) : State :=
      State.sends { t with lfs := { t.lfs with units := t.lfs.units.set u x } } l
    let freed : List Handover := if r.claim then [.phcClaim (intake u) false] else []
    (s.offers (.liftEntry (.liftOpen u) angle cycle) t →
      (r.state ≠ .raiseWait → r.state ≠ .lowerWait → exec (.lfsLiftOpen u) s = .next t) ∧
      ∀ high : Bool, r.state = (if high then .raiseWait else .lowerWait) →
        let move : LiftState := if high then .raising else .lowering
        let m := (put { r with attempts := if r.attempts < 2 then r.attempts + 1 else r.attempts } []).enterLift u move .run
        (ch = .tracking ∨ ch = .releasing → exec (.lfsLiftOpen u) s = .next
          ((put { r with attempts := 0, claim := false } freed).enterLift u (if high then .low else .high) .withdrawn)) ∧
        (ch ≠ .tracking → ch ≠ .releasing → t.senseHigh u = high → exec (.lfsLiftOpen u) s = .next m) ∧
        (ch ≠ .tracking → ch ≠ .releasing → t.senseHigh u ≠ high → exec (.lfsLiftOpen u) s = .next (State.sends
          { m with lfs := { m.lfs with units := m.lfs.units.set u { m.lfs.units.get u with
            travel := some (t.now + tenthsMs (t.tbm.tuning.unit.get u).travelMs) } } }
          (t.solenoidNews u true)))) ∧
    (s.offers (.liftEntry (.liftClose u) angle cycle) t →
      let e (x : UnitRec) (l : List Handover) : State := put { x with travel := none } (t.solenoidNews u false ++ l)
      (r.state ≠ .raising → r.state ≠ .lowering → exec (.lfsLiftClose u) s = .next t) ∧
      ∀ high : Bool, r.state = (if high then .raising else .lowering) →
        (t.senseHigh u = high →
          let c := (e { r with attempts := 0, claim := false } freed).enterLift u (if high then .high else .low) .confirm
          let same := (t.lfs.units.get (otherUnit u)).state = (if high then .high else .low)
          exec (.lfsLiftClose u) s = .next
            (if t.unitBound .L1 && t.unitBound .L2 then
              { c with lfs := { c.lfs with pair := if same then none else some ⟨u, high, cycle⟩ } }
            else c)) ∧
        (t.senseHigh u ≠ high → r.attempts < 2 → exec (.lfsLiftClose u) s =
          .next ((e r []).enterLift u (if high then .raiseWait else .lowerWait) .run)) ∧
        (t.senseHigh u ≠ high → 2 ≤ r.attempts → exec (.lfsLiftClose u) s = .next (State.sends
          ((e { r with attempts := 0, claim := false } freed).enterLift u .stuck .noConfirm)
          [.report .lfs (.liftNoConfirm u) .event])))) ∧
  ∀ (s : State) (u : LiftUnit) (x : Time), (s.lfs.units.get u).travel = some x →
    exec (.travelTimerExpiry u) s = .next (State.sends
      { s with
        now := max s.now x
        lfs := { s.lfs with units := s.lfs.units.set u { s.lfs.units.get u with travel := none } } }
      (s.solenoidNews u false))

/-- The pin senses are sampled every 0.5 ms and follow three samples in a row, a change handed to the unit that binds
the input; a sense that reaches the profile a unit moves toward ends the energizing. Lock lost takes a unit out of its
wait or move state onto its sense, and an entry of the lost lock that was handed out to the unit before it and is still
on its way is dropped: the model's choice (log 51); the stuck action takes any bound unit to STUCK and does not reach
an unbound one; a unit clear takes a STUCK one to its sense. That the de-energize is handed whether or not the line is
ON is the model's choice (log 22). -/
def Obligations.SensesLossesAndStuckActions : Prop :=
  (∀ (s : State) (psa psb : Bool),
    let smp (r : SenseRec) (b : Bool) : SenseRec :=
      if b = r.high then ⟨r.high, 0⟩ else if 2 ≤ r.differing then ⟨b, 0⟩ else ⟨r.high, r.differing + 1⟩
    let news (i : LineAB) (b : Bool) : List Handover :=
      let old := s.lfs.senses.get i
      if (smp old b).high = old.high then []
      else (allUnits.filter fun u => (s.tbm.layout.lift.get u).sense == some i).map
        fun u => .senseChange u b
    (s.smc.inReset = true → exec (.pinSenseSample psa psb) s = .next s) ∧
    (s.smc.inReset = false → exec (.pinSenseSample psa psb) s = .next (State.sends
      { s with
        now := max s.now s.lfs.nextSample
        lfs := { s.lfs with
          senses := ⟨smp s.lfs.senses.a psa, smp s.lfs.senses.b psb⟩, nextSample := s.lfs.nextSample + 1000 } }
      (news .A psa ++ news .B psb)))) ∧
  ∀ (s t : State) (u : LiftUnit),
    let r := t.lfs.units.get u
    let put (x : UnitRec) (l : List Handover) : State :=
      State.sends { t with lfs := { t.lfs with units := t.lfs.units.set u x } } (t.solenoidNews u false ++ l)
    let freed : List Handover := if r.claim then [.phcClaim (intake u) false] else []
    let rests := r.state = .high ∨ r.state = .low ∨ r.state = .stuck
    (∀ high, s.offers (.senseChange u high) t → exec (.senseChange u) s = .next
      (if r.state = (if high then .raising else .lowering) then put { r with travel := none } [] else t)) ∧
    (∀ pre post, s.handovers = pre ++ .lfsLockLost u :: post → .lfsLockLost u ∉ pre → .lfsStart u ∉ pre →
      t = { s with handovers := (pre.filter fun h => match h with
        | .liftEntry (.liftDecide v) _ _ => v != u
        | .liftEntry (.liftOpen v) _ _ => v != u
        | .liftEntry (.liftClose v) _ _ => v != u
        | _ => true) ++ post } →
      exec (.lfsLockLost u) s = .next
        (if rests then t else (put { r with travel := none, attempts := 0, claim := false } freed).settle u .lock)) ∧
    (s.offers (.stuckAction u) t → exec (.stuckAction u) s = .next
      (if t.unitBound u = false ∨ r.state = .stuck then t
        else (put { r with travel := none, test := none, attempts := 0, claim := false } freed).enterLift u .stuck
          .driver)) ∧
    (s.offers (.unitClear u) t → exec (.unitClear u) s = .next
      (if r.state = .stuck then t.settle u .clear else t))

/-- TEST LIFT energizes a settled bound unit in RUN with the tracker STOPPED, each refusal in its order; the test ends
at its time, at a start notification or at a response LOW: the output is de-energized and the unit takes its state
from its sense. While the test runs no lock lost moves the unit. That a lift entry which comes to a unit under test has
no effect is the model's choice (log 51): the manual has none reach it. -/
def Obligations.LiftTestsRunAndEnd : Prop :=
  (∀ (s t : State) (fields : List Field), s.begins .TEST fields t → fields.head? ≠ some (.word .CH) →
    ((∀ n x, fields ≠ [.word .LIFT, .num n, .num x]) →
      exec (.testLift fields) s = .next (t.answer .TEST .format)) ∧
    ∀ n x, fields = [.word .LIFT, .num n, .num x] →
      (¬ (1 ≤ n ∧ n ≤ 2 ∧ 1 ≤ x ∧ x ≤ 50) → exec (.testLift fields) s = .next (t.answer .TEST .range)) ∧
      ∀ u, n = unitNum u → 1 ≤ x → x ≤ 50 →
        let r := t.lfs.units.get u
        let fit := t.ckt.state = .stopped ∧ (r.state = .high ∨ r.state = .low) ∧ r.test = none ∧
          t.fmg.unitLow.get u = false
        (t.smc.mode ≠ .run → exec (.testLift fields) s = .next (t.answer .TEST .mode)) ∧
        (t.smc.mode = .run → t.unitBound u = false → exec (.testLift fields) s = .next (t.answer .TEST .unbound)) ∧
        (t.smc.mode = .run → t.unitBound u = true → ¬ fit →
          exec (.testLift fields) s = .next (t.answer .TEST .state)) ∧
        (t.smc.mode = .run → t.unitBound u = true → fit → exec (.testLift fields) s = .next ((State.sends
          { t with lfs := { t.lfs with units := t.lfs.units.set u { r with test := some (t.now + ms x.toNat) } } }
          (t.solenoidNews u true)).answer .TEST .ok))) ∧
  ∀ (u : LiftUnit),
    let ends (t : State) (cause : LiftCause) : State :=
      State.settle (State.sends
        { t with lfs := { t.lfs with units := t.lfs.units.set u { t.lfs.units.get u with test := none } } }
        (t.solenoidNews u false)) u cause
    (∀ (s : State) (x : Time), (s.lfs.units.get u).test = some x →
      exec (.liftTestExpiry u) s = .next (ends { s with now := max s.now x } .testEnd)) ∧
    ∀ s t : State,
      (s.offers (.lfsStart u) t → exec (.lfsStartNotification u) s = .next
        (if (t.lfs.units.get u).test.isSome then ends t .abandon else t)) ∧
      (s.offers (.lfsResponse u true) t → exec (.lfsResponseChange u) s = .next
        (if (t.lfs.units.get u).test.isSome then ends t .response else t)) ∧
      (s.offers (.lfsResponse u false) t → exec (.lfsResponseChange u) s = .next t) ∧
      ((t.lfs.units.get u).test ≠ none → (t.lfs.units.get u).state = .high ∨ (t.lfs.units.get u).state = .low →
        (∀ angle cycle,
          (s.offers (.liftEntry (.liftDecide u) angle cycle) t → exec (.lfsLiftDecide u) s = .next t) ∧
          (s.offers (.liftEntry (.liftOpen u) angle cycle) t → exec (.lfsLiftOpen u) s = .next t) ∧
          (s.offers (.liftEntry (.liftClose u) angle cycle) t → exec (.lfsLiftClose u) s = .next t)) ∧
        (s.offers (.lfsLockLost u) t → ∃ s', exec (.lfsLockLost u) s = .next s' ∧ s'.lfs = t.lfs))

/-! ### The Fault Manager -/

/-- What a report makes of its record. A present report counts toward the debounce and brings ACTIVE, a gone one takes
PENDING back and ACTIVE to LATCHED, an event latches at once. An occurrence raises the count up to 255, pushes a
trigger and a notice where the kind asks for them, and hands the fixed actions. Every record change sets the responses
and FLT and hands the clears that the new states call for. That a unit which no LS output binds is handed a unit clear
as soon as its LIFT_NO_CONFIRM record alone is INACTIVE is the model's choice (log 49). -/
def Obligations.ReportsMoveTheirRecord : Prop :=
  (∀ (s t : State) (id : FaultId),
    let r := t.fault id
    let seen := some t.ckt.cycles
    let first : FaultRec := { r with firstSeen := seen, lastSeen := seen, context := some (t.context id) }
    let debounce := (t.tbm.response.get (faultKind id)).debounce
    let takes (kind : ReportKind) : Prop := s.take (wantReport id kind) = some ((), t)
    (takes .present →
      (r.state = .inactive → debounce ≤ 1 →
        exec (.faultPresent id) s = .next (t.occur id { first with state := .active, tally := 0 })) ∧
      (r.state = .inactive → 1 < debounce →
        exec (.faultPresent id) s = .next (t.changeRecord id { first with state := .pending, tally := 1 })) ∧
      (r.state = .pending → debounce ≤ r.tally + 1 →
        exec (.faultPresent id) s = .next (t.occur id { r with state := .active, tally := 0, lastSeen := seen })) ∧
      (r.state = .pending → r.tally + 1 < debounce →
        exec (.faultPresent id) s = .next (t.changeRecord id { r with tally := r.tally + 1, lastSeen := seen })) ∧
      (r.state = .active → exec (.faultPresent id) s = .next (t.changeRecord id { r with lastSeen := seen })) ∧
      (r.state = .latched →
        exec (.faultPresent id) s = .next (t.occur id { r with state := .active, tally := 0, lastSeen := seen }))) ∧
    (takes .gone →
      (r.state = .pending →
        exec (.faultGone id) s = .next (t.changeRecord id ⟨.inactive, r.count, 0, none, none, none⟩)) ∧
      (r.state = .active → exec (.faultGone id) s = .next (t.changeRecord id { r with state := .latched })) ∧
      (r.state = .inactive ∨ r.state = .latched → exec (.faultGone id) s = .next t)) ∧
    (takes .event → exec (.faultEvent id) s = .next (t.occur id
      { (if r.state = .inactive then first else r) with state := .latched, lastSeen := seen }))) ∧
  (∀ (s : State) (id : FaultId) (r : FaultRec),
    let n : FaultRec := { r with count := if r.count < 255 then r.count + 1 else r.count }
    let y := s.tbm.response.get (faultKind id)
    s.changeRecord id r = s.changeRecords (s.fmg.table.set id r) ∧
    s.occur id r = State.sends (s.changeRecord id n)
      ((if y.capture then [.trbPush (.fault id)] else []) ++
        (if y.notify then [.notice .fmg (.flt id n.state n.count n.lastSeen)] else []) ++
        match id with
        | .driverShort (.ocv o) => (s.vdr.ocv.get o).binding.toList.map fun ch => .phcDriverFault ch true
        | .driverShort (.ls o) => (s.vdr.ls.get o).binding.toList.map .stuckAction
        | .driverOpen (.ocv o) => (s.vdr.ocv.get o).binding.toList.map fun ch => .phcDriverFault ch false
        | .driverOpen (.ls o) => (s.vdr.ls.get o).binding.toList.map .stuckAction
        | .parkFail ch => [.phcClass1 ch]
        | _ => [])) ∧
  ∀ (s : State) (new : FaultTable),
    let q : State := { s with fmg := { s.fmg with table := new } }
    let u := q.responsesSet
    let clear (t : FaultTable) (out : Out) : Bool :=
      (t.get (.driverShort out)).state == .inactive && (t.get (.driverOpen out)).state == .inactive
    let calm (t : FaultTable) (v : LiftUnit) : Bool :=
      (t.get (.liftNoConfirm v)).state == .inactive && (s.boundLs v).all fun o => clear t (.ls o)
    s.changeRecords new = State.sends { u with fmg := { u.fmg with flt := q.fltNow } }
      ((allOuts.flatMap fun out =>
        if clear new out && !clear s.fmg.table out then
          .vdrDriverClear out :: (match out with
            | .ocv o => (s.vdr.ocv.get o).binding.toList.map .phcDriverClear
            | .ls _ => [])
        else []) ++
      allUnits.flatMap fun v => if calm new v && !calm s.fmg.table v then [.unitClear v] else [])

/-- The response in force of a channel is the strongest phaser action among the held records that cover it, that of a
unit LOW where a held record with lift action LOW covers it; FLT is asserted while a class-1 record is held or a
channel stands in LOCKOUT. A recomputation sets them by that rule and hands on what changed; a change of LOCKOUT has
FLT evaluated again. -/
def Obligations.ResponsesAndFltFollowTheRecords : Prop :=
  (∀ s : State,
    let held (id : FaultId) : Prop := (s.fault id).state = .active ∨ (s.fault id).state = .latched
    let y (id : FaultId) : ResponseRec := s.tbm.response.get (faultKind id)
    (∀ ch,
      let own (id : FaultId) : Prop :=
        match id with
        | .camPattern c | .camMissing c | .phaserStuck c | .parkFail c => c = ch
        | .driverShort (.ocv o) | .driverOpen (.ocv o) => (s.vdr.ocv.get o).binding = some ch
        | .driverShort (.ls _) | .driverOpen (.ls _) => False
        | .liftNoConfirm u | .liftPosition u => intake u = ch
        | _ => True
      let covers (id : FaultId) : Prop := held id ∧ ((y id).phaserAll = true ∨ own id)
      (s.chanResponseNow ch = .park ↔ ∃ id, covers id ∧ (y id).phaser = .park) ∧
      (s.chanResponseNow ch = .hold ↔
        (¬ ∃ id, covers id ∧ (y id).phaser = .park) ∧ ∃ id, covers id ∧ (y id).phaser = .hold)) ∧
    (∀ u,
      let own (id : FaultId) : Prop :=
        match id with
        | .camPattern c | .camMissing c | .phaserStuck c | .parkFail c => c = intake u
        | .driverShort (.ls o) | .driverOpen (.ls o) => (s.vdr.ls.get o).binding = some u
        | .driverShort (.ocv _) | .driverOpen (.ocv _) => False
        | .liftNoConfirm v | .liftPosition v => v = u
        | _ => True
      s.unitLowNow u = true ↔ ∃ id, held id ∧ (y id).liftLow = true ∧ ((y id).liftAll = true ∨ own id)) ∧
    (s.fltNow = true ↔ (∃ ch, held (.parkFail ch) ∨ (s.phc.chans.get ch).state = .lockout) ∨
      (∃ out, held (.driverShort out)) ∨ held .liftMismatch) ∧
    s.recompute = s.responsesSet) ∧
  ∀ s t : State, s.offers .lockoutChange t →
    exec .fmgLockoutChange s = .next { t with fmg := { t.fmg with flt := t.fltNow } }

/-- The requests of the Fault Manager. RSPW replaces one response record in STANDBY, with the refusals in their order,
and has the responses recomputed; RSPR reads the table. FLTR reads records and responses. FLTC clears the LATCHED ones
among the records it names, as one record change, and answers how many it cleared and how many are still present. Both
refuse with FORMAT where the first field names no kind, where a field follows the second, and where the second is no
number, output or "-"; with RANGE where it is one but no instance of the kind. A record line carries kind, instance,
state, count, tally, first-seen, last-seen and the context for its scope, "-" for what is absent. That RSPW with fields
that do not read is FORMAT whatever word stands misplaced, that "-" as the only field of RSPR, FLTR or FLTC is no kind,
and that "-" as the second field of FLTR or FLTC names the device instance, is the model's choice (log 21), and so are
the words and the order of the FORCE and the record lines, and the kind before the seven fields in the lines of an RSPR
with no field (log 18). -/
def Obligations.FaultRequestsReadAndClear : Prop :=
  ∀ (s t : State) (fields : List Field),
    let shown (r : ResponseRec) : List Field :=
      [.word (actionWord r.phaser), .word (if r.phaserAll then .ALL else .OWN), .word (if r.liftLow then .LOW else .NONE),
        .word (if r.liftAll then .ALL else .OWN), .num r.debounce, yesNo r.capture, yesNo r.notify]
    let instance_ (i : Field) : Prop := i = .absent ∨ (∃ v, i = .num v) ∨ ∃ out, i = .word (outWord out)
    let refusals (refused : Status → Prop) : Prop :=
      ((∀ k rest, fields ≠ .word (kindWord k) :: rest) → refused .format) ∧
      (∀ k i rest, fields = .word (kindWord k) :: i :: rest → rest ≠ [] ∨ ¬ instance_ i → refused .format) ∧
      (∀ k i, fields = [.word (kindWord k), i] → instance_ i →
        (∀ id, faultKind id = k → faultInstance id ≠ i) → refused .range)
    (∀ id,
      let r := t.fault id
      let cycle (c : Option Word32) : Field := c.elim .absent fun c => .num c.toNat
      let flag (b : Bool) (x y : Token) : Field := .word (if b then x else y)
      faultInstance id = (match id with
        | .camPattern ch | .camMissing ch | .phaserStuck ch | .parkFail ch => .num (chanNum ch)
        | .driverShort out | .driverOpen out => .word (outWord out)
        | .liftNoConfirm u | .liftPosition u => .num (unitNum u)
        | _ => .absent) ∧
      t.recordLine id = [.word (kindWord (faultKind id)), faultInstance id, .word (recStateWord r.state), .num r.count,
          .num r.tally, cycle r.firstSeen, cycle r.lastSeen] ++
        match r.context with
        | none => List.replicate (5 + match id with
          | .camPattern _ | .camMissing _ | .phaserStuck _ | .parkFail _ => 5
          | .driverShort _ | .driverOpen _ => 3
          | .liftNoConfirm _ | .liftPosition _ => 2
          | _ => 0) .absent
        | some c => [.word (modeWord c.mode), .word (crankWord c.crank), .num c.rpm, .word (supplyWord c.supplyState),
            .num c.supply] ++ match c.scope with
          | .device => []
          | .channel st presented phase valid duty =>
            [.word (chanStateWord st), .num presented, .num phase, flag valid .SET .CLEAR, .num duty]
          | .ocv line (some (ch, st)) => [flag line .ON .OFF, .num (chanNum ch), .word (chanStateWord st)]
          | .ls line (some (u, st)) => [flag line .ON .OFF, .num (unitNum u), .word (liftStateWord st)]
          | .ocv line none | .ls line none => [flag line .ON .OFF, .absent, .absent]
          | .unit st intake => [.word (liftStateWord st), .word (chanStateWord intake)]) ∧
    (∀ k, (∀ id, id ∈ kindRecords k ↔ faultKind id = k) ∧
      (kindRecords k).map faultInstance ∈ [[.absent], [1, 2].map .num, [1, 2, 3, 4].map .num,
        [Token.OCVA, .OCVB, .OCVC, .OCVD, .LSA, .LSB].map .word]) ∧
    (s.begins .RSPW fields t →
      ((∀ k r (d : Int), fields ≠ .word (kindWord k) :: (shown r).set 4 (.num d)) → exec (.rspw fields) s = .next (t.answer .RSPW .format)) ∧
      ∀ (k : FaultKind) (r : ResponseRec) (d : Int),
        fields = .word (kindWord k) :: (shown r).set 4 (.num d) →
        let wrong := d < 1 ∨ 8 < d ∨ k = .parkFail ∧ r.phaser ≠ .park ∨ k = .liftMismatch ∧ r.liftLow = false
        (t.smc.mode ≠ .standby → exec (.rspw fields) s = .next (t.answer .RSPW .mode)) ∧
        (t.smc.mode = .standby → t.saving .response = true →
          exec (.rspw fields) s = .next (t.answer .RSPW .busy)) ∧
        (t.smc.mode = .standby → t.saving .response = false → wrong →
          exec (.rspw fields) s = .next (t.answer .RSPW .range)) ∧
        (t.smc.mode = .standby → t.saving .response = false → ¬ wrong → exec (.rspw fields) s =
          .next ((State.responsesSet { t with tbm := { t.tbm with
            response := t.tbm.response.set k { r with debounce := d.toNat }
            responseOrigin := .edited } }).answer .RSPW .ok))) ∧
    (s.begins .RSPR fields t →
      (fields = [] → exec (.rspr fields) s = .next
        (t.answerRun .RSPR (allKinds.map fun k => .word (kindWord k) :: shown (t.tbm.response.get k)))) ∧
      (fields = [.word .ORIGIN] →
        exec (.rspr fields) s = .next (t.answer .RSPR .ok [.word (originWord t.tbm.responseOrigin)])) ∧
      (∀ k, fields = [.word (kindWord k)] →
        exec (.rspr fields) s = .next (t.answer .RSPR .ok (shown (t.tbm.response.get k)))) ∧
      (fields ≠ [] → fields ≠ [.word .ORIGIN] → (∀ k, fields ≠ [.word (kindWord k)]) →
        exec (.rspr fields) s = .next (t.answer .RSPR .format))) ∧
    (s.begins .FLTR fields t →
      (fields = [] → allFaultIds.length = 40 ∧
        exec (.fltr fields) s = .next (t.answerRun .FLTR (allFaultIds.map t.recordLine))) ∧
      (fields = [.word .FORCE] → exec (.fltr fields) s = .next (t.answer .FLTR .ok
        ((t.fmg.chanResponse.toList.map fun a => .word (actionWord a)) ++
          (t.fmg.unitLow.toList.map fun b => .word (if b then .LOW else .NONE)) ++
          [.word (if t.fmg.flt then .ASSERTED else .RELEASED)]))) ∧
      (∀ k, fields = [.word (kindWord k)] →
        exec (.fltr fields) s = .next (t.answerRun .FLTR ((kindRecords k).map t.recordLine))) ∧
      (∀ id, fields = [.word (kindWord (faultKind id)), faultInstance id] →
        exec (.fltr fields) s = .next (t.answer .FLTR .ok (t.recordLine id))) ∧
      (fields ≠ [] → fields ≠ [.word .FORCE] → refusals fun st =>
        exec (.fltr fields) s = .next (t.answer .FLTR st))) ∧
    (s.begins .FLTC fields t →
      (fields ≠ [.word .ALL] → refusals fun st => exec (.fltc fields) s = .next (t.answer .FLTC st)) ∧
      ∀ ids : List FaultId,
        (fields = [.word .ALL] ∧ ids = allFaultIds ∨ (∃ k, fields = [.word (kindWord k)] ∧ ids = kindRecords k) ∨
          ∃ id, fields = [.word (kindWord (faultKind id)), faultInstance id] ∧ ids = [id]) →
        ∃ new : FaultTable,
          (∀ id, new.get id = if id ∈ ids ∧ (t.fault id).state = .latched then
            ⟨.inactive, (t.fault id).count, 0, none, none, none⟩ else t.fault id) ∧
          exec (.fltc fields) s = .next ((t.changeRecords new).answer .FLTC .ok
            [.num (ids.filter fun id => (t.fault id).state == .latched).length,
              .num (ids.filter fun id => (t.fault id).state == .active || (t.fault id).state == .pending).length]))

/-! ### The Calibration Store -/

/-- What a region's pages say of it, with the generation of the lowest page that passes its check with the right
region id and page index, 0 where there is none; what a programmed page holds; SAVE with its refusals in their order,
abandoning a sweep and beginning at the region's first page, or suspended under a low supply; the end of a page, which
programs it and begins the next, suspends, or completes the save with the region evaluated and its table's origin
LOADED, all else of the Table Memory as it was. With the operation over its record has the kind NONE; not RUNNING, no
suspension pending and page 0 beside that kind are the model's choice (log 54). The payload bytes the manual does not
give (log 8). GUARD is read as the request is performed (log 15). That the supply state is read as it stands, ahead of
the handover of a change, and that without a suspension pending the next page begins, is the model's choice (log 24).
-/
def Obligations.SavesWriteTheirRegionPageByPage : Prop :=
  (∀ (r : Region) (pages : List Page),
    (∀ g, pages ≠ [] → (∀ (i : Nat) (p : Page), pages[i]? = some p → p.good r i = true ∧ p.gen = g) →
      evaluatePages r pages = ⟨.valid, g⟩) ∧
    (pages ≠ [] → (∀ p ∈ pages, p.isErased = true) → evaluatePages r pages = ⟨.blank, 0⟩) ∧
    ((∃ (i : Nat) (p : Page), pages[i]? = some p ∧ p.good r i = false) → (∃ p ∈ pages, p.isErased = false) →
      (evaluatePages r pages).status = .invalid) ∧
    (∀ (i : Nat) (p : Page), pages[i]? = some p → p.good r i = true →
      (∀ (j : Nat) (q : Page), j < i → pages[j]? = some q → q.good r j = false) →
      (evaluatePages r pages).gen = p.gen) ∧
    ((∀ (i : Nat) (p : Page), pages[i]? = some p → p.good r i = false) → (evaluatePages r pages).gen = 0) ∧
    (∀ (p : Page) (i : Nat), p.good r i = true ↔
      p.passes = true ∧ p.byte 0 = BitVec.ofNat 8 (regionId r) ∧ p.byte 1 = BitVec.ofNat 8 i) ∧
    ((∃ (i j : Nat) (p q : Page), pages[i]? = some p ∧ pages[j]? = some q ∧ p.good r i = true ∧ q.good r j = true ∧
      p.gen ≠ q.gen) → (evaluatePages r pages).status = .invalid)) ∧
  (∀ (id index : Nat) (g : Gen) (image : TableImage), let p := Page.build id index g image
    p.bytes.length = 128 ∧ p.passes = true ∧ p.byte 0 = BitVec.ofNat 8 id ∧ p.byte 1 = BitVec.ofNat 8 index ∧
      p.gen = g ∧ (p.bytes.drop 5).take 3 = [0, 0, 0] ∧ (p.byte 4).toNat ≤ 116) ∧
  (∀ (s t : State) (fields : List Field) (g : Bool), s.begins .SAVE fields t →
    let u : State := { t with cst := { t.cst with guardOn := g } }
    ((∀ r, fields ≠ [.word (regionWord r)]) → exec (.save g fields) s = .next (u.answer .SAVE .format)) ∧
    ∀ r, fields = [.word (regionWord r)] →
      let kept := r = .ident ∨ t.cst.locks.get r = true ∨ (r = .layout ∨ r = .tuning ∨ r = .response) ∧ g = true
      let gen := (t.cst.regions.get r).gen
      (kept → exec (.save g fields) s = .next (u.answer .SAVE .protect)) ∧
      (∀ x y z, ¬ kept → t.cst.op.kind = .save x y z → exec (.save g fields) s = .next (u.answer .SAVE .busy)) ∧
      (¬ kept → (∀ x y z, t.cst.op.kind ≠ .save x y z) →
        ∃ image, t.tbm.image r = some image ∧
        let v : State := if t.cst.op.kind = .sweep then State.sends
          { u with cst := { u.cst with op := .idle, sweep := .abandoned } } [.notice .cst (.stoSweep .abandoned)] else u
        let op (running : Bool) : StoreOp := ⟨.save r (gen + 1) image, running, false, regionFirst r, none⟩
        (t.smc.supplyState = .normal → exec (.save g fields) s = .next (State.answer
          { v with cst := { v.cst with
            op := op true
            pages := v.cst.pages.set (regionFirst r) ⟨List.replicate 128 0xFF#8, none⟩
            regions := v.cst.regions.set r ⟨.invalid, gen⟩ } } .SAVE .accepted)) ∧
        (t.smc.supplyState ≠ .normal → exec (.save g fields) s = .next
          (State.answer { v with cst := { v.cst with op := op false } } .SAVE .accepted)))) ∧
  ∀ (s : State) (dt : Nat),
    ((∀ r g image, s.cst.op.kind ≠ .save r g image) ∨ s.cst.op.running = false →
      exec (.savePageEnd dt) s = .next s) ∧
    ∀ r g image, s.cst.op.kind = .save r g image → s.cst.op.running = true → regionFirst r ≤ s.cst.op.page →
      let n := s.cst.op.page
      let last := regionFirst r + regionSize r
      let pages := s.cst.pages.set n (.build (regionId r) (n - regionFirst r) g image)
      let stops := s.cst.op.suspendPending = true ∧ s.smc.supplyState ≠ .normal
      (n + 1 < last → stops → exec (.savePageEnd dt) s = .next { s with
        now := s.now + dt
        cst := { s.cst with pages := pages, op := { s.cst.op with
          page := n + 1, running := false, suspendPending := false, resume := none } } }) ∧
      (n + 1 < last → ¬ stops → exec (.savePageEnd dt) s = .next { s with
        now := s.now + dt
        cst := { s.cst with
          pages := pages.set (n + 1) ⟨List.replicate 128 0xFF#8, none⟩
          op := { s.cst.op with page := n + 1, suspendPending := false } } }) ∧
      (last ≤ n + 1 →
        let x := evaluatePages r ((List.range (regionSize r)).map fun i => pages.getD (regionFirst r + i) .erased)
        exec (.savePageEnd dt) s = .next (State.sends
          { s with
            now := s.now + dt
            tbm := { s.tbm with
              layoutOrigin := if r = .layout then .loaded else s.tbm.layoutOrigin
              tuningOrigin := if r = .tuning then .loaded else s.tbm.tuningOrigin
              responseOrigin := if r = .response then .loaded else s.tbm.responseOrigin }
            cst := { s.cst with
              pages := pages, op := ⟨.none, false, false, 0, none⟩, regions := s.cst.regions.set r x
              lastSave := some ⟨r, true, g⟩ } }
          [.notice .cst (.stoSave r true x.gen)]))

/-- The store works while the supply is NORMAL: leaving it marks a running operation to suspend, NORMAL starts the 100
ms of a suspended one, whose expiry has it go on at its current page. A sweep reads page after page, stops at a
damaged one with its region INVALID and STORE_DAMAGED reported, and ends CLEAN after page 35. That SWEP and, with a
suspension pending, a page's end read the supply state as it stands, ahead of the handover of a change, and that
without one pending the work goes on, is the model's choice (log 24), and so are the state and page of the record of
an operation that has ended (log 54). -/
def Obligations.SweepsAndSuspensions : Prop :=
  (∀ (s t : State) (x : SupplyState), s.offers (.cstSupply x) t →
    let op (y : StoreOp) : State := { t with cst := { t.cst with op := y } }
    let o := t.cst.op
    (o.kind = .none ∨ o.running = true ∧ x = .normal → exec .cstSupplyChange s = .next t) ∧
    (o.kind ≠ .none → o.running = true → x ≠ .normal →
      exec .cstSupplyChange s = .next (op { o with suspendPending := true })) ∧
    (o.kind ≠ .none → o.running = false → exec .cstSupplyChange s =
      .next (op { o with resume := if x = .normal then some (t.now + ms 100) else none }))) ∧
  (∀ (s : State) (x : Time), s.cst.op.resume = some x →
    let t : State := { s with
      now := max s.now x
      cst := { s.cst with op := { s.cst.op with running := true, suspendPending := false, resume := none } } }
    (s.cst.op.kind = .sweep → exec .resumeTimerExpiry s = .next t) ∧
    ∀ r g image, s.cst.op.kind = .save r g image → exec .resumeTimerExpiry s = .next { t with cst := { t.cst with
      pages := t.cst.pages.set s.cst.op.page ⟨List.replicate 128 0xFF#8, none⟩
      regions := if s.cst.op.page = regionFirst r then
        t.cst.regions.set r { t.cst.regions.get r with status := .invalid } else t.cst.regions } }) ∧
  (∀ (s t : State) (fields : List Field), s.begins .SWEP fields t →
    (fields ≠ [] → exec (.swep fields) s = .next (t.answer .SWEP .format)) ∧
    (fields = [] → t.cst.op.kind ≠ .none → exec (.swep fields) s = .next (t.answer .SWEP .busy)) ∧
    (fields = [] → t.cst.op.kind = .none → exec (.swep fields) s = .next (State.answer
      { t with cst := { t.cst with
        op := ⟨.sweep, t.smc.supplyState == .normal, false, 0, none⟩, sweep := .none } } .SWEP .accepted))) ∧
  ∀ (s : State) (dt : Nat), s.cst.op.kind = .sweep → s.cst.op.running = true →
    let n := s.cst.op.page
    let t : State := { s with now := s.now + dt }
    let r := regionOfPage n
    let damaged := (s.page n).passes = false ∧ (s.page n).isErased = false
    let stops := s.cst.op.suspendPending = true ∧ s.smc.supplyState ≠ .normal
    (damaged → exec (.sweepPageCheck dt) s = .next (State.sends
      { t with cst := { t.cst with
        op := .idle, sweep := .damaged n, regions := t.cst.regions.set r { t.cst.regions.get r with status := .invalid } } }
      [.report .cst .storeDamaged .event, .notice .cst (.stoSweep (.damaged n))])) ∧
    (¬ damaged → 35 ≤ n → exec (.sweepPageCheck dt) s = .next (State.sends
      { t with cst := { t.cst with op := .idle, sweep := .clean } } [.notice .cst (.stoSweep .clean)])) ∧
    (¬ damaged → n < 35 → stops → exec (.sweepPageCheck dt) s = .next { t with cst := { t.cst with op := { t.cst.op with
      page := n + 1, running := false, suspendPending := false, resume := none } } }) ∧
    (¬ damaged → n < 35 → ¬ stops → exec (.sweepPageCheck dt) s = .next { t with cst := { t.cst with op := { t.cst.op with
      page := n + 1, suspendPending := false } } })

/-- PAGE: a bad field count or a field that is not decimal is refused with FORMAT, a page out of range with RANGE; a
running operation refuses every page, a suspended save its current page with BUSY; any other is answered with page
number, verdict and the 128 bytes, two hexadecimal digits each; nothing changes but the answer. That the digits A to F
are sent as capitals is the model's choice (log 18). -/
def Obligations.PageReadsOnePage : Prop :=
  (∀ (s t : State) (fields : List Field), s.begins .PAGE fields t →
    ((∀ v, fields ≠ [.num v]) → exec (.page fields) s = .next (t.answer .PAGE .format)) ∧
    ∀ v, fields = [.num v] →
      let o := t.cst.op
      let p := t.page v.toNat
      let hidden := o.kind ≠ .none ∧ (o.running = true ∨ o.kind ≠ .sweep ∧ o.page = v.toNat)
      (v < 0 ∨ 35 < v → exec (.page fields) s = .next (t.answer .PAGE .range)) ∧
      (0 ≤ v → v ≤ 35 → hidden → exec (.page fields) s = .next (t.answer .PAGE .busy)) ∧
      (0 ≤ v → v ≤ 35 → ¬ hidden → exec (.page fields) s = .next (t.answer .PAGE .ok
        [.num v, .word (if p.passes then .GOOD else if p.isErased then .ERASED else .DAMAGED), .hex p.bytes]))) ∧
  ∀ l : List Byte, fieldCodes (.hex l) = l.flatMap fun b => [hexDigit (b.toNat / 16), hexDigit (b.toNat % 16)]

/-- ABRT ends what runs: a sweep ABANDONED, a save ABORTED with the region evaluated, the page a running save has in
progress left erased or damaged, which of the two the manual leaves open, and the region INVALID either way, one that
was BLANK too (log 9). STST reports the store in twelve lines: the operation with RUNNING or SUSPENDED, PENDING where
a suspension is, and the current page, for a save its region and generation before these; the eight regions; the sweep
result, with the page of a damaged one; the last save's region, outcome and generation; GUARD. LOCK sets a region's
mark once, with its refusals in their order, and empties the arm record each time. The generation kept in the result
of an aborted save, and the words and the order of STST's fields, with the operation line of no operation the word
NONE alone, are the model's choices (log 40, 18), and so are the state and page of the record of an operation that has
ended (log 54). -/
def Obligations.AbortsStatusAndLocks : Prop :=
  ∀ (s t : State) (fields : List Field),
    (s.begins .ABRT fields t →
      let ok (q : State) (x : Token) : Outcome := .next (q.answer .ABRT .ok [.word x])
      (fields ≠ [] → exec (.abrt fields) s = .next (t.answer .ABRT .format)) ∧
      (fields = [] → t.cst.op.kind = .none → exec (.abrt fields) s = ok t .NONE) ∧
      (fields = [] → t.cst.op.kind = .sweep → exec (.abrt fields) s = ok (State.sends
        { t with cst := { t.cst with op := .idle, sweep := .abandoned } } [.notice .cst (.stoSweep .abandoned)]) .SWEEP) ∧
      ∀ r g image, fields = [] → t.cst.op.kind = .save r g image →
        let x (pages : List Page) : RegionRec :=
          evaluatePages r ((List.range (regionSize r)).map fun i => pages.getD (regionFirst r + i) .erased)
        let ended (q : State) (pages : List Page) : State := State.sends
          { q with cst := { q.cst with
            pages := pages, op := .idle, regions := q.cst.regions.set r (x pages), lastSave := some ⟨r, false, g⟩ } }
          [.notice .cst (.stoSave r false (x pages).gen)]
        (t.cst.op.running = false → exec (.abrt fields) s = ok (ended t t.cst.pages) .SAVE) ∧
        (t.cst.op.running = true → ∃ p : Page, (p.isErased = true ∨ p.damaged = true) ∧ exec (.abrt fields) s =
          ok (ended { t with freeCount := t.freeCount + 1 } (t.cst.pages.set t.cst.op.page p)) .SAVE ∧
          (t.cst.guarded → t.cst.pages.length = 36 → (x (t.cst.pages.set t.cst.op.page p)).status = .invalid))) ∧
    (∀ g, s.begins .STST fields t →
      let u : State := { t with cst := { t.cst with guardOn := g } }
      let o := t.cst.op
      let work : List Field := [.word (if o.running then .RUNNING else .SUSPENDED),
        if o.suspendPending then .word .PENDING else .absent, .num o.page]
      let operation : List Field := match o.kind with
        | .none => [.word .NONE]
        | .sweep => .word .SWEEP :: work
        | .save r gen _ => .word .SAVE :: .word (regionWord r) :: .num gen.toNat :: work
      let sweep : List Field := match t.cst.sweep with
        | .none => [.word .NONE]
        | .clean => [.word .CLEAN]
        | .damaged n => [.word .DAMAGED, .num n]
        | .abandoned => [.word .ABANDONED]
      let lastSave : List Field := match t.cst.lastSave with
        | none => [.word .NONE]
        | some x => [.word (regionWord x.region), .word (if x.complete then .COMPLETE else .ABORTED), .num x.gen.toNat]
      (fields ≠ [] → exec (.stst g fields) s = .next (u.answer .STST .format)) ∧
      (fields = [] → exec (.stst g fields) s = .next (u.answerRun .STST
        (operation :: (allRegions.map fun r => [.word (regionStatusWord (t.cst.regions.get r).status),
            .num (t.cst.regions.get r).gen.toNat, .word (if t.cst.locks.get r then .SET else .CLEAR)]) ++
          [sweep, lastSave, [.word (if g then .ASSERTED else .RELEASED)]])))) ∧
    (s.begins .LOCK fields t →
      let u : State := { t with clp := { t.clp with arm := none } }
      let armed := ∃ x, s.clp.arm = some (.lock, x)
      ((∀ r, fields ≠ [.word (regionWord r)]) → exec (.lock fields) s = .next (u.answer .LOCK .format)) ∧
      ∀ r, fields = [.word (regionWord r)] →
        (¬ armed → exec (.lock fields) s = .next (u.answer .LOCK .notArmed)) ∧
        (armed → t.cst.locks.get r = true → exec (.lock fields) s = .next (u.answer .LOCK .ok)) ∧
        (armed → t.cst.locks.get r = false → t.saving r = true →
          exec (.lock fields) s = .next (u.answer .LOCK .busy)) ∧
        (armed → t.cst.locks.get r = false → t.saving r = false → exec (.lock fields) s = .next (State.answer
          { u with cst := { u.cst with locks := u.cst.locks.set r true } } .LOCK .ok)))

/-! ### The Table Memory -/

/-- LAYW, TUNW and MAPW, with their refusals in their order: LAYW in STANDBY replaces one item whole; TUNW writes all
its values or, where a range or a pair fails, none; MAPW writes one part of a map and sets its marks, and a map with
every mark set is available. Each is refused with BUSY while its table's region is being saved. RANGE comes of these:
an instance, scope or channel number outside its range; a value outside its item's or part's range; an edge count
outside 1 to 6; a line of LAYW's format with another word or value where its item has a direction, a polarity, YES or NO,
a binding (a letter or 0), the letter of an output, or a number; a LIFT item with a binding and an absent angle; a broken pair of Tuning items; a ROW that runs past
column 12; breakpoints or temperatures that do not ascend. FORMAT comes of any other line than these: for LAYW an item
with its number of fields, each a decimal value, a word of the item, or "-" where it may be absent; for TUNW a scope and
one to eight pairs of an item of that scope and a decimal value, no item twice; for MAPW a decimal channel and a part
with its number of decimal values. The ranges of the Tuning items are those of the two tables. How a scope of TUNW is spelled, and which faults of a field
are FORMAT, are the model's choices (log 17, 21). -/
def Obligations.TableWritesReplaceWhatTheyName : Prop :=
  (∀ (s t : State) (fields : List Field),
    (s.begins .LAYW fields t →
      (laywFormat fields = false → exec (.layw fields) s = .next (t.answer .LAYW .format)) ∧
      (laywFormat fields = true → t.smc.mode ≠ .standby → exec (.layw fields) s = .next (t.answer .LAYW .mode)) ∧
      (laywFormat fields = true → t.smc.mode = .standby → t.saving .layout = true →
        exec (.layw fields) s = .next (t.answer .LAYW .busy)) ∧
      (laywFormat fields = true → t.smc.mode = .standby → t.saving .layout = false →
        laywWrite t.tbm.layout fields = none → exec (.layw fields) s = .next (t.answer .LAYW .range)) ∧
      (∀ l, laywFormat fields = true → t.smc.mode = .standby → t.saving .layout = false →
        laywWrite t.tbm.layout fields = some l → exec (.layw fields) s =
          .next (State.answer { t with tbm := { t.tbm with layout := l, layoutOrigin := .edited } } .LAYW .ok))) ∧
    (s.begins .TUNW fields t →
      ((∀ sc rest, readScope fields = some (sc, rest) → tunwPairs? sc rest = none) →
        exec (.tunw fields) s = .next (t.answer .TUNW .format)) ∧
      ∀ sc rest l, readScope fields = some (sc, rest) → tunwPairs? sc rest = some l →
        (t.saving .tuning = true → exec (.tunw fields) s = .next (t.answer .TUNW .busy)) ∧
        (t.saving .tuning = false → t.tbm.tuning.writeAll sc l = none →
          exec (.tunw fields) s = .next (t.answer .TUNW .range)) ∧
        (∀ y, t.saving .tuning = false → t.tbm.tuning.writeAll sc l = some y → exec (.tunw fields) s =
          .next (State.answer { t with tbm := { t.tbm with tuning := y, tuningOrigin := .edited } } .TUNW .ok))) ∧
    (s.begins .MAPW fields t →
      (mapwFormat fields = false → exec (.mapw fields) s = .next (t.answer .MAPW .format)) ∧
      ∀ ch rest, fields = ch :: rest → mapwFormat fields = true →
        (t.savingMap ch = true → exec (.mapw fields) s = .next (t.answer .MAPW .busy)) ∧
        (t.savingMap ch = false → t.tbm.writeMap ch rest = none →
          exec (.mapw fields) s = .next (t.answer .MAPW .range)) ∧
        (∀ y, t.savingMap ch = false → t.tbm.writeMap ch rest = some y →
          exec (.mapw fields) s = .next (State.answer { t with tbm := y } .MAPW .ok)))) ∧
  (∀ fields : List Field,
    let num (f : Field) : Prop := ∃ v, f = .num v
    let of_ (words : List Token) (f : Field) : Prop := num f ∨ ∃ x ∈ words, f = .word x
    (laywFormat fields = true ↔
      (∃ a b c d e, fields = [.word .WHEEL, a, b, c, d, e] ∧ num a ∧ num b ∧ num c ∧ num d ∧ (e = .absent ∨ num e)) ∨
      (∃ a, fields = [.word .CYL, a] ∧ num a) ∨
      (∃ rest, fields = .word .CAM :: rest ∧ rest.length = 5 ∧ ∀ f ∈ rest, of_ [.ADV, .RET, .YES, .NO] f) ∨
      (∃ (ch : Field) (n : Int) (rest : List Field), fields = .word .EDGE :: ch :: .num n :: rest ∧
        (rest.length : Int) = 2 * n ∧ ∀ f ∈ ch :: rest, of_ [.RISE, .FALL] f) ∨
      (∃ rest, fields = .word .BIND :: rest ∧ rest.length = 3 ∧ ∀ f ∈ rest, of_ [.A, .B, .C, .D] f) ∨
      (∃ u d n a b c, fields = [.word .LIFT, u, d, n, a, b, c] ∧ (∀ f ∈ [u, d, n], of_ [.A, .B] f) ∧
        ∀ f ∈ [a, b, c], f = .absent ∨ of_ [.A, .B] f) ∨
      ∃ o x, fields = [.word .PWM, o, x] ∧ of_ [.A, .B, .C, .D] o ∧ (x = .absent ∨ of_ [.A, .B, .C, .D] x)) ∧
    (mapwFormat fields = true ↔ ∃ ch part rest, fields = ch :: .word part :: rest ∧ num ch ∧ (∀ f ∈ rest, num f) ∧
      (part = .ROW ∧ 3 ≤ rest.length ∧ rest.length ≤ 14 ∨ part = .RPM ∧ rest.length = 16 ∨
        part = .LOAD ∧ rest.length = 12 ∨ part = .DERATE ∧ rest.length = 16)) ∧
    (∀ sc rest, readScope fields = some (sc, rest) ↔
      (∃ n, fields = .word .CH :: .num n :: rest ∧ sc = .chan (.num n)) ∨
      (∃ n, fields = .word .LIFT :: .num n :: rest ∧ sc = .unit (.num n)) ∨
      (fields = .absent :: rest ∧ sc = .device) ∨
      ∃ n, fields = .num n :: rest ∧ sc =
        if rest.head? = some (.word .TRAVEL_MS) ∨ rest.head? = some (.word .MARGIN_MS) then .unit (.num n)
        else .chan (.num n)) ∧
    ∀ sc l, tunwPairs? sc fields = some l ↔
      fields = l.flatMap (fun p => [.word p.1, .num p.2]) ∧ 1 ≤ l.length ∧ l.length ≤ 8 ∧ (l.map Prod.fst).Nodup ∧
        ∀ p ∈ l, sc.range p.1 ≠ none) ∧
  (∀ (x : Token) (lo hi : Nat) (f : Field),
    TuneScope.range (.chan f) = chanTuneRange ∧ TuneScope.range (.unit f) = unitTuneRange ∧
    TuneScope.range .device = devTuneRange ∧
    (chanTuneRange x = some (lo, hi) ↔ (x, lo, hi) ∈ [(.KP, 0, 1000), (.KI, 0, 500), (.ILIM, 0, 1000), (.HOLD0, 0, 1000),
      (.DMIN, 0, 1000), (.DMAX, 0, 1000), (.DEADBAND, 0, 64), (.SLEW, 1, 960), (.RELEASE_RPM, 0, 18000),
      (.RELEASE_KPA, 0, 1000), (.HOLD_KPA, 0, 1000), (.RELEASE_DUTY, 0, 1000), (.RELEASE_MS, 10, 500),
      (.PARK_TOL, 0, 160), (.PARK_MS, 50, 2000), (.STEP, 8, 960), (.STUCK_CYCLES, 1, 64), (.MOVE_MIN, 1, 480)]) ∧
    (unitTuneRange x = some (lo, hi) ↔ (x, lo, hi) ∈ [(.TRAVEL_MS, 5, 100), (.MARGIN_MS, 0, 50)]) ∧
    (devTuneRange x = some (lo, hi) ↔ (x, lo, hi) ∈ [(.CEILING_RPM, 0, 18000), (.UP_RPM, 0, 18000), (.UP_LOAD, 0, 1000),
      (.DOWN_RPM, 0, 18000), (.DOWN_LOAD, 0, 1000), (.STALE_MS, 20, 500), (.HOLD_LIMIT_MS, 50, 5000)])) ∧
  (∀ (l : Layout) (ch : Chan) (u : LiftUnit) (o : LineABCD),
    let c : Field := .num (chanNum ch)
    (∀ p m g f x : Int, laywWrite l [.word .WHEEL, .num p, .num m, .num g, .num f, .num x] =
      if 12 ≤ p ∧ p ≤ 60 ∧ 1 ≤ m ∧ m ≤ 2 ∧ 12 ≤ g ∧ g ≤ 28 ∧ 0 ≤ f ∧ f ≤ 5759 ∧ 20 ≤ x ∧ x ≤ 1000 then
        some { l with wheel := some ⟨p.toNat, m.toNat, g.toNat, f.toNat, x.toNat⟩ } else none) ∧
    (∀ p m g f : Int, laywWrite l [.word .WHEEL, .num p, .num m, .num g, .num f, .absent] =
      laywWrite l [.word .WHEEL, .num p, .num m, .num g, .num f, .num 200]) ∧
    (∀ x : Int, laywWrite l [.word .CYL, .num x] =
      if 0 ≤ x ∧ x ≤ 11519 then some { l with cyl := some x.toNat } else none) ∧
    (∀ (d : Dir) (r h : Int) (b : Bool), laywWrite l [.word .CAM, c, .word (dirWord d), .num r, .num h, yesNo b] =
      if 0 ≤ r ∧ r ≤ 960 ∧ 16 ≤ h ∧ h ≤ 480 then
        some { l with cam := l.cam.set ch (some ⟨d, r.toNat, h.toNat, b⟩) } else none) ∧
    (∀ es : List (Int × Polarity),
      laywWrite l (.word .EDGE :: c :: .num es.length :: es.flatMap fun e => [.num e.1, .word (polWord e.2)]) =
        if 1 ≤ es.length ∧ es.length ≤ 6 ∧ ∀ e ∈ es, 0 ≤ e.1 ∧ e.1 ≤ 11519 then
          some { l with edges := l.edges.set ch (es.map fun e => ⟨e.1.toNat, e.2⟩) } else none) ∧
    (∀ b : BindItem, laywWrite l (.word .BIND :: c :: bindFields b) = some { l with bind := l.bind.set ch b }) ∧
    (∀ (d n : Option LineAB) (a b e : Option Int),
      let angle (x : Option Int) : Field := x.elim .absent .num
      laywWrite l [.word .LIFT, .num (unitNum u), orZero abWord d, orZero abWord n, angle a, angle b, angle e] =
        if (d = none ∧ n = none ∨ a ≠ none ∧ b ≠ none ∧ e ≠ none) ∧
            (∀ x ∈ [a, b, e], 0 ≤ x.getD 0 ∧ x.getD 0 ≤ 11519) then
          some { l with lift := l.lift.set u ⟨d, n, a.map Int.toNat, b.map Int.toNat, e.map Int.toNat⟩ } else none) ∧
    (∀ p : Int, laywWrite l [.word .PWM, .word (abcdWord o), .num p] =
      if 2000 ≤ p ∧ p ≤ 10000 then some { l with pwm := l.pwm.set o p.toNat } else none) ∧
    laywWrite l [.word .PWM, .word (abcdWord o), .absent] = some { l with pwm := l.pwm.set o 4000 } ∧
    ∀ (n : Int) (rest : List Field),
      (n < 1 ∨ 4 < n → laywWrite l (.word .CAM :: .num n :: rest) = none ∧
        laywWrite l (.word .EDGE :: .num n :: rest) = none ∧ laywWrite l (.word .BIND :: .num n :: rest) = none) ∧
      (n < 1 ∨ 2 < n → laywWrite l (.word .LIFT :: .num n :: rest) = none) ∧
      laywWrite l (.word .PWM :: .num n :: rest) = none) ∧
  (∀ (l : Layout) (fields : List Field), laywFormat fields = true →
    ¬ ((∃ (p m g f : Int) (x : Option Int),
        fields = [.word .WHEEL, .num p, .num m, .num g, .num f, x.elim .absent .num]) ∨
      (∃ x : Int, fields = [.word .CYL, .num x]) ∨
      (∃ (ch : Chan) (d : Dir) (r h : Int) (b : Bool),
        fields = [.word .CAM, .num (chanNum ch), .word (dirWord d), .num r, .num h, yesNo b]) ∨
      (∃ (ch : Chan) (es : List (Int × Polarity)), fields =
        .word .EDGE :: .num (chanNum ch) :: .num es.length :: es.flatMap fun e => [.num e.1, .word (polWord e.2)]) ∨
      (∃ (ch : Chan) (b : BindItem), fields = .word .BIND :: .num (chanNum ch) :: bindFields b) ∨
      (∃ (u : LiftUnit) (d n : Option LineAB) (a b e : Option Int), fields = [.word .LIFT, .num (unitNum u),
        orZero abWord d, orZero abWord n, a.elim .absent .num, b.elim .absent .num, e.elim .absent .num]) ∨
      ∃ (o : LineABCD) (p : Option Int), fields = [.word .PWM, .word (abcdWord o), p.elim .absent .num]) →
    laywWrite l fields = none) ∧
  (∀ (y : Tuning) (ch : Chan) (u : LiftUnit) (l : List (Token × Int)),
    let within (range : Token → Option (Nat × Nat)) : Prop :=
      ∀ p ∈ l, ∃ lo hi : Nat, range p.1 = some (lo, hi) ∧ lo ≤ p.2 ∧ p.2 ≤ hi
    let c := l.foldl (fun c p => c.write p.1 p.2.toNat) (y.chan.get ch)
    let v := l.foldl (fun v p => v.write p.1 p.2.toNat) (y.unit.get u)
    let d := l.foldl (fun d p => d.write p.1 p.2.toNat) y.dev
    (within chanTuneRange → y.writeAll (.chan (.num (chanNum ch))) l =
      if c.dmin ≤ c.dmax ∧ c.holdKpa ≤ c.releaseKpa then some { y with chan := y.chan.set ch c } else none) ∧
    (within unitTuneRange → y.writeAll (.unit (.num (unitNum u))) l = some { y with unit := y.unit.set u v }) ∧
    (within devTuneRange → y.writeAll .device l =
      if d.downRpm ≤ d.upRpm ∧ d.downLoad ≤ d.upLoad then some { y with dev := d } else none) ∧
    (∀ n : Int, ¬ within chanTuneRange ∨ n < 1 ∨ 4 < n → y.writeAll (.chan (.num n)) l = none) ∧
    (∀ n : Int, ¬ within unitTuneRange ∨ n < 1 ∨ 2 < n → y.writeAll (.unit (.num n)) l = none) ∧
    (¬ within devTuneRange → y.writeAll .device l = none) ∧
    ∀ (x : Token) (n : Nat) (a : ChanTune) (b : UnitTune) (e : DevTune),
      let put (p : Token × Nat) : Token × Nat := if p.1 = x then (x, n) else p
      (a.write x n).items = a.items.map put ∧ (b.write x n).items = b.items.map put ∧
        (e.write x n).items = e.items.map put) ∧
  (∀ (s : State) (n : Int),
    (∀ ch, n = chanNum ch → s.savingMap (.num n) = s.saving (mapRegion ch)) ∧
    (n < 1 ∨ 4 < n → s.savingMap (.num n) = false)) ∧
  ∀ (b : Tbm) (ch : Chan),
    let m := b.maps.get ch
    let write (rest : List Field) : Option Tbm := b.writeMap (.num (chanNum ch)) rest
    let puts (n : PhaseMap) : Option Tbm :=
      some { b with maps := b.maps.set ch { n with available := n.available || decide (n.clearMarks = 0) } }
    (∀ (r c : Int) (vs : List Int), vs ≠ [] →
      let v := vs.map Int.toNat
      let cells := m.data.cells.modify (r.toNat - 1) fun x =>
        x.take (c.toNat - 1) ++ v ++ x.drop (c.toNat - 1 + v.length)
      let marks := m.cellMarks.modify (r.toNat - 1) fun x =>
        x.take (c.toNat - 1) ++ List.replicate v.length true ++ x.drop (c.toNat - 1 + v.length)
      write (.word .ROW :: .num r :: .num c :: vs.map .num) =
        if 1 ≤ r ∧ r ≤ 16 ∧ 1 ≤ c ∧ c ≤ 12 ∧ c + vs.length ≤ 13 ∧ ∀ x ∈ vs, 0 ≤ x ∧ x ≤ 960 then
          puts { m with data := { m.data with cells := cells }, cellMarks := marks } else none) ∧
    (∀ vs : List Int, write (.word .RPM :: vs.map .num) =
      if (∀ x ∈ vs, 0 ≤ x ∧ x ≤ 18000) ∧ vs.Pairwise (· < ·) then
        puts { m with data := { m.data with rpm := vs.map Int.toNat }, rpmMark := true } else none) ∧
    (∀ vs : List Int, write (.word .LOAD :: vs.map .num) =
      if (∀ x ∈ vs, 0 ≤ x ∧ x ≤ 1000) ∧ vs.Pairwise (· < ·) then
        puts { m with data := { m.data with load := vs.map Int.toNat }, loadMark := true } else none) ∧
    (∀ ts fs : List Int, ts.length = 8 → write (.word .DERATE :: (ts ++ fs).map .num) =
      if (∀ x ∈ ts, -40 ≤ x ∧ x ≤ 150) ∧ ts.Pairwise (· < ·) ∧ ∀ x ∈ fs, 0 ≤ x ∧ x ≤ 1000 then
        puts { m with data := { m.data with temps := ts, factors := fs.map Int.toNat }, derateMark := true } else none) ∧
    ∀ (n : Int) (rest : List Field), n < 1 ∨ 4 < n → b.writeMap (.num n) rest = none

/-- LAYR, TUNR and MAPR read the tables as they stand and change nothing but the answer: one item, one value or one
part in a line, or the whole in a run, item after item in the order of the tables. LAYR: an unknown item, an item with
instances and no instance, or an instance with WHEEL, CYL or ORIGIN is refused with FORMAT, an instance outside its
range with RANGE. TUNR: an unknown item, an item of another scope, or ORIGIN with a scope other than "-" is refused
with FORMAT, an index out of range with RANGE. MAPR: an unknown second field or a field that is not decimal is refused
with FORMAT, a channel or row out of range with RANGE; with the second field absent it reads the whole map. The order
of the fields in the lines is the model's choice (log 18), so is how a scope of TUNR is spelled (log 17), and which
faults of a field are FORMAT (log 21). -/
def Obligations.TableReadsChangeNothing : Prop :=
  ∀ (s t : State) (fields : List Field),
    (s.begins .LAYR fields t →
      let l := t.tbm.layout
      let line (f : List Field) : Prop := exec (.layr fields) s = .next (t.answer .LAYR .ok f)
      let refused (st : Status) : Prop := exec (.layr fields) s = .next (t.answer .LAYR st)
      let wheel : List Field := match l.wheel with
        | some w => [.num w.positions, .num w.missing, .num w.gapFactor, .num w.firstTooth, .num w.stallMs]
        | none => [.absent, .absent, .absent, .absent, .absent]
      let orAbsent (a : Option Nat) : Field := match a with
        | some n => .num n
        | none => .absent
      let cam (ch : Chan) : List Field := match l.cam.get ch with
        | some c => [.word (dirWord c.dir), .num c.range, .num c.halfWidth, .word (if c.reference then .YES else .NO)]
        | none => [.absent, .absent, .absent, .absent]
      let edge (ch : Chan) : List Field := .num (l.edges.get ch).length ::
        (l.edges.get ch).flatMap fun e => [.num e.angle, .word (polWord e.pol)]
      let cd (a : Option LineABCD) : Field := match a with
        | some x => .word (abcdWord x)
        | none => .num 0
      let ab (a : Option LineAB) : Field := match a with
        | some x => .word (abWord x)
        | none => .num 0
      let bind (ch : Chan) : List Field := [cd (l.bind.get ch).cam, cd (l.bind.get ch).driver]
      let lift (u : LiftUnit) : List Field := let i := l.lift.get u
        [ab i.driver, ab i.sense, orAbsent i.decision, orAbsent i.windowOpen, orAbsent i.windowClose]
      let chans : List Chan := [.IN1, .EX1, .IN2, .EX2]
      (fields = [] → exec (.layr fields) s = .next (t.answerRun .LAYR
        ([[.word .ORIGIN, .word (originWord t.tbm.layoutOrigin)], .word .WHEEL :: wheel, [.word .CYL, orAbsent l.cyl]] ++
          (chans.map fun ch => .word .CAM :: .num (chanNum ch) :: cam ch) ++
          (chans.map fun ch => .word .EDGE :: .num (chanNum ch) :: edge ch) ++
          (chans.map fun ch => .word .BIND :: .num (chanNum ch) :: bind ch) ++
          ([LiftUnit.L1, .L2].map fun u => .word .LIFT :: .num (unitNum u) :: lift u) ++
          [LineABCD.A, .B, .C, .D].map fun o => [.word .PWM, .word (abcdWord o), .num (l.pwm.get o)]))) ∧
      (fields = [.word .ORIGIN] → line [.word (originWord t.tbm.layoutOrigin)]) ∧
      (fields = [.word .WHEEL] → line wheel) ∧
      (fields = [.word .CYL] → line [orAbsent l.cyl]) ∧
      (∀ ch, fields = [.word .CAM, .num (chanNum ch)] → line (cam ch)) ∧
      (∀ ch, fields = [.word .EDGE, .num (chanNum ch)] → line (edge ch)) ∧
      (∀ ch, fields = [.word .BIND, .num (chanNum ch)] → line (bind ch)) ∧
      (∀ u, fields = [.word .LIFT, .num (unitNum u)] → line (lift u)) ∧
      (∀ o, fields = [.word .PWM, .word (abcdWord o)] → line [.num (l.pwm.get o)]) ∧
      (∀ f rest, fields = f :: rest →
        (f ∉ [.word .ORIGIN, .word .WHEEL, .word .CYL, .word .CAM, .word .EDGE, .word .BIND, .word .LIFT, .word .PWM] →
          refused .format) ∧
        (rest ≠ [] → f ∈ [.word .ORIGIN, .word .WHEEL, .word .CYL] → refused .format) ∧
        (rest = [] ∨ rest = [.absent] ∨ 2 ≤ rest.length →
          f ∈ [.word .CAM, .word .EDGE, .word .BIND, .word .LIFT, .word .PWM] → refused .format) ∧
        ∀ i, rest = [i] → i ≠ .absent →
          (f ∈ [.word .CAM, .word .EDGE, .word .BIND] → (∀ ch, i ≠ .num (chanNum ch)) → refused .range) ∧
          (f = .word .LIFT → (∀ u, i ≠ .num (unitNum u)) → refused .range) ∧
          (f = .word .PWM → (∀ o, i ≠ .word (abcdWord o)) → refused .range))) ∧
    (s.begins .TUNR fields t →
      let y := t.tbm.tuning
      let refused (st : Status) : Prop := exec (.tunr fields) s = .next (t.answer .TUNR st)
      let chanItems (c : ChanTune) : List (Token × Nat) :=
        [(.KP, c.kp), (.KI, c.ki), (.ILIM, c.ilim), (.HOLD0, c.hold0), (.DMIN, c.dmin), (.DMAX, c.dmax),
          (.DEADBAND, c.deadband), (.SLEW, c.slew), (.RELEASE_RPM, c.releaseRpm), (.RELEASE_KPA, c.releaseKpa),
          (.HOLD_KPA, c.holdKpa), (.RELEASE_DUTY, c.releaseDuty), (.RELEASE_MS, c.releaseMs), (.PARK_TOL, c.parkTol),
          (.PARK_MS, c.parkMs), (.STEP, c.step), (.STUCK_CYCLES, c.stuckCycles), (.MOVE_MIN, c.moveMin)]
      let unitItems (u : UnitTune) : List (Token × Nat) := [(.TRAVEL_MS, u.travelMs), (.MARGIN_MS, u.marginMs)]
      let devItems : List (Token × Nat) :=
        [(.CEILING_RPM, y.dev.ceilingRpm), (.UP_RPM, y.dev.upRpm), (.UP_LOAD, y.dev.upLoad), (.DOWN_RPM, y.dev.downRpm),
          (.DOWN_LOAD, y.dev.downLoad), (.STALE_MS, y.dev.staleMs), (.HOLD_LIMIT_MS, y.dev.holdLimitMs)]
      let reads (rest : List Field) (items : List (Token × Nat)) : Prop :=
        (rest = [] → exec (.tunr fields) s = .next (t.answerRun .TUNR (items.map fun p => [.word p.1, .num p.2]))) ∧
        (∀ x v, rest = [.word x] → (x, v) ∈ items → exec (.tunr fields) s = .next (t.answer .TUNR .ok [.num v])) ∧
        (rest ≠ [] → (∀ p ∈ items, rest ≠ [.word p.1]) → rest ≠ [.word .ORIGIN] → refused .format)
      (∀ ch rest, fields = .word .CH :: .num (chanNum ch) :: rest → reads rest (chanItems (y.chan.get ch))) ∧
      (∀ u rest, fields = .word .LIFT :: .num (unitNum u) :: rest → reads rest (unitItems (y.unit.get u))) ∧
      (∀ rest, fields = .absent :: rest → reads rest devItems) ∧
      (∀ ch x v, fields = [.num (chanNum ch), .word x] → (x, v) ∈ chanItems (y.chan.get ch) →
        exec (.tunr fields) s = .next (t.answer .TUNR .ok [.num v])) ∧
      (∀ u x v, fields = [.num (unitNum u), .word x] → (x, v) ∈ unitItems (y.unit.get u) →
        exec (.tunr fields) s = .next (t.answer .TUNR .ok [.num v])) ∧
      (∀ ch, fields = [.num (chanNum ch)] → exec (.tunr fields) s =
        .next (t.answerRun .TUNR ((chanItems (y.chan.get ch)).map fun p => [.word p.1, .num p.2]))) ∧
      (∀ n rest, fields = .num n :: rest → rest ≠ [] →
        (∀ p ∈ chanItems .builtIn ++ unitItems .builtIn, rest ≠ [.word p.1]) → refused .format) ∧
      (fields = [.absent, .word .ORIGIN] →
        exec (.tunr fields) s = .next (t.answer .TUNR .ok [.word (originWord t.tbm.tuningOrigin)])) ∧
      (∀ n, fields = [.word .CH, .num n, .word .ORIGIN] ∨ fields = [.word .LIFT, .num n, .word .ORIGIN] → refused .format) ∧
      (∀ n rest, n < 1 ∨ 4 < n → fields = .word .CH :: .num n :: rest →
        rest = [] ∨ (∃ p ∈ chanItems .builtIn, rest = [.word p.1]) → refused .range) ∧
      (∀ n rest, n < 1 ∨ 2 < n → fields = .word .LIFT :: .num n :: rest →
        rest = [] ∨ (∃ p ∈ unitItems .builtIn, rest = [.word p.1]) → refused .range) ∧
      (∀ n rest, n < 1 ∨ 4 < n → fields = .num n :: rest →
        rest = [] ∨ (∃ p ∈ chanItems .builtIn, rest = [.word p.1]) → refused .range) ∧
      (∀ n, n < 1 ∨ 2 < n → (∃ p ∈ unitItems .builtIn, fields = [.num n, .word p.1]) → refused .range) ∧
      ((∀ n rest, fields ≠ .word .CH :: .num n :: rest ∧ fields ≠ .word .LIFT :: .num n :: rest ∧ fields ≠ .num n :: rest) →
        (∀ rest, fields ≠ .absent :: rest) → refused .format)) ∧
    (s.begins .MAPR fields t →
      let refused (st : Status) : Prop := exec (.mapr fields) s = .next (t.answer .MAPR st)
      let known (f : Field) : Prop := f ∈ [.word .RPM, .word .LOAD, .word .DERATE, .word .AVAIL]
      (∀ ch rest, fields = .num (chanNum ch) :: rest →
        let m := t.tbm.maps.get ch
        let line (f : List Field) : Prop := exec (.mapr fields) s = .next (t.answer .MAPR .ok f)
        let avail : List Field := [.word (if m.available then .YES else .NO), .num m.clearMarks]
        let row (r : Nat) : List Field := (m.data.cells.getD (r - 1) []).map fun v => .num v
        let rpm : List Field := m.data.rpm.map fun v => .num v
        let load : List Field := m.data.load.map fun v => .num v
        let derate : List Field := m.data.temps.map .num ++ m.data.factors.map fun v => .num v
        (rest = [] ∨ rest = [.absent] → exec (.mapr fields) s = .next (t.answerRun .MAPR
          ([.word .AVAIL :: avail, .word .RPM :: rpm, .word .LOAD :: load] ++
            ((List.range 16).map fun i => .word .ROW :: .num (i + 1 : Nat) :: row (i + 1)) ++ [.word .DERATE :: derate]))) ∧
        (rest = [.word .RPM] → line rpm) ∧
        (rest = [.word .LOAD] → line load) ∧
        (rest = [.word .DERATE] → line derate) ∧
        (rest = [.word .AVAIL] → line avail) ∧
        (∀ r : Nat, 1 ≤ r → r ≤ 16 → rest = [.word .ROW, .num r] → line (row r)) ∧
        (∀ v : Int, v < 1 ∨ 16 < v → rest = [.word .ROW, .num v] → refused .range) ∧
        (∀ f more, rest = f :: more →
          (¬ known f → f ≠ .word .ROW → (f = .absent → more ≠ []) → refused .format) ∧
          (known f → more ≠ [] → refused .format) ∧
          (f = .word .ROW → (∀ v, more ≠ [.num v]) → refused .format))) ∧
      (∀ n rest, n < 1 ∨ 4 < n → fields = .num n :: rest →
        (rest = [] ∨ rest = [.absent] ∨ (∃ f, rest = [f] ∧ known f) ∨ (∃ v, rest = [.word .ROW, .num v]) → refused .range) ∧
        (∀ f more, rest = f :: more →
          (¬ known f → f ≠ .word .ROW → (f = .absent → more ≠ []) → refused .format) ∧
          (known f → more ≠ [] → refused .format) ∧
          (f = .word .ROW → (∀ v, more ≠ [.num v]) → refused .format))) ∧
      ((∀ n rest, fields ≠ .num n :: rest) → refused .format))
end

