-- ==== Sys2Proof/Laws/State.lean ====
section
/-! SUPPORT. What each update of the state leaves and what it writes: one lemma for each field and update, true by
unfolding, so that a proof never unfolds an update of a record. -/

namespace Sys2Proof.Machine

@[simp] theorem State.pass_pending (s : State) (dt : Nat) : (s.pass dt).pending = s.pending := rfl
@[simp] theorem State.pass_now (s : State) (dt : Nat) : (s.pass dt).now = s.now + dt := rfl
@[simp] theorem State.pass_handovers (s : State) (dt : Nat) : (s.pass dt).handovers = s.handovers := rfl
@[simp] theorem State.pass_smc (s : State) (dt : Nat) : (s.pass dt).smc = s.smc := rfl
@[simp] theorem State.pass_clp (s : State) (dt : Nat) : (s.pass dt).clp = s.clp := rfl
@[simp] theorem State.pass_tbm (s : State) (dt : Nat) : (s.pass dt).tbm = s.tbm := rfl
@[simp] theorem State.pass_ckt (s : State) (dt : Nat) : (s.pass dt).ckt = s.ckt := rfl
@[simp] theorem State.pass_asc (s : State) (dt : Nat) : (s.pass dt).asc = s.asc := rfl
@[simp] theorem State.pass_ceu (s : State) (dt : Nat) : (s.pass dt).ceu = s.ceu := rfl
@[simp] theorem State.pass_phc (s : State) (dt : Nat) : (s.pass dt).phc = s.phc := rfl
@[simp] theorem State.pass_tga (s : State) (dt : Nat) : (s.pass dt).tga = s.tga := rfl
@[simp] theorem State.pass_vdr (s : State) (dt : Nat) : (s.pass dt).vdr = s.vdr := rfl
@[simp] theorem State.pass_lfs (s : State) (dt : Nat) : (s.pass dt).lfs = s.lfs := rfl
@[simp] theorem State.pass_fmg (s : State) (dt : Nat) : (s.pass dt).fmg = s.fmg := rfl
@[simp] theorem State.pass_trb (s : State) (dt : Nat) : (s.pass dt).trb = s.trb := rfl
@[simp] theorem State.pass_cst (s : State) (dt : Nat) : (s.pass dt).cst = s.cst := rfl
@[simp] theorem State.pass_freeCount (s : State) (dt : Nat) : (s.pass dt).freeCount = s.freeCount := rfl

@[simp] theorem State.reachTime_pending (s : State) (t : Time) : (s.reachTime t).pending = s.pending := rfl
@[simp] theorem State.reachTime_now (s : State) (t : Time) : (s.reachTime t).now = max s.now t := rfl
@[simp] theorem State.reachTime_handovers (s : State) (t : Time) : (s.reachTime t).handovers = s.handovers := rfl
@[simp] theorem State.reachTime_smc (s : State) (t : Time) : (s.reachTime t).smc = s.smc := rfl
@[simp] theorem State.reachTime_clp (s : State) (t : Time) : (s.reachTime t).clp = s.clp := rfl
@[simp] theorem State.reachTime_tbm (s : State) (t : Time) : (s.reachTime t).tbm = s.tbm := rfl
@[simp] theorem State.reachTime_ckt (s : State) (t : Time) : (s.reachTime t).ckt = s.ckt := rfl
@[simp] theorem State.reachTime_asc (s : State) (t : Time) : (s.reachTime t).asc = s.asc := rfl
@[simp] theorem State.reachTime_ceu (s : State) (t : Time) : (s.reachTime t).ceu = s.ceu := rfl
@[simp] theorem State.reachTime_phc (s : State) (t : Time) : (s.reachTime t).phc = s.phc := rfl
@[simp] theorem State.reachTime_tga (s : State) (t : Time) : (s.reachTime t).tga = s.tga := rfl
@[simp] theorem State.reachTime_vdr (s : State) (t : Time) : (s.reachTime t).vdr = s.vdr := rfl
@[simp] theorem State.reachTime_lfs (s : State) (t : Time) : (s.reachTime t).lfs = s.lfs := rfl
@[simp] theorem State.reachTime_fmg (s : State) (t : Time) : (s.reachTime t).fmg = s.fmg := rfl
@[simp] theorem State.reachTime_trb (s : State) (t : Time) : (s.reachTime t).trb = s.trb := rfl
@[simp] theorem State.reachTime_cst (s : State) (t : Time) : (s.reachTime t).cst = s.cst := rfl
@[simp] theorem State.reachTime_freeCount (s : State) (t : Time) : (s.reachTime t).freeCount = s.freeCount := rfl

@[simp] theorem State.setChan_pending (s : State) (ch : Chan) (r : ChanRec) :
    (s.setChan ch r).pending = s.pending := rfl
@[simp] theorem State.setChan_now (s : State) (ch : Chan) (r : ChanRec) : (s.setChan ch r).now = s.now := rfl
@[simp] theorem State.setChan_handovers (s : State) (ch : Chan) (r : ChanRec) :
    (s.setChan ch r).handovers = s.handovers := rfl
@[simp] theorem State.setChan_smc (s : State) (ch : Chan) (r : ChanRec) : (s.setChan ch r).smc = s.smc := rfl
@[simp] theorem State.setChan_clp (s : State) (ch : Chan) (r : ChanRec) : (s.setChan ch r).clp = s.clp := rfl
@[simp] theorem State.setChan_tbm (s : State) (ch : Chan) (r : ChanRec) : (s.setChan ch r).tbm = s.tbm := rfl
@[simp] theorem State.setChan_ckt (s : State) (ch : Chan) (r : ChanRec) : (s.setChan ch r).ckt = s.ckt := rfl
@[simp] theorem State.setChan_asc (s : State) (ch : Chan) (r : ChanRec) : (s.setChan ch r).asc = s.asc := rfl
@[simp] theorem State.setChan_ceu (s : State) (ch : Chan) (r : ChanRec) : (s.setChan ch r).ceu = s.ceu := rfl
@[simp] theorem State.setChan_phc (s : State) (ch : Chan) (r : ChanRec) :
    (s.setChan ch r).phc = { s.phc with chans := s.phc.chans.set ch r } := rfl
@[simp] theorem State.setChan_tga (s : State) (ch : Chan) (r : ChanRec) : (s.setChan ch r).tga = s.tga := rfl
@[simp] theorem State.setChan_vdr (s : State) (ch : Chan) (r : ChanRec) : (s.setChan ch r).vdr = s.vdr := rfl
@[simp] theorem State.setChan_lfs (s : State) (ch : Chan) (r : ChanRec) : (s.setChan ch r).lfs = s.lfs := rfl
@[simp] theorem State.setChan_fmg (s : State) (ch : Chan) (r : ChanRec) : (s.setChan ch r).fmg = s.fmg := rfl
@[simp] theorem State.setChan_trb (s : State) (ch : Chan) (r : ChanRec) : (s.setChan ch r).trb = s.trb := rfl
@[simp] theorem State.setChan_cst (s : State) (ch : Chan) (r : ChanRec) : (s.setChan ch r).cst = s.cst := rfl
@[simp] theorem State.setChan_freeCount (s : State) (ch : Chan) (r : ChanRec) :
    (s.setChan ch r).freeCount = s.freeCount := rfl

@[simp] theorem State.updChan_pending (s : State) (ch : Chan) (f : ChanRec → ChanRec) :
    (s.updChan ch f).pending = s.pending := rfl
@[simp] theorem State.updChan_now (s : State) (ch : Chan) (f : ChanRec → ChanRec) : (s.updChan ch f).now = s.now := rfl
@[simp] theorem State.updChan_handovers (s : State) (ch : Chan) (f : ChanRec → ChanRec) :
    (s.updChan ch f).handovers = s.handovers := rfl
@[simp] theorem State.updChan_smc (s : State) (ch : Chan) (f : ChanRec → ChanRec) : (s.updChan ch f).smc = s.smc := rfl
@[simp] theorem State.updChan_clp (s : State) (ch : Chan) (f : ChanRec → ChanRec) : (s.updChan ch f).clp = s.clp := rfl
@[simp] theorem State.updChan_tbm (s : State) (ch : Chan) (f : ChanRec → ChanRec) : (s.updChan ch f).tbm = s.tbm := rfl
@[simp] theorem State.updChan_ckt (s : State) (ch : Chan) (f : ChanRec → ChanRec) : (s.updChan ch f).ckt = s.ckt := rfl
@[simp] theorem State.updChan_asc (s : State) (ch : Chan) (f : ChanRec → ChanRec) : (s.updChan ch f).asc = s.asc := rfl
@[simp] theorem State.updChan_ceu (s : State) (ch : Chan) (f : ChanRec → ChanRec) : (s.updChan ch f).ceu = s.ceu := rfl
@[simp] theorem State.updChan_phc (s : State) (ch : Chan) (f : ChanRec → ChanRec) :
    (s.updChan ch f).phc = { s.phc with chans := s.phc.chans.set ch (f (s.phc.chans.get ch)) } := rfl
@[simp] theorem State.updChan_tga (s : State) (ch : Chan) (f : ChanRec → ChanRec) : (s.updChan ch f).tga = s.tga := rfl
@[simp] theorem State.updChan_vdr (s : State) (ch : Chan) (f : ChanRec → ChanRec) : (s.updChan ch f).vdr = s.vdr := rfl
@[simp] theorem State.updChan_lfs (s : State) (ch : Chan) (f : ChanRec → ChanRec) : (s.updChan ch f).lfs = s.lfs := rfl
@[simp] theorem State.updChan_fmg (s : State) (ch : Chan) (f : ChanRec → ChanRec) : (s.updChan ch f).fmg = s.fmg := rfl
@[simp] theorem State.updChan_trb (s : State) (ch : Chan) (f : ChanRec → ChanRec) : (s.updChan ch f).trb = s.trb := rfl
@[simp] theorem State.updChan_cst (s : State) (ch : Chan) (f : ChanRec → ChanRec) : (s.updChan ch f).cst = s.cst := rfl
@[simp] theorem State.updChan_freeCount (s : State) (ch : Chan) (f : ChanRec → ChanRec) :
    (s.updChan ch f).freeCount = s.freeCount := rfl

@[simp] theorem State.setUnit_pending (s : State) (u : LiftUnit) (r : UnitRec) :
    (s.setUnit u r).pending = s.pending := rfl
@[simp] theorem State.setUnit_now (s : State) (u : LiftUnit) (r : UnitRec) : (s.setUnit u r).now = s.now := rfl
@[simp] theorem State.setUnit_handovers (s : State) (u : LiftUnit) (r : UnitRec) :
    (s.setUnit u r).handovers = s.handovers := rfl
@[simp] theorem State.setUnit_smc (s : State) (u : LiftUnit) (r : UnitRec) : (s.setUnit u r).smc = s.smc := rfl
@[simp] theorem State.setUnit_clp (s : State) (u : LiftUnit) (r : UnitRec) : (s.setUnit u r).clp = s.clp := rfl
@[simp] theorem State.setUnit_tbm (s : State) (u : LiftUnit) (r : UnitRec) : (s.setUnit u r).tbm = s.tbm := rfl
@[simp] theorem State.setUnit_ckt (s : State) (u : LiftUnit) (r : UnitRec) : (s.setUnit u r).ckt = s.ckt := rfl
@[simp] theorem State.setUnit_asc (s : State) (u : LiftUnit) (r : UnitRec) : (s.setUnit u r).asc = s.asc := rfl
@[simp] theorem State.setUnit_ceu (s : State) (u : LiftUnit) (r : UnitRec) : (s.setUnit u r).ceu = s.ceu := rfl
@[simp] theorem State.setUnit_phc (s : State) (u : LiftUnit) (r : UnitRec) : (s.setUnit u r).phc = s.phc := rfl
@[simp] theorem State.setUnit_tga (s : State) (u : LiftUnit) (r : UnitRec) : (s.setUnit u r).tga = s.tga := rfl
@[simp] theorem State.setUnit_vdr (s : State) (u : LiftUnit) (r : UnitRec) : (s.setUnit u r).vdr = s.vdr := rfl
@[simp] theorem State.setUnit_lfs (s : State) (u : LiftUnit) (r : UnitRec) :
    (s.setUnit u r).lfs = { s.lfs with units := s.lfs.units.set u r } := rfl
@[simp] theorem State.setUnit_fmg (s : State) (u : LiftUnit) (r : UnitRec) : (s.setUnit u r).fmg = s.fmg := rfl
@[simp] theorem State.setUnit_trb (s : State) (u : LiftUnit) (r : UnitRec) : (s.setUnit u r).trb = s.trb := rfl
@[simp] theorem State.setUnit_cst (s : State) (u : LiftUnit) (r : UnitRec) : (s.setUnit u r).cst = s.cst := rfl
@[simp] theorem State.setUnit_freeCount (s : State) (u : LiftUnit) (r : UnitRec) :
    (s.setUnit u r).freeCount = s.freeCount := rfl

@[simp] theorem State.updUnit_pending (s : State) (u : LiftUnit) (f : UnitRec → UnitRec) :
    (s.updUnit u f).pending = s.pending := rfl
@[simp] theorem State.updUnit_now (s : State) (u : LiftUnit) (f : UnitRec → UnitRec) :
    (s.updUnit u f).now = s.now := rfl
@[simp] theorem State.updUnit_handovers (s : State) (u : LiftUnit) (f : UnitRec → UnitRec) :
    (s.updUnit u f).handovers = s.handovers := rfl
@[simp] theorem State.updUnit_smc (s : State) (u : LiftUnit) (f : UnitRec → UnitRec) :
    (s.updUnit u f).smc = s.smc := rfl
@[simp] theorem State.updUnit_clp (s : State) (u : LiftUnit) (f : UnitRec → UnitRec) :
    (s.updUnit u f).clp = s.clp := rfl
@[simp] theorem State.updUnit_tbm (s : State) (u : LiftUnit) (f : UnitRec → UnitRec) :
    (s.updUnit u f).tbm = s.tbm := rfl
@[simp] theorem State.updUnit_ckt (s : State) (u : LiftUnit) (f : UnitRec → UnitRec) :
    (s.updUnit u f).ckt = s.ckt := rfl
@[simp] theorem State.updUnit_asc (s : State) (u : LiftUnit) (f : UnitRec → UnitRec) :
    (s.updUnit u f).asc = s.asc := rfl
@[simp] theorem State.updUnit_ceu (s : State) (u : LiftUnit) (f : UnitRec → UnitRec) :
    (s.updUnit u f).ceu = s.ceu := rfl
@[simp] theorem State.updUnit_phc (s : State) (u : LiftUnit) (f : UnitRec → UnitRec) :
    (s.updUnit u f).phc = s.phc := rfl
@[simp] theorem State.updUnit_tga (s : State) (u : LiftUnit) (f : UnitRec → UnitRec) :
    (s.updUnit u f).tga = s.tga := rfl
@[simp] theorem State.updUnit_vdr (s : State) (u : LiftUnit) (f : UnitRec → UnitRec) :
    (s.updUnit u f).vdr = s.vdr := rfl
@[simp] theorem State.updUnit_lfs (s : State) (u : LiftUnit) (f : UnitRec → UnitRec) :
    (s.updUnit u f).lfs = { s.lfs with units := s.lfs.units.set u (f (s.lfs.units.get u)) } := rfl
@[simp] theorem State.updUnit_fmg (s : State) (u : LiftUnit) (f : UnitRec → UnitRec) :
    (s.updUnit u f).fmg = s.fmg := rfl
@[simp] theorem State.updUnit_trb (s : State) (u : LiftUnit) (f : UnitRec → UnitRec) :
    (s.updUnit u f).trb = s.trb := rfl
@[simp] theorem State.updUnit_cst (s : State) (u : LiftUnit) (f : UnitRec → UnitRec) :
    (s.updUnit u f).cst = s.cst := rfl
@[simp] theorem State.updUnit_freeCount (s : State) (u : LiftUnit) (f : UnitRec → UnitRec) :
    (s.updUnit u f).freeCount = s.freeCount := rfl

@[simp] theorem State.setOcv_pending (s : State) (o : LineABCD) (r : OcvRec) : (s.setOcv o r).pending = s.pending := rfl
@[simp] theorem State.setOcv_now (s : State) (o : LineABCD) (r : OcvRec) : (s.setOcv o r).now = s.now := rfl
@[simp] theorem State.setOcv_handovers (s : State) (o : LineABCD) (r : OcvRec) :
    (s.setOcv o r).handovers = s.handovers := rfl
@[simp] theorem State.setOcv_smc (s : State) (o : LineABCD) (r : OcvRec) : (s.setOcv o r).smc = s.smc := rfl
@[simp] theorem State.setOcv_clp (s : State) (o : LineABCD) (r : OcvRec) : (s.setOcv o r).clp = s.clp := rfl
@[simp] theorem State.setOcv_tbm (s : State) (o : LineABCD) (r : OcvRec) : (s.setOcv o r).tbm = s.tbm := rfl
@[simp] theorem State.setOcv_ckt (s : State) (o : LineABCD) (r : OcvRec) : (s.setOcv o r).ckt = s.ckt := rfl
@[simp] theorem State.setOcv_asc (s : State) (o : LineABCD) (r : OcvRec) : (s.setOcv o r).asc = s.asc := rfl
@[simp] theorem State.setOcv_ceu (s : State) (o : LineABCD) (r : OcvRec) : (s.setOcv o r).ceu = s.ceu := rfl
@[simp] theorem State.setOcv_phc (s : State) (o : LineABCD) (r : OcvRec) : (s.setOcv o r).phc = s.phc := rfl
@[simp] theorem State.setOcv_tga (s : State) (o : LineABCD) (r : OcvRec) : (s.setOcv o r).tga = s.tga := rfl
@[simp] theorem State.setOcv_vdr (s : State) (o : LineABCD) (r : OcvRec) :
    (s.setOcv o r).vdr = { s.vdr with ocv := s.vdr.ocv.set o r } := rfl
@[simp] theorem State.setOcv_lfs (s : State) (o : LineABCD) (r : OcvRec) : (s.setOcv o r).lfs = s.lfs := rfl
@[simp] theorem State.setOcv_fmg (s : State) (o : LineABCD) (r : OcvRec) : (s.setOcv o r).fmg = s.fmg := rfl
@[simp] theorem State.setOcv_trb (s : State) (o : LineABCD) (r : OcvRec) : (s.setOcv o r).trb = s.trb := rfl
@[simp] theorem State.setOcv_cst (s : State) (o : LineABCD) (r : OcvRec) : (s.setOcv o r).cst = s.cst := rfl
@[simp] theorem State.setOcv_freeCount (s : State) (o : LineABCD) (r : OcvRec) :
    (s.setOcv o r).freeCount = s.freeCount := rfl

@[simp] theorem State.updOcv_pending (s : State) (o : LineABCD) (f : OcvRec → OcvRec) :
    (s.updOcv o f).pending = s.pending := rfl
@[simp] theorem State.updOcv_now (s : State) (o : LineABCD) (f : OcvRec → OcvRec) : (s.updOcv o f).now = s.now := rfl
@[simp] theorem State.updOcv_handovers (s : State) (o : LineABCD) (f : OcvRec → OcvRec) :
    (s.updOcv o f).handovers = s.handovers := rfl
@[simp] theorem State.updOcv_smc (s : State) (o : LineABCD) (f : OcvRec → OcvRec) : (s.updOcv o f).smc = s.smc := rfl
@[simp] theorem State.updOcv_clp (s : State) (o : LineABCD) (f : OcvRec → OcvRec) : (s.updOcv o f).clp = s.clp := rfl
@[simp] theorem State.updOcv_tbm (s : State) (o : LineABCD) (f : OcvRec → OcvRec) : (s.updOcv o f).tbm = s.tbm := rfl
@[simp] theorem State.updOcv_ckt (s : State) (o : LineABCD) (f : OcvRec → OcvRec) : (s.updOcv o f).ckt = s.ckt := rfl
@[simp] theorem State.updOcv_asc (s : State) (o : LineABCD) (f : OcvRec → OcvRec) : (s.updOcv o f).asc = s.asc := rfl
@[simp] theorem State.updOcv_ceu (s : State) (o : LineABCD) (f : OcvRec → OcvRec) : (s.updOcv o f).ceu = s.ceu := rfl
@[simp] theorem State.updOcv_phc (s : State) (o : LineABCD) (f : OcvRec → OcvRec) : (s.updOcv o f).phc = s.phc := rfl
@[simp] theorem State.updOcv_tga (s : State) (o : LineABCD) (f : OcvRec → OcvRec) : (s.updOcv o f).tga = s.tga := rfl
@[simp] theorem State.updOcv_vdr (s : State) (o : LineABCD) (f : OcvRec → OcvRec) :
    (s.updOcv o f).vdr = { s.vdr with ocv := s.vdr.ocv.set o (f (s.vdr.ocv.get o)) } := rfl
@[simp] theorem State.updOcv_lfs (s : State) (o : LineABCD) (f : OcvRec → OcvRec) : (s.updOcv o f).lfs = s.lfs := rfl
@[simp] theorem State.updOcv_fmg (s : State) (o : LineABCD) (f : OcvRec → OcvRec) : (s.updOcv o f).fmg = s.fmg := rfl
@[simp] theorem State.updOcv_trb (s : State) (o : LineABCD) (f : OcvRec → OcvRec) : (s.updOcv o f).trb = s.trb := rfl
@[simp] theorem State.updOcv_cst (s : State) (o : LineABCD) (f : OcvRec → OcvRec) : (s.updOcv o f).cst = s.cst := rfl
@[simp] theorem State.updOcv_freeCount (s : State) (o : LineABCD) (f : OcvRec → OcvRec) :
    (s.updOcv o f).freeCount = s.freeCount := rfl

@[simp] theorem State.setLs_pending (s : State) (o : LineAB) (r : LsRec) : (s.setLs o r).pending = s.pending := rfl
@[simp] theorem State.setLs_now (s : State) (o : LineAB) (r : LsRec) : (s.setLs o r).now = s.now := rfl
@[simp] theorem State.setLs_handovers (s : State) (o : LineAB) (r : LsRec) :
    (s.setLs o r).handovers = s.handovers := rfl
@[simp] theorem State.setLs_smc (s : State) (o : LineAB) (r : LsRec) : (s.setLs o r).smc = s.smc := rfl
@[simp] theorem State.setLs_clp (s : State) (o : LineAB) (r : LsRec) : (s.setLs o r).clp = s.clp := rfl
@[simp] theorem State.setLs_tbm (s : State) (o : LineAB) (r : LsRec) : (s.setLs o r).tbm = s.tbm := rfl
@[simp] theorem State.setLs_ckt (s : State) (o : LineAB) (r : LsRec) : (s.setLs o r).ckt = s.ckt := rfl
@[simp] theorem State.setLs_asc (s : State) (o : LineAB) (r : LsRec) : (s.setLs o r).asc = s.asc := rfl
@[simp] theorem State.setLs_ceu (s : State) (o : LineAB) (r : LsRec) : (s.setLs o r).ceu = s.ceu := rfl
@[simp] theorem State.setLs_phc (s : State) (o : LineAB) (r : LsRec) : (s.setLs o r).phc = s.phc := rfl
@[simp] theorem State.setLs_tga (s : State) (o : LineAB) (r : LsRec) : (s.setLs o r).tga = s.tga := rfl
@[simp] theorem State.setLs_vdr (s : State) (o : LineAB) (r : LsRec) :
    (s.setLs o r).vdr = { s.vdr with ls := s.vdr.ls.set o r } := rfl
@[simp] theorem State.setLs_lfs (s : State) (o : LineAB) (r : LsRec) : (s.setLs o r).lfs = s.lfs := rfl
@[simp] theorem State.setLs_fmg (s : State) (o : LineAB) (r : LsRec) : (s.setLs o r).fmg = s.fmg := rfl
@[simp] theorem State.setLs_trb (s : State) (o : LineAB) (r : LsRec) : (s.setLs o r).trb = s.trb := rfl
@[simp] theorem State.setLs_cst (s : State) (o : LineAB) (r : LsRec) : (s.setLs o r).cst = s.cst := rfl
@[simp] theorem State.setLs_freeCount (s : State) (o : LineAB) (r : LsRec) :
    (s.setLs o r).freeCount = s.freeCount := rfl

@[simp] theorem State.updLs_pending (s : State) (o : LineAB) (f : LsRec → LsRec) :
    (s.updLs o f).pending = s.pending := rfl
@[simp] theorem State.updLs_now (s : State) (o : LineAB) (f : LsRec → LsRec) : (s.updLs o f).now = s.now := rfl
@[simp] theorem State.updLs_handovers (s : State) (o : LineAB) (f : LsRec → LsRec) :
    (s.updLs o f).handovers = s.handovers := rfl
@[simp] theorem State.updLs_smc (s : State) (o : LineAB) (f : LsRec → LsRec) : (s.updLs o f).smc = s.smc := rfl
@[simp] theorem State.updLs_clp (s : State) (o : LineAB) (f : LsRec → LsRec) : (s.updLs o f).clp = s.clp := rfl
@[simp] theorem State.updLs_tbm (s : State) (o : LineAB) (f : LsRec → LsRec) : (s.updLs o f).tbm = s.tbm := rfl
@[simp] theorem State.updLs_ckt (s : State) (o : LineAB) (f : LsRec → LsRec) : (s.updLs o f).ckt = s.ckt := rfl
@[simp] theorem State.updLs_asc (s : State) (o : LineAB) (f : LsRec → LsRec) : (s.updLs o f).asc = s.asc := rfl
@[simp] theorem State.updLs_ceu (s : State) (o : LineAB) (f : LsRec → LsRec) : (s.updLs o f).ceu = s.ceu := rfl
@[simp] theorem State.updLs_phc (s : State) (o : LineAB) (f : LsRec → LsRec) : (s.updLs o f).phc = s.phc := rfl
@[simp] theorem State.updLs_tga (s : State) (o : LineAB) (f : LsRec → LsRec) : (s.updLs o f).tga = s.tga := rfl
@[simp] theorem State.updLs_vdr (s : State) (o : LineAB) (f : LsRec → LsRec) :
    (s.updLs o f).vdr = { s.vdr with ls := s.vdr.ls.set o (f (s.vdr.ls.get o)) } := rfl
@[simp] theorem State.updLs_lfs (s : State) (o : LineAB) (f : LsRec → LsRec) : (s.updLs o f).lfs = s.lfs := rfl
@[simp] theorem State.updLs_fmg (s : State) (o : LineAB) (f : LsRec → LsRec) : (s.updLs o f).fmg = s.fmg := rfl
@[simp] theorem State.updLs_trb (s : State) (o : LineAB) (f : LsRec → LsRec) : (s.updLs o f).trb = s.trb := rfl
@[simp] theorem State.updLs_cst (s : State) (o : LineAB) (f : LsRec → LsRec) : (s.updLs o f).cst = s.cst := rfl
@[simp] theorem State.updLs_freeCount (s : State) (o : LineAB) (f : LsRec → LsRec) :
    (s.updLs o f).freeCount = s.freeCount := rfl

@[simp] theorem State.setCeu_pending (s : State) (ch : Chan) (r : CeuChan) : (s.setCeu ch r).pending = s.pending := rfl
@[simp] theorem State.setCeu_now (s : State) (ch : Chan) (r : CeuChan) : (s.setCeu ch r).now = s.now := rfl
@[simp] theorem State.setCeu_handovers (s : State) (ch : Chan) (r : CeuChan) :
    (s.setCeu ch r).handovers = s.handovers := rfl
@[simp] theorem State.setCeu_smc (s : State) (ch : Chan) (r : CeuChan) : (s.setCeu ch r).smc = s.smc := rfl
@[simp] theorem State.setCeu_clp (s : State) (ch : Chan) (r : CeuChan) : (s.setCeu ch r).clp = s.clp := rfl
@[simp] theorem State.setCeu_tbm (s : State) (ch : Chan) (r : CeuChan) : (s.setCeu ch r).tbm = s.tbm := rfl
@[simp] theorem State.setCeu_ckt (s : State) (ch : Chan) (r : CeuChan) : (s.setCeu ch r).ckt = s.ckt := rfl
@[simp] theorem State.setCeu_asc (s : State) (ch : Chan) (r : CeuChan) : (s.setCeu ch r).asc = s.asc := rfl
@[simp] theorem State.setCeu_ceu (s : State) (ch : Chan) (r : CeuChan) :
    (s.setCeu ch r).ceu = { s.ceu with chans := s.ceu.chans.set ch r } := rfl
@[simp] theorem State.setCeu_phc (s : State) (ch : Chan) (r : CeuChan) : (s.setCeu ch r).phc = s.phc := rfl
@[simp] theorem State.setCeu_tga (s : State) (ch : Chan) (r : CeuChan) : (s.setCeu ch r).tga = s.tga := rfl
@[simp] theorem State.setCeu_vdr (s : State) (ch : Chan) (r : CeuChan) : (s.setCeu ch r).vdr = s.vdr := rfl
@[simp] theorem State.setCeu_lfs (s : State) (ch : Chan) (r : CeuChan) : (s.setCeu ch r).lfs = s.lfs := rfl
@[simp] theorem State.setCeu_fmg (s : State) (ch : Chan) (r : CeuChan) : (s.setCeu ch r).fmg = s.fmg := rfl
@[simp] theorem State.setCeu_trb (s : State) (ch : Chan) (r : CeuChan) : (s.setCeu ch r).trb = s.trb := rfl
@[simp] theorem State.setCeu_cst (s : State) (ch : Chan) (r : CeuChan) : (s.setCeu ch r).cst = s.cst := rfl
@[simp] theorem State.setCeu_freeCount (s : State) (ch : Chan) (r : CeuChan) :
    (s.setCeu ch r).freeCount = s.freeCount := rfl

@[simp] theorem State.updCeu_pending (s : State) (ch : Chan) (f : CeuChan → CeuChan) :
    (s.updCeu ch f).pending = s.pending := rfl
@[simp] theorem State.updCeu_now (s : State) (ch : Chan) (f : CeuChan → CeuChan) : (s.updCeu ch f).now = s.now := rfl
@[simp] theorem State.updCeu_handovers (s : State) (ch : Chan) (f : CeuChan → CeuChan) :
    (s.updCeu ch f).handovers = s.handovers := rfl
@[simp] theorem State.updCeu_smc (s : State) (ch : Chan) (f : CeuChan → CeuChan) : (s.updCeu ch f).smc = s.smc := rfl
@[simp] theorem State.updCeu_clp (s : State) (ch : Chan) (f : CeuChan → CeuChan) : (s.updCeu ch f).clp = s.clp := rfl
@[simp] theorem State.updCeu_tbm (s : State) (ch : Chan) (f : CeuChan → CeuChan) : (s.updCeu ch f).tbm = s.tbm := rfl
@[simp] theorem State.updCeu_ckt (s : State) (ch : Chan) (f : CeuChan → CeuChan) : (s.updCeu ch f).ckt = s.ckt := rfl
@[simp] theorem State.updCeu_asc (s : State) (ch : Chan) (f : CeuChan → CeuChan) : (s.updCeu ch f).asc = s.asc := rfl
@[simp] theorem State.updCeu_ceu (s : State) (ch : Chan) (f : CeuChan → CeuChan) :
    (s.updCeu ch f).ceu = { s.ceu with chans := s.ceu.chans.set ch (f (s.ceu.chans.get ch)) } := rfl
@[simp] theorem State.updCeu_phc (s : State) (ch : Chan) (f : CeuChan → CeuChan) : (s.updCeu ch f).phc = s.phc := rfl
@[simp] theorem State.updCeu_tga (s : State) (ch : Chan) (f : CeuChan → CeuChan) : (s.updCeu ch f).tga = s.tga := rfl
@[simp] theorem State.updCeu_vdr (s : State) (ch : Chan) (f : CeuChan → CeuChan) : (s.updCeu ch f).vdr = s.vdr := rfl
@[simp] theorem State.updCeu_lfs (s : State) (ch : Chan) (f : CeuChan → CeuChan) : (s.updCeu ch f).lfs = s.lfs := rfl
@[simp] theorem State.updCeu_fmg (s : State) (ch : Chan) (f : CeuChan → CeuChan) : (s.updCeu ch f).fmg = s.fmg := rfl
@[simp] theorem State.updCeu_trb (s : State) (ch : Chan) (f : CeuChan → CeuChan) : (s.updCeu ch f).trb = s.trb := rfl
@[simp] theorem State.updCeu_cst (s : State) (ch : Chan) (f : CeuChan → CeuChan) : (s.updCeu ch f).cst = s.cst := rfl
@[simp] theorem State.updCeu_freeCount (s : State) (ch : Chan) (f : CeuChan → CeuChan) :
    (s.updCeu ch f).freeCount = s.freeCount := rfl

@[simp] theorem State.setTga_pending (s : State) (ch : Chan) (r : TgaChan) : (s.setTga ch r).pending = s.pending := rfl
@[simp] theorem State.setTga_now (s : State) (ch : Chan) (r : TgaChan) : (s.setTga ch r).now = s.now := rfl
@[simp] theorem State.setTga_handovers (s : State) (ch : Chan) (r : TgaChan) :
    (s.setTga ch r).handovers = s.handovers := rfl
@[simp] theorem State.setTga_smc (s : State) (ch : Chan) (r : TgaChan) : (s.setTga ch r).smc = s.smc := rfl
@[simp] theorem State.setTga_clp (s : State) (ch : Chan) (r : TgaChan) : (s.setTga ch r).clp = s.clp := rfl
@[simp] theorem State.setTga_tbm (s : State) (ch : Chan) (r : TgaChan) : (s.setTga ch r).tbm = s.tbm := rfl
@[simp] theorem State.setTga_ckt (s : State) (ch : Chan) (r : TgaChan) : (s.setTga ch r).ckt = s.ckt := rfl
@[simp] theorem State.setTga_asc (s : State) (ch : Chan) (r : TgaChan) : (s.setTga ch r).asc = s.asc := rfl
@[simp] theorem State.setTga_ceu (s : State) (ch : Chan) (r : TgaChan) : (s.setTga ch r).ceu = s.ceu := rfl
@[simp] theorem State.setTga_phc (s : State) (ch : Chan) (r : TgaChan) : (s.setTga ch r).phc = s.phc := rfl
@[simp] theorem State.setTga_tga (s : State) (ch : Chan) (r : TgaChan) :
    (s.setTga ch r).tga = { s.tga with chans := s.tga.chans.set ch r } := rfl
@[simp] theorem State.setTga_vdr (s : State) (ch : Chan) (r : TgaChan) : (s.setTga ch r).vdr = s.vdr := rfl
@[simp] theorem State.setTga_lfs (s : State) (ch : Chan) (r : TgaChan) : (s.setTga ch r).lfs = s.lfs := rfl
@[simp] theorem State.setTga_fmg (s : State) (ch : Chan) (r : TgaChan) : (s.setTga ch r).fmg = s.fmg := rfl
@[simp] theorem State.setTga_trb (s : State) (ch : Chan) (r : TgaChan) : (s.setTga ch r).trb = s.trb := rfl
@[simp] theorem State.setTga_cst (s : State) (ch : Chan) (r : TgaChan) : (s.setTga ch r).cst = s.cst := rfl
@[simp] theorem State.setTga_freeCount (s : State) (ch : Chan) (r : TgaChan) :
    (s.setTga ch r).freeCount = s.freeCount := rfl

@[simp] theorem State.updTga_pending (s : State) (ch : Chan) (f : TgaChan → TgaChan) :
    (s.updTga ch f).pending = s.pending := rfl
@[simp] theorem State.updTga_now (s : State) (ch : Chan) (f : TgaChan → TgaChan) : (s.updTga ch f).now = s.now := rfl
@[simp] theorem State.updTga_handovers (s : State) (ch : Chan) (f : TgaChan → TgaChan) :
    (s.updTga ch f).handovers = s.handovers := rfl
@[simp] theorem State.updTga_smc (s : State) (ch : Chan) (f : TgaChan → TgaChan) : (s.updTga ch f).smc = s.smc := rfl
@[simp] theorem State.updTga_clp (s : State) (ch : Chan) (f : TgaChan → TgaChan) : (s.updTga ch f).clp = s.clp := rfl
@[simp] theorem State.updTga_tbm (s : State) (ch : Chan) (f : TgaChan → TgaChan) : (s.updTga ch f).tbm = s.tbm := rfl
@[simp] theorem State.updTga_ckt (s : State) (ch : Chan) (f : TgaChan → TgaChan) : (s.updTga ch f).ckt = s.ckt := rfl
@[simp] theorem State.updTga_asc (s : State) (ch : Chan) (f : TgaChan → TgaChan) : (s.updTga ch f).asc = s.asc := rfl
@[simp] theorem State.updTga_ceu (s : State) (ch : Chan) (f : TgaChan → TgaChan) : (s.updTga ch f).ceu = s.ceu := rfl
@[simp] theorem State.updTga_phc (s : State) (ch : Chan) (f : TgaChan → TgaChan) : (s.updTga ch f).phc = s.phc := rfl
@[simp] theorem State.updTga_tga (s : State) (ch : Chan) (f : TgaChan → TgaChan) :
    (s.updTga ch f).tga = { s.tga with chans := s.tga.chans.set ch (f (s.tga.chans.get ch)) } := rfl
@[simp] theorem State.updTga_vdr (s : State) (ch : Chan) (f : TgaChan → TgaChan) : (s.updTga ch f).vdr = s.vdr := rfl
@[simp] theorem State.updTga_lfs (s : State) (ch : Chan) (f : TgaChan → TgaChan) : (s.updTga ch f).lfs = s.lfs := rfl
@[simp] theorem State.updTga_fmg (s : State) (ch : Chan) (f : TgaChan → TgaChan) : (s.updTga ch f).fmg = s.fmg := rfl
@[simp] theorem State.updTga_trb (s : State) (ch : Chan) (f : TgaChan → TgaChan) : (s.updTga ch f).trb = s.trb := rfl
@[simp] theorem State.updTga_cst (s : State) (ch : Chan) (f : TgaChan → TgaChan) : (s.updTga ch f).cst = s.cst := rfl
@[simp] theorem State.updTga_freeCount (s : State) (ch : Chan) (f : TgaChan → TgaChan) :
    (s.updTga ch f).freeCount = s.freeCount := rfl

@[simp] theorem State.hand_pending (s : State) (h : Handover) : (s.hand h).pending = s.pending := rfl
@[simp] theorem State.hand_now (s : State) (h : Handover) : (s.hand h).now = s.now := rfl
@[simp] theorem State.hand_handovers (s : State) (h : Handover) : (s.hand h).handovers = s.handovers ++ [h] := rfl
@[simp] theorem State.hand_smc (s : State) (h : Handover) : (s.hand h).smc = s.smc := rfl
@[simp] theorem State.hand_clp (s : State) (h : Handover) : (s.hand h).clp = s.clp := rfl
@[simp] theorem State.hand_tbm (s : State) (h : Handover) : (s.hand h).tbm = s.tbm := rfl
@[simp] theorem State.hand_ckt (s : State) (h : Handover) : (s.hand h).ckt = s.ckt := rfl
@[simp] theorem State.hand_asc (s : State) (h : Handover) : (s.hand h).asc = s.asc := rfl
@[simp] theorem State.hand_ceu (s : State) (h : Handover) : (s.hand h).ceu = s.ceu := rfl
@[simp] theorem State.hand_phc (s : State) (h : Handover) : (s.hand h).phc = s.phc := rfl
@[simp] theorem State.hand_tga (s : State) (h : Handover) : (s.hand h).tga = s.tga := rfl
@[simp] theorem State.hand_vdr (s : State) (h : Handover) : (s.hand h).vdr = s.vdr := rfl
@[simp] theorem State.hand_lfs (s : State) (h : Handover) : (s.hand h).lfs = s.lfs := rfl
@[simp] theorem State.hand_fmg (s : State) (h : Handover) : (s.hand h).fmg = s.fmg := rfl
@[simp] theorem State.hand_trb (s : State) (h : Handover) : (s.hand h).trb = s.trb := rfl
@[simp] theorem State.hand_cst (s : State) (h : Handover) : (s.hand h).cst = s.cst := rfl
@[simp] theorem State.hand_freeCount (s : State) (h : Handover) : (s.hand h).freeCount = s.freeCount := rfl

@[simp] theorem State.report_pending (s : State) (src : Block) (id : FaultId) (kind : ReportKind) :
    (s.report src id kind).pending = s.pending := rfl
@[simp] theorem State.report_now (s : State) (src : Block) (id : FaultId) (kind : ReportKind) :
    (s.report src id kind).now = s.now := rfl
@[simp] theorem State.report_handovers (s : State) (src : Block) (id : FaultId) (kind : ReportKind) :
    (s.report src id kind).handovers = s.handovers ++ [.report src id kind] := rfl
@[simp] theorem State.report_smc (s : State) (src : Block) (id : FaultId) (kind : ReportKind) :
    (s.report src id kind).smc = s.smc := rfl
@[simp] theorem State.report_clp (s : State) (src : Block) (id : FaultId) (kind : ReportKind) :
    (s.report src id kind).clp = s.clp := rfl
@[simp] theorem State.report_tbm (s : State) (src : Block) (id : FaultId) (kind : ReportKind) :
    (s.report src id kind).tbm = s.tbm := rfl
@[simp] theorem State.report_ckt (s : State) (src : Block) (id : FaultId) (kind : ReportKind) :
    (s.report src id kind).ckt = s.ckt := rfl
@[simp] theorem State.report_asc (s : State) (src : Block) (id : FaultId) (kind : ReportKind) :
    (s.report src id kind).asc = s.asc := rfl
@[simp] theorem State.report_ceu (s : State) (src : Block) (id : FaultId) (kind : ReportKind) :
    (s.report src id kind).ceu = s.ceu := rfl
@[simp] theorem State.report_phc (s : State) (src : Block) (id : FaultId) (kind : ReportKind) :
    (s.report src id kind).phc = s.phc := rfl
@[simp] theorem State.report_tga (s : State) (src : Block) (id : FaultId) (kind : ReportKind) :
    (s.report src id kind).tga = s.tga := rfl
@[simp] theorem State.report_vdr (s : State) (src : Block) (id : FaultId) (kind : ReportKind) :
    (s.report src id kind).vdr = s.vdr := rfl
@[simp] theorem State.report_lfs (s : State) (src : Block) (id : FaultId) (kind : ReportKind) :
    (s.report src id kind).lfs = s.lfs := rfl
@[simp] theorem State.report_fmg (s : State) (src : Block) (id : FaultId) (kind : ReportKind) :
    (s.report src id kind).fmg = s.fmg := rfl
@[simp] theorem State.report_trb (s : State) (src : Block) (id : FaultId) (kind : ReportKind) :
    (s.report src id kind).trb = s.trb := rfl
@[simp] theorem State.report_cst (s : State) (src : Block) (id : FaultId) (kind : ReportKind) :
    (s.report src id kind).cst = s.cst := rfl
@[simp] theorem State.report_freeCount (s : State) (src : Block) (id : FaultId) (kind : ReportKind) :
    (s.report src id kind).freeCount = s.freeCount := rfl

@[simp] theorem State.notice_pending (s : State) (src : Block) (n : Notice) :
    (s.notice src n).pending = s.pending := rfl
@[simp] theorem State.notice_now (s : State) (src : Block) (n : Notice) : (s.notice src n).now = s.now := rfl
@[simp] theorem State.notice_handovers (s : State) (src : Block) (n : Notice) :
    (s.notice src n).handovers = s.handovers ++ [.notice src n] := rfl
@[simp] theorem State.notice_smc (s : State) (src : Block) (n : Notice) : (s.notice src n).smc = s.smc := rfl
@[simp] theorem State.notice_clp (s : State) (src : Block) (n : Notice) : (s.notice src n).clp = s.clp := rfl
@[simp] theorem State.notice_tbm (s : State) (src : Block) (n : Notice) : (s.notice src n).tbm = s.tbm := rfl
@[simp] theorem State.notice_ckt (s : State) (src : Block) (n : Notice) : (s.notice src n).ckt = s.ckt := rfl
@[simp] theorem State.notice_asc (s : State) (src : Block) (n : Notice) : (s.notice src n).asc = s.asc := rfl
@[simp] theorem State.notice_ceu (s : State) (src : Block) (n : Notice) : (s.notice src n).ceu = s.ceu := rfl
@[simp] theorem State.notice_phc (s : State) (src : Block) (n : Notice) : (s.notice src n).phc = s.phc := rfl
@[simp] theorem State.notice_tga (s : State) (src : Block) (n : Notice) : (s.notice src n).tga = s.tga := rfl
@[simp] theorem State.notice_vdr (s : State) (src : Block) (n : Notice) : (s.notice src n).vdr = s.vdr := rfl
@[simp] theorem State.notice_lfs (s : State) (src : Block) (n : Notice) : (s.notice src n).lfs = s.lfs := rfl
@[simp] theorem State.notice_fmg (s : State) (src : Block) (n : Notice) : (s.notice src n).fmg = s.fmg := rfl
@[simp] theorem State.notice_trb (s : State) (src : Block) (n : Notice) : (s.notice src n).trb = s.trb := rfl
@[simp] theorem State.notice_cst (s : State) (src : Block) (n : Notice) : (s.notice src n).cst = s.cst := rfl
@[simp] theorem State.notice_freeCount (s : State) (src : Block) (n : Notice) :
    (s.notice src n).freeCount = s.freeCount := rfl

@[simp] theorem State.updClp_pending (s : State) (f : Clp → Clp) : (s.updClp f).pending = s.pending := rfl
@[simp] theorem State.updClp_now (s : State) (f : Clp → Clp) : (s.updClp f).now = s.now := rfl
@[simp] theorem State.updClp_handovers (s : State) (f : Clp → Clp) : (s.updClp f).handovers = s.handovers := rfl
@[simp] theorem State.updClp_smc (s : State) (f : Clp → Clp) : (s.updClp f).smc = s.smc := rfl
@[simp] theorem State.updClp_clp (s : State) (f : Clp → Clp) : (s.updClp f).clp = f s.clp := rfl
@[simp] theorem State.updClp_tbm (s : State) (f : Clp → Clp) : (s.updClp f).tbm = s.tbm := rfl
@[simp] theorem State.updClp_ckt (s : State) (f : Clp → Clp) : (s.updClp f).ckt = s.ckt := rfl
@[simp] theorem State.updClp_asc (s : State) (f : Clp → Clp) : (s.updClp f).asc = s.asc := rfl
@[simp] theorem State.updClp_ceu (s : State) (f : Clp → Clp) : (s.updClp f).ceu = s.ceu := rfl
@[simp] theorem State.updClp_phc (s : State) (f : Clp → Clp) : (s.updClp f).phc = s.phc := rfl
@[simp] theorem State.updClp_tga (s : State) (f : Clp → Clp) : (s.updClp f).tga = s.tga := rfl
@[simp] theorem State.updClp_vdr (s : State) (f : Clp → Clp) : (s.updClp f).vdr = s.vdr := rfl
@[simp] theorem State.updClp_lfs (s : State) (f : Clp → Clp) : (s.updClp f).lfs = s.lfs := rfl
@[simp] theorem State.updClp_fmg (s : State) (f : Clp → Clp) : (s.updClp f).fmg = s.fmg := rfl
@[simp] theorem State.updClp_trb (s : State) (f : Clp → Clp) : (s.updClp f).trb = s.trb := rfl
@[simp] theorem State.updClp_cst (s : State) (f : Clp → Clp) : (s.updClp f).cst = s.cst := rfl
@[simp] theorem State.updClp_freeCount (s : State) (f : Clp → Clp) : (s.updClp f).freeCount = s.freeCount := rfl

@[simp] theorem State.answer_pending (s : State) (k : Keyword) (st : Status) (l : List Field) :
    (s.answer k st l).pending = s.pending := rfl
@[simp] theorem State.answer_now (s : State) (k : Keyword) (st : Status) (l : List Field) :
    (s.answer k st l).now = s.now := rfl
@[simp] theorem State.answer_handovers (s : State) (k : Keyword) (st : Status) (l : List Field) :
    (s.answer k st l).handovers = s.handovers := rfl
@[simp] theorem State.answer_smc (s : State) (k : Keyword) (st : Status) (l : List Field) :
    (s.answer k st l).smc = s.smc := rfl
@[simp] theorem State.answer_clp (s : State) (k : Keyword) (st : Status) (l : List Field) :
    (s.answer k st l).clp = s.clp.answer (.kw k) st l := rfl
@[simp] theorem State.answer_tbm (s : State) (k : Keyword) (st : Status) (l : List Field) :
    (s.answer k st l).tbm = s.tbm := rfl
@[simp] theorem State.answer_ckt (s : State) (k : Keyword) (st : Status) (l : List Field) :
    (s.answer k st l).ckt = s.ckt := rfl
@[simp] theorem State.answer_asc (s : State) (k : Keyword) (st : Status) (l : List Field) :
    (s.answer k st l).asc = s.asc := rfl
@[simp] theorem State.answer_ceu (s : State) (k : Keyword) (st : Status) (l : List Field) :
    (s.answer k st l).ceu = s.ceu := rfl
@[simp] theorem State.answer_phc (s : State) (k : Keyword) (st : Status) (l : List Field) :
    (s.answer k st l).phc = s.phc := rfl
@[simp] theorem State.answer_tga (s : State) (k : Keyword) (st : Status) (l : List Field) :
    (s.answer k st l).tga = s.tga := rfl
@[simp] theorem State.answer_vdr (s : State) (k : Keyword) (st : Status) (l : List Field) :
    (s.answer k st l).vdr = s.vdr := rfl
@[simp] theorem State.answer_lfs (s : State) (k : Keyword) (st : Status) (l : List Field) :
    (s.answer k st l).lfs = s.lfs := rfl
@[simp] theorem State.answer_fmg (s : State) (k : Keyword) (st : Status) (l : List Field) :
    (s.answer k st l).fmg = s.fmg := rfl
@[simp] theorem State.answer_trb (s : State) (k : Keyword) (st : Status) (l : List Field) :
    (s.answer k st l).trb = s.trb := rfl
@[simp] theorem State.answer_cst (s : State) (k : Keyword) (st : Status) (l : List Field) :
    (s.answer k st l).cst = s.cst := rfl
@[simp] theorem State.answer_freeCount (s : State) (k : Keyword) (st : Status) (l : List Field) :
    (s.answer k st l).freeCount = s.freeCount := rfl

@[simp] theorem State.answerRun_pending (s : State) (k : Keyword) (l : List (List Field)) :
    (s.answerRun k l).pending = s.pending := rfl
@[simp] theorem State.answerRun_now (s : State) (k : Keyword) (l : List (List Field)) :
    (s.answerRun k l).now = s.now := rfl
@[simp] theorem State.answerRun_handovers (s : State) (k : Keyword) (l : List (List Field)) :
    (s.answerRun k l).handovers = s.handovers := rfl
@[simp] theorem State.answerRun_smc (s : State) (k : Keyword) (l : List (List Field)) :
    (s.answerRun k l).smc = s.smc := rfl
@[simp] theorem State.answerRun_clp (s : State) (k : Keyword) (l : List (List Field)) :
    (s.answerRun k l).clp = s.clp.answerRun (.kw k) l := rfl
@[simp] theorem State.answerRun_tbm (s : State) (k : Keyword) (l : List (List Field)) :
    (s.answerRun k l).tbm = s.tbm := rfl
@[simp] theorem State.answerRun_ckt (s : State) (k : Keyword) (l : List (List Field)) :
    (s.answerRun k l).ckt = s.ckt := rfl
@[simp] theorem State.answerRun_asc (s : State) (k : Keyword) (l : List (List Field)) :
    (s.answerRun k l).asc = s.asc := rfl
@[simp] theorem State.answerRun_ceu (s : State) (k : Keyword) (l : List (List Field)) :
    (s.answerRun k l).ceu = s.ceu := rfl
@[simp] theorem State.answerRun_phc (s : State) (k : Keyword) (l : List (List Field)) :
    (s.answerRun k l).phc = s.phc := rfl
@[simp] theorem State.answerRun_tga (s : State) (k : Keyword) (l : List (List Field)) :
    (s.answerRun k l).tga = s.tga := rfl
@[simp] theorem State.answerRun_vdr (s : State) (k : Keyword) (l : List (List Field)) :
    (s.answerRun k l).vdr = s.vdr := rfl
@[simp] theorem State.answerRun_lfs (s : State) (k : Keyword) (l : List (List Field)) :
    (s.answerRun k l).lfs = s.lfs := rfl
@[simp] theorem State.answerRun_fmg (s : State) (k : Keyword) (l : List (List Field)) :
    (s.answerRun k l).fmg = s.fmg := rfl
@[simp] theorem State.answerRun_trb (s : State) (k : Keyword) (l : List (List Field)) :
    (s.answerRun k l).trb = s.trb := rfl
@[simp] theorem State.answerRun_cst (s : State) (k : Keyword) (l : List (List Field)) :
    (s.answerRun k l).cst = s.cst := rfl
@[simp] theorem State.answerRun_freeCount (s : State) (k : Keyword) (l : List (List Field)) :
    (s.answerRun k l).freeCount = s.freeCount := rfl

@[simp] theorem State.evalFlt_pending (s : State) : s.evalFlt.pending = s.pending := rfl
@[simp] theorem State.evalFlt_now (s : State) : s.evalFlt.now = s.now := rfl
@[simp] theorem State.evalFlt_handovers (s : State) : s.evalFlt.handovers = s.handovers := rfl
@[simp] theorem State.evalFlt_smc (s : State) : s.evalFlt.smc = s.smc := rfl
@[simp] theorem State.evalFlt_clp (s : State) : s.evalFlt.clp = s.clp := rfl
@[simp] theorem State.evalFlt_tbm (s : State) : s.evalFlt.tbm = s.tbm := rfl
@[simp] theorem State.evalFlt_ckt (s : State) : s.evalFlt.ckt = s.ckt := rfl
@[simp] theorem State.evalFlt_asc (s : State) : s.evalFlt.asc = s.asc := rfl
@[simp] theorem State.evalFlt_ceu (s : State) : s.evalFlt.ceu = s.ceu := rfl
@[simp] theorem State.evalFlt_phc (s : State) : s.evalFlt.phc = s.phc := rfl
@[simp] theorem State.evalFlt_tga (s : State) : s.evalFlt.tga = s.tga := rfl
@[simp] theorem State.evalFlt_vdr (s : State) : s.evalFlt.vdr = s.vdr := rfl
@[simp] theorem State.evalFlt_lfs (s : State) : s.evalFlt.lfs = s.lfs := rfl
@[simp] theorem State.evalFlt_fmg (s : State) : s.evalFlt.fmg = { s.fmg with flt := s.fltNow } := rfl
@[simp] theorem State.evalFlt_trb (s : State) : s.evalFlt.trb = s.trb := rfl
@[simp] theorem State.evalFlt_cst (s : State) : s.evalFlt.cst = s.cst := rfl
@[simp] theorem State.evalFlt_freeCount (s : State) : s.evalFlt.freeCount = s.freeCount := rfl

@[simp] theorem State.updCkt_pending (s : State) (f : Ckt → Ckt) : (s.updCkt f).pending = s.pending := rfl
@[simp] theorem State.updCkt_now (s : State) (f : Ckt → Ckt) : (s.updCkt f).now = s.now := rfl
@[simp] theorem State.updCkt_handovers (s : State) (f : Ckt → Ckt) : (s.updCkt f).handovers = s.handovers := rfl
@[simp] theorem State.updCkt_smc (s : State) (f : Ckt → Ckt) : (s.updCkt f).smc = s.smc := rfl
@[simp] theorem State.updCkt_clp (s : State) (f : Ckt → Ckt) : (s.updCkt f).clp = s.clp := rfl
@[simp] theorem State.updCkt_tbm (s : State) (f : Ckt → Ckt) : (s.updCkt f).tbm = s.tbm := rfl
@[simp] theorem State.updCkt_ckt (s : State) (f : Ckt → Ckt) : (s.updCkt f).ckt = f s.ckt := rfl
@[simp] theorem State.updCkt_asc (s : State) (f : Ckt → Ckt) : (s.updCkt f).asc = s.asc := rfl
@[simp] theorem State.updCkt_ceu (s : State) (f : Ckt → Ckt) : (s.updCkt f).ceu = s.ceu := rfl
@[simp] theorem State.updCkt_phc (s : State) (f : Ckt → Ckt) : (s.updCkt f).phc = s.phc := rfl
@[simp] theorem State.updCkt_tga (s : State) (f : Ckt → Ckt) : (s.updCkt f).tga = s.tga := rfl
@[simp] theorem State.updCkt_vdr (s : State) (f : Ckt → Ckt) : (s.updCkt f).vdr = s.vdr := rfl
@[simp] theorem State.updCkt_lfs (s : State) (f : Ckt → Ckt) : (s.updCkt f).lfs = s.lfs := rfl
@[simp] theorem State.updCkt_fmg (s : State) (f : Ckt → Ckt) : (s.updCkt f).fmg = s.fmg := rfl
@[simp] theorem State.updCkt_trb (s : State) (f : Ckt → Ckt) : (s.updCkt f).trb = s.trb := rfl
@[simp] theorem State.updCkt_cst (s : State) (f : Ckt → Ckt) : (s.updCkt f).cst = s.cst := rfl
@[simp] theorem State.updCkt_freeCount (s : State) (f : Ckt → Ckt) : (s.updCkt f).freeCount = s.freeCount := rfl

@[simp] theorem State.updTrb_pending (s : State) (f : Trb → Trb) : (s.updTrb f).pending = s.pending := rfl
@[simp] theorem State.updTrb_now (s : State) (f : Trb → Trb) : (s.updTrb f).now = s.now := rfl
@[simp] theorem State.updTrb_handovers (s : State) (f : Trb → Trb) : (s.updTrb f).handovers = s.handovers := rfl
@[simp] theorem State.updTrb_smc (s : State) (f : Trb → Trb) : (s.updTrb f).smc = s.smc := rfl
@[simp] theorem State.updTrb_clp (s : State) (f : Trb → Trb) : (s.updTrb f).clp = s.clp := rfl
@[simp] theorem State.updTrb_tbm (s : State) (f : Trb → Trb) : (s.updTrb f).tbm = s.tbm := rfl
@[simp] theorem State.updTrb_ckt (s : State) (f : Trb → Trb) : (s.updTrb f).ckt = s.ckt := rfl
@[simp] theorem State.updTrb_asc (s : State) (f : Trb → Trb) : (s.updTrb f).asc = s.asc := rfl
@[simp] theorem State.updTrb_ceu (s : State) (f : Trb → Trb) : (s.updTrb f).ceu = s.ceu := rfl
@[simp] theorem State.updTrb_phc (s : State) (f : Trb → Trb) : (s.updTrb f).phc = s.phc := rfl
@[simp] theorem State.updTrb_tga (s : State) (f : Trb → Trb) : (s.updTrb f).tga = s.tga := rfl
@[simp] theorem State.updTrb_vdr (s : State) (f : Trb → Trb) : (s.updTrb f).vdr = s.vdr := rfl
@[simp] theorem State.updTrb_lfs (s : State) (f : Trb → Trb) : (s.updTrb f).lfs = s.lfs := rfl
@[simp] theorem State.updTrb_fmg (s : State) (f : Trb → Trb) : (s.updTrb f).fmg = s.fmg := rfl
@[simp] theorem State.updTrb_trb (s : State) (f : Trb → Trb) : (s.updTrb f).trb = f s.trb := rfl
@[simp] theorem State.updTrb_cst (s : State) (f : Trb → Trb) : (s.updTrb f).cst = s.cst := rfl
@[simp] theorem State.updTrb_freeCount (s : State) (f : Trb → Trb) : (s.updTrb f).freeCount = s.freeCount := rfl

@[simp] theorem State.setSlot_pending (s : State) (i : Nat) (x : TraceSlot) : (s.setSlot i x).pending = s.pending := rfl
@[simp] theorem State.setSlot_now (s : State) (i : Nat) (x : TraceSlot) : (s.setSlot i x).now = s.now := rfl
@[simp] theorem State.setSlot_handovers (s : State) (i : Nat) (x : TraceSlot) :
    (s.setSlot i x).handovers = s.handovers := rfl
@[simp] theorem State.setSlot_smc (s : State) (i : Nat) (x : TraceSlot) : (s.setSlot i x).smc = s.smc := rfl
@[simp] theorem State.setSlot_clp (s : State) (i : Nat) (x : TraceSlot) : (s.setSlot i x).clp = s.clp := rfl
@[simp] theorem State.setSlot_tbm (s : State) (i : Nat) (x : TraceSlot) : (s.setSlot i x).tbm = s.tbm := rfl
@[simp] theorem State.setSlot_ckt (s : State) (i : Nat) (x : TraceSlot) : (s.setSlot i x).ckt = s.ckt := rfl
@[simp] theorem State.setSlot_asc (s : State) (i : Nat) (x : TraceSlot) : (s.setSlot i x).asc = s.asc := rfl
@[simp] theorem State.setSlot_ceu (s : State) (i : Nat) (x : TraceSlot) : (s.setSlot i x).ceu = s.ceu := rfl
@[simp] theorem State.setSlot_phc (s : State) (i : Nat) (x : TraceSlot) : (s.setSlot i x).phc = s.phc := rfl
@[simp] theorem State.setSlot_tga (s : State) (i : Nat) (x : TraceSlot) : (s.setSlot i x).tga = s.tga := rfl
@[simp] theorem State.setSlot_vdr (s : State) (i : Nat) (x : TraceSlot) : (s.setSlot i x).vdr = s.vdr := rfl
@[simp] theorem State.setSlot_lfs (s : State) (i : Nat) (x : TraceSlot) : (s.setSlot i x).lfs = s.lfs := rfl
@[simp] theorem State.setSlot_fmg (s : State) (i : Nat) (x : TraceSlot) : (s.setSlot i x).fmg = s.fmg := rfl
@[simp] theorem State.setSlot_trb (s : State) (i : Nat) (x : TraceSlot) :
    (s.setSlot i x).trb = { s.trb with slots := s.trb.slots.set i x } := rfl
@[simp] theorem State.setSlot_cst (s : State) (i : Nat) (x : TraceSlot) : (s.setSlot i x).cst = s.cst := rfl
@[simp] theorem State.setSlot_freeCount (s : State) (i : Nat) (x : TraceSlot) :
    (s.setSlot i x).freeCount = s.freeCount := rfl

@[simp] theorem State.updCst_pending (s : State) (f : Cst → Cst) : (s.updCst f).pending = s.pending := rfl
@[simp] theorem State.updCst_now (s : State) (f : Cst → Cst) : (s.updCst f).now = s.now := rfl
@[simp] theorem State.updCst_handovers (s : State) (f : Cst → Cst) : (s.updCst f).handovers = s.handovers := rfl
@[simp] theorem State.updCst_smc (s : State) (f : Cst → Cst) : (s.updCst f).smc = s.smc := rfl
@[simp] theorem State.updCst_clp (s : State) (f : Cst → Cst) : (s.updCst f).clp = s.clp := rfl
@[simp] theorem State.updCst_tbm (s : State) (f : Cst → Cst) : (s.updCst f).tbm = s.tbm := rfl
@[simp] theorem State.updCst_ckt (s : State) (f : Cst → Cst) : (s.updCst f).ckt = s.ckt := rfl
@[simp] theorem State.updCst_asc (s : State) (f : Cst → Cst) : (s.updCst f).asc = s.asc := rfl
@[simp] theorem State.updCst_ceu (s : State) (f : Cst → Cst) : (s.updCst f).ceu = s.ceu := rfl
@[simp] theorem State.updCst_phc (s : State) (f : Cst → Cst) : (s.updCst f).phc = s.phc := rfl
@[simp] theorem State.updCst_tga (s : State) (f : Cst → Cst) : (s.updCst f).tga = s.tga := rfl
@[simp] theorem State.updCst_vdr (s : State) (f : Cst → Cst) : (s.updCst f).vdr = s.vdr := rfl
@[simp] theorem State.updCst_lfs (s : State) (f : Cst → Cst) : (s.updCst f).lfs = s.lfs := rfl
@[simp] theorem State.updCst_fmg (s : State) (f : Cst → Cst) : (s.updCst f).fmg = s.fmg := rfl
@[simp] theorem State.updCst_trb (s : State) (f : Cst → Cst) : (s.updCst f).trb = s.trb := rfl
@[simp] theorem State.updCst_cst (s : State) (f : Cst → Cst) : (s.updCst f).cst = f s.cst := rfl
@[simp] theorem State.updCst_freeCount (s : State) (f : Cst → Cst) : (s.updCst f).freeCount = s.freeCount := rfl

@[simp] theorem State.setPage_pending (s : State) (n : Nat) (p : Page) : (s.setPage n p).pending = s.pending := rfl
@[simp] theorem State.setPage_now (s : State) (n : Nat) (p : Page) : (s.setPage n p).now = s.now := rfl
@[simp] theorem State.setPage_handovers (s : State) (n : Nat) (p : Page) :
    (s.setPage n p).handovers = s.handovers := rfl
@[simp] theorem State.setPage_smc (s : State) (n : Nat) (p : Page) : (s.setPage n p).smc = s.smc := rfl
@[simp] theorem State.setPage_clp (s : State) (n : Nat) (p : Page) : (s.setPage n p).clp = s.clp := rfl
@[simp] theorem State.setPage_tbm (s : State) (n : Nat) (p : Page) : (s.setPage n p).tbm = s.tbm := rfl
@[simp] theorem State.setPage_ckt (s : State) (n : Nat) (p : Page) : (s.setPage n p).ckt = s.ckt := rfl
@[simp] theorem State.setPage_asc (s : State) (n : Nat) (p : Page) : (s.setPage n p).asc = s.asc := rfl
@[simp] theorem State.setPage_ceu (s : State) (n : Nat) (p : Page) : (s.setPage n p).ceu = s.ceu := rfl
@[simp] theorem State.setPage_phc (s : State) (n : Nat) (p : Page) : (s.setPage n p).phc = s.phc := rfl
@[simp] theorem State.setPage_tga (s : State) (n : Nat) (p : Page) : (s.setPage n p).tga = s.tga := rfl
@[simp] theorem State.setPage_vdr (s : State) (n : Nat) (p : Page) : (s.setPage n p).vdr = s.vdr := rfl
@[simp] theorem State.setPage_lfs (s : State) (n : Nat) (p : Page) : (s.setPage n p).lfs = s.lfs := rfl
@[simp] theorem State.setPage_fmg (s : State) (n : Nat) (p : Page) : (s.setPage n p).fmg = s.fmg := rfl
@[simp] theorem State.setPage_trb (s : State) (n : Nat) (p : Page) : (s.setPage n p).trb = s.trb := rfl
@[simp] theorem State.setPage_cst (s : State) (n : Nat) (p : Page) :
    (s.setPage n p).cst = { s.cst with pages := s.cst.pages.set n p } := rfl
@[simp] theorem State.setPage_freeCount (s : State) (n : Nat) (p : Page) :
    (s.setPage n p).freeCount = s.freeCount := rfl

@[simp] theorem State.setRegion_pending (s : State) (r : Region) (x : RegionRec) :
    (s.setRegion r x).pending = s.pending := rfl
@[simp] theorem State.setRegion_now (s : State) (r : Region) (x : RegionRec) : (s.setRegion r x).now = s.now := rfl
@[simp] theorem State.setRegion_handovers (s : State) (r : Region) (x : RegionRec) :
    (s.setRegion r x).handovers = s.handovers := rfl
@[simp] theorem State.setRegion_smc (s : State) (r : Region) (x : RegionRec) : (s.setRegion r x).smc = s.smc := rfl
@[simp] theorem State.setRegion_clp (s : State) (r : Region) (x : RegionRec) : (s.setRegion r x).clp = s.clp := rfl
@[simp] theorem State.setRegion_tbm (s : State) (r : Region) (x : RegionRec) : (s.setRegion r x).tbm = s.tbm := rfl
@[simp] theorem State.setRegion_ckt (s : State) (r : Region) (x : RegionRec) : (s.setRegion r x).ckt = s.ckt := rfl
@[simp] theorem State.setRegion_asc (s : State) (r : Region) (x : RegionRec) : (s.setRegion r x).asc = s.asc := rfl
@[simp] theorem State.setRegion_ceu (s : State) (r : Region) (x : RegionRec) : (s.setRegion r x).ceu = s.ceu := rfl
@[simp] theorem State.setRegion_phc (s : State) (r : Region) (x : RegionRec) : (s.setRegion r x).phc = s.phc := rfl
@[simp] theorem State.setRegion_tga (s : State) (r : Region) (x : RegionRec) : (s.setRegion r x).tga = s.tga := rfl
@[simp] theorem State.setRegion_vdr (s : State) (r : Region) (x : RegionRec) : (s.setRegion r x).vdr = s.vdr := rfl
@[simp] theorem State.setRegion_lfs (s : State) (r : Region) (x : RegionRec) : (s.setRegion r x).lfs = s.lfs := rfl
@[simp] theorem State.setRegion_fmg (s : State) (r : Region) (x : RegionRec) : (s.setRegion r x).fmg = s.fmg := rfl
@[simp] theorem State.setRegion_trb (s : State) (r : Region) (x : RegionRec) : (s.setRegion r x).trb = s.trb := rfl
@[simp] theorem State.setRegion_cst (s : State) (r : Region) (x : RegionRec) :
    (s.setRegion r x).cst = { s.cst with regions := s.cst.regions.set r x } := rfl
@[simp] theorem State.setRegion_freeCount (s : State) (r : Region) (x : RegionRec) :
    (s.setRegion r x).freeCount = s.freeCount := rfl

@[simp] theorem State.updOp_pending (s : State) (f : StoreOp → StoreOp) : (s.updOp f).pending = s.pending := rfl
@[simp] theorem State.updOp_now (s : State) (f : StoreOp → StoreOp) : (s.updOp f).now = s.now := rfl
@[simp] theorem State.updOp_handovers (s : State) (f : StoreOp → StoreOp) : (s.updOp f).handovers = s.handovers := rfl
@[simp] theorem State.updOp_smc (s : State) (f : StoreOp → StoreOp) : (s.updOp f).smc = s.smc := rfl
@[simp] theorem State.updOp_clp (s : State) (f : StoreOp → StoreOp) : (s.updOp f).clp = s.clp := rfl
@[simp] theorem State.updOp_tbm (s : State) (f : StoreOp → StoreOp) : (s.updOp f).tbm = s.tbm := rfl
@[simp] theorem State.updOp_ckt (s : State) (f : StoreOp → StoreOp) : (s.updOp f).ckt = s.ckt := rfl
@[simp] theorem State.updOp_asc (s : State) (f : StoreOp → StoreOp) : (s.updOp f).asc = s.asc := rfl
@[simp] theorem State.updOp_ceu (s : State) (f : StoreOp → StoreOp) : (s.updOp f).ceu = s.ceu := rfl
@[simp] theorem State.updOp_phc (s : State) (f : StoreOp → StoreOp) : (s.updOp f).phc = s.phc := rfl
@[simp] theorem State.updOp_tga (s : State) (f : StoreOp → StoreOp) : (s.updOp f).tga = s.tga := rfl
@[simp] theorem State.updOp_vdr (s : State) (f : StoreOp → StoreOp) : (s.updOp f).vdr = s.vdr := rfl
@[simp] theorem State.updOp_lfs (s : State) (f : StoreOp → StoreOp) : (s.updOp f).lfs = s.lfs := rfl
@[simp] theorem State.updOp_fmg (s : State) (f : StoreOp → StoreOp) : (s.updOp f).fmg = s.fmg := rfl
@[simp] theorem State.updOp_trb (s : State) (f : StoreOp → StoreOp) : (s.updOp f).trb = s.trb := rfl
@[simp] theorem State.updOp_cst (s : State) (f : StoreOp → StoreOp) :
    (s.updOp f).cst = { s.cst with op := f s.cst.op } := rfl
@[simp] theorem State.updOp_freeCount (s : State) (f : StoreOp → StoreOp) : (s.updOp f).freeCount = s.freeCount := rfl

@[simp] theorem State.updSmc_pending (s : State) (f : Smc → Smc) : (s.updSmc f).pending = s.pending := rfl
@[simp] theorem State.updSmc_now (s : State) (f : Smc → Smc) : (s.updSmc f).now = s.now := rfl
@[simp] theorem State.updSmc_handovers (s : State) (f : Smc → Smc) : (s.updSmc f).handovers = s.handovers := rfl
@[simp] theorem State.updSmc_smc (s : State) (f : Smc → Smc) : (s.updSmc f).smc = f s.smc := rfl
@[simp] theorem State.updSmc_clp (s : State) (f : Smc → Smc) : (s.updSmc f).clp = s.clp := rfl
@[simp] theorem State.updSmc_tbm (s : State) (f : Smc → Smc) : (s.updSmc f).tbm = s.tbm := rfl
@[simp] theorem State.updSmc_ckt (s : State) (f : Smc → Smc) : (s.updSmc f).ckt = s.ckt := rfl
@[simp] theorem State.updSmc_asc (s : State) (f : Smc → Smc) : (s.updSmc f).asc = s.asc := rfl
@[simp] theorem State.updSmc_ceu (s : State) (f : Smc → Smc) : (s.updSmc f).ceu = s.ceu := rfl
@[simp] theorem State.updSmc_phc (s : State) (f : Smc → Smc) : (s.updSmc f).phc = s.phc := rfl
@[simp] theorem State.updSmc_tga (s : State) (f : Smc → Smc) : (s.updSmc f).tga = s.tga := rfl
@[simp] theorem State.updSmc_vdr (s : State) (f : Smc → Smc) : (s.updSmc f).vdr = s.vdr := rfl
@[simp] theorem State.updSmc_lfs (s : State) (f : Smc → Smc) : (s.updSmc f).lfs = s.lfs := rfl
@[simp] theorem State.updSmc_fmg (s : State) (f : Smc → Smc) : (s.updSmc f).fmg = s.fmg := rfl
@[simp] theorem State.updSmc_trb (s : State) (f : Smc → Smc) : (s.updSmc f).trb = s.trb := rfl
@[simp] theorem State.updSmc_cst (s : State) (f : Smc → Smc) : (s.updSmc f).cst = s.cst := rfl
@[simp] theorem State.updSmc_freeCount (s : State) (f : Smc → Smc) : (s.updSmc f).freeCount = s.freeCount := rfl

/-! ### One value among several -/

/-- Reading what was written, or what stood beside it. -/
theorem PerChan.get_set {α : Type} (p : PerChan α) (i j : Chan) (a : α) : (p.set i a).get j = if i = j then a else p.get j := by
  cases i <;> cases j <;> rfl

@[simp] theorem PerChan.get_set_same {α : Type} (p : PerChan α) (i : Chan) (a : α) : (p.set i a).get i = a := by
  cases i <;> rfl

@[simp] theorem PerChan.get_map {α β : Type} (f : Chan → α → β) (p : PerChan α) (i : Chan) : (p.map f).get i = f i (p.get i) := by
  cases i <;> rfl

/-- Reading what was written, or what stood beside it. -/
theorem PerUnit.get_set {α : Type} (p : PerUnit α) (i j : LiftUnit) (a : α) : (p.set i a).get j = if i = j then a else p.get j := by
  cases i <;> cases j <;> rfl

@[simp] theorem PerUnit.get_set_same {α : Type} (p : PerUnit α) (i : LiftUnit) (a : α) : (p.set i a).get i = a := by
  cases i <;> rfl

@[simp] theorem PerUnit.get_map {α β : Type} (f : LiftUnit → α → β) (p : PerUnit α) (i : LiftUnit) : (p.map f).get i = f i (p.get i) := by
  cases i <;> rfl

/-- Reading what was written, or what stood beside it. -/
theorem PerOcv.get_set {α : Type} (p : PerOcv α) (i j : LineABCD) (a : α) : (p.set i a).get j = if i = j then a else p.get j := by
  cases i <;> cases j <;> rfl

@[simp] theorem PerOcv.get_set_same {α : Type} (p : PerOcv α) (i : LineABCD) (a : α) : (p.set i a).get i = a := by
  cases i <;> rfl

@[simp] theorem PerOcv.get_map {α β : Type} (f : LineABCD → α → β) (p : PerOcv α) (i : LineABCD) : (p.map f).get i = f i (p.get i) := by
  cases i <;> rfl

/-- Reading what was written, or what stood beside it. -/
theorem PerLs.get_set {α : Type} (p : PerLs α) (i j : LineAB) (a : α) : (p.set i a).get j = if i = j then a else p.get j := by
  cases i <;> cases j <;> rfl

@[simp] theorem PerLs.get_set_same {α : Type} (p : PerLs α) (i : LineAB) (a : α) : (p.set i a).get i = a := by
  cases i <;> rfl

@[simp] theorem PerLs.get_map {α β : Type} (f : LineAB → α → β) (p : PerLs α) (i : LineAB) : (p.map f).get i = f i (p.get i) := by
  cases i <;> rfl

/-- Reading what was written, or what stood beside it. -/
theorem PerKind.get_set {α : Type} (p : PerKind α) (i j : FaultKind) (a : α) : (p.set i a).get j = if i = j then a else p.get j := by
  cases i <;> cases j <;> rfl

@[simp] theorem PerKind.get_set_same {α : Type} (p : PerKind α) (i : FaultKind) (a : α) : (p.set i a).get i = a := by
  cases i <;> rfl

@[simp] theorem PerKind.get_map {α β : Type} (f : FaultKind → α → β) (p : PerKind α) (i : FaultKind) : (p.map f).get i = f i (p.get i) := by
  cases i <;> rfl

/-- Reading what was written, or what stood beside it. -/
theorem PerRegion.get_set {α : Type} (p : PerRegion α) (i j : Region) (a : α) : (p.set i a).get j = if i = j then a else p.get j := by
  cases i <;> cases j <;> rfl

@[simp] theorem PerRegion.get_set_same {α : Type} (p : PerRegion α) (i : Region) (a : α) : (p.set i a).get i = a := by
  cases i <;> rfl

@[simp] theorem PerRegion.get_map {α β : Type} (f : Region → α → β) (p : PerRegion α) (i : Region) : (p.map f).get i = f i (p.get i) := by
  cases i <;> rfl

end Sys2Proof.Machine
end

