-- ==== Sys2Proof/Laws/Frames.lean ====
section
/-! SUPPORT. What each shared operation leaves as it was: one lemma for each operation, naming every field of the state
that it does not write, so that a proof about another field never unfolds it. -/

set_option linter.unusedTactic false
set_option linter.unreachableTactic false
set_option linter.unnecessarySeqFocus false

namespace Sys2Proof.Machine

@[simp] theorem forEach_pending {α : Type} (l : List α) (f : State → α → State) (s : State)
    (h : ∀ s a, (f s a).pending = s.pending) : (forEach l f s).pending = s.pending := by
  unfold forEach
  induction l generalizing s with
  | nil => rfl
  | cons a l ih => simp [List.foldl_cons, ih, h]

@[simp] theorem forEach_now {α : Type} (l : List α) (f : State → α → State) (s : State)
    (h : ∀ s a, (f s a).now = s.now) : (forEach l f s).now = s.now := by
  unfold forEach
  induction l generalizing s with
  | nil => rfl
  | cons a l ih => simp [List.foldl_cons, ih, h]

@[simp] theorem forEach_handovers {α : Type} (l : List α) (f : State → α → State) (s : State)
    (h : ∀ s a, (f s a).handovers = s.handovers) : (forEach l f s).handovers = s.handovers := by
  unfold forEach
  induction l generalizing s with
  | nil => rfl
  | cons a l ih => simp [List.foldl_cons, ih, h]

@[simp] theorem forEach_smc {α : Type} (l : List α) (f : State → α → State) (s : State)
    (h : ∀ s a, (f s a).smc = s.smc) : (forEach l f s).smc = s.smc := by
  unfold forEach
  induction l generalizing s with
  | nil => rfl
  | cons a l ih => simp [List.foldl_cons, ih, h]

@[simp] theorem forEach_clp {α : Type} (l : List α) (f : State → α → State) (s : State)
    (h : ∀ s a, (f s a).clp = s.clp) : (forEach l f s).clp = s.clp := by
  unfold forEach
  induction l generalizing s with
  | nil => rfl
  | cons a l ih => simp [List.foldl_cons, ih, h]

@[simp] theorem forEach_tbm {α : Type} (l : List α) (f : State → α → State) (s : State)
    (h : ∀ s a, (f s a).tbm = s.tbm) : (forEach l f s).tbm = s.tbm := by
  unfold forEach
  induction l generalizing s with
  | nil => rfl
  | cons a l ih => simp [List.foldl_cons, ih, h]

@[simp] theorem forEach_ckt {α : Type} (l : List α) (f : State → α → State) (s : State)
    (h : ∀ s a, (f s a).ckt = s.ckt) : (forEach l f s).ckt = s.ckt := by
  unfold forEach
  induction l generalizing s with
  | nil => rfl
  | cons a l ih => simp [List.foldl_cons, ih, h]

@[simp] theorem forEach_asc {α : Type} (l : List α) (f : State → α → State) (s : State)
    (h : ∀ s a, (f s a).asc = s.asc) : (forEach l f s).asc = s.asc := by
  unfold forEach
  induction l generalizing s with
  | nil => rfl
  | cons a l ih => simp [List.foldl_cons, ih, h]

@[simp] theorem forEach_ceu {α : Type} (l : List α) (f : State → α → State) (s : State)
    (h : ∀ s a, (f s a).ceu = s.ceu) : (forEach l f s).ceu = s.ceu := by
  unfold forEach
  induction l generalizing s with
  | nil => rfl
  | cons a l ih => simp [List.foldl_cons, ih, h]

@[simp] theorem forEach_phc {α : Type} (l : List α) (f : State → α → State) (s : State)
    (h : ∀ s a, (f s a).phc = s.phc) : (forEach l f s).phc = s.phc := by
  unfold forEach
  induction l generalizing s with
  | nil => rfl
  | cons a l ih => simp [List.foldl_cons, ih, h]

@[simp] theorem forEach_tga {α : Type} (l : List α) (f : State → α → State) (s : State)
    (h : ∀ s a, (f s a).tga = s.tga) : (forEach l f s).tga = s.tga := by
  unfold forEach
  induction l generalizing s with
  | nil => rfl
  | cons a l ih => simp [List.foldl_cons, ih, h]

@[simp] theorem forEach_vdr {α : Type} (l : List α) (f : State → α → State) (s : State)
    (h : ∀ s a, (f s a).vdr = s.vdr) : (forEach l f s).vdr = s.vdr := by
  unfold forEach
  induction l generalizing s with
  | nil => rfl
  | cons a l ih => simp [List.foldl_cons, ih, h]

@[simp] theorem forEach_lfs {α : Type} (l : List α) (f : State → α → State) (s : State)
    (h : ∀ s a, (f s a).lfs = s.lfs) : (forEach l f s).lfs = s.lfs := by
  unfold forEach
  induction l generalizing s with
  | nil => rfl
  | cons a l ih => simp [List.foldl_cons, ih, h]

@[simp] theorem forEach_fmg {α : Type} (l : List α) (f : State → α → State) (s : State)
    (h : ∀ s a, (f s a).fmg = s.fmg) : (forEach l f s).fmg = s.fmg := by
  unfold forEach
  induction l generalizing s with
  | nil => rfl
  | cons a l ih => simp [List.foldl_cons, ih, h]

@[simp] theorem forEach_trb {α : Type} (l : List α) (f : State → α → State) (s : State)
    (h : ∀ s a, (f s a).trb = s.trb) : (forEach l f s).trb = s.trb := by
  unfold forEach
  induction l generalizing s with
  | nil => rfl
  | cons a l ih => simp [List.foldl_cons, ih, h]

@[simp] theorem forEach_cst {α : Type} (l : List α) (f : State → α → State) (s : State)
    (h : ∀ s a, (f s a).cst = s.cst) : (forEach l f s).cst = s.cst := by
  unfold forEach
  induction l generalizing s with
  | nil => rfl
  | cons a l ih => simp [List.foldl_cons, ih, h]

@[simp] theorem forEach_freeCount {α : Type} (l : List α) (f : State → α → State) (s : State)
    (h : ∀ s a, (f s a).freeCount = s.freeCount) : (forEach l f s).freeCount = s.freeCount := by
  unfold forEach
  induction l generalizing s with
  | nil => rfl
  | cons a l ih => simp [List.foldl_cons, ih, h]

@[simp] theorem State.recomputeChan_keeps (s : State) (ch : Chan) :
    (s.recomputeChan ch).pending = s.pending ∧ (s.recomputeChan ch).now = s.now ∧ (s.recomputeChan ch).smc = s.smc ∧
    (s.recomputeChan ch).clp = s.clp ∧ (s.recomputeChan ch).tbm = s.tbm ∧ (s.recomputeChan ch).ckt = s.ckt ∧
    (s.recomputeChan ch).asc = s.asc ∧ (s.recomputeChan ch).ceu = s.ceu ∧ (s.recomputeChan ch).phc = s.phc ∧
    (s.recomputeChan ch).tga = s.tga ∧ (s.recomputeChan ch).vdr = s.vdr ∧ (s.recomputeChan ch).lfs = s.lfs ∧
    (s.recomputeChan ch).trb = s.trb ∧ (s.recomputeChan ch).cst = s.cst ∧ (s.recomputeChan ch).freeCount = s.freeCount := by
  unfold State.recomputeChan
  all_goals (try dsimp only)
  all_goals ((repeat' split) <;> simp -implicitDefEqProofs)

@[simp] theorem State.recomputeUnit_keeps (s : State) (u : LiftUnit) :
    (s.recomputeUnit u).pending = s.pending ∧ (s.recomputeUnit u).now = s.now ∧ (s.recomputeUnit u).smc = s.smc ∧
    (s.recomputeUnit u).clp = s.clp ∧ (s.recomputeUnit u).tbm = s.tbm ∧ (s.recomputeUnit u).ckt = s.ckt ∧
    (s.recomputeUnit u).asc = s.asc ∧ (s.recomputeUnit u).ceu = s.ceu ∧ (s.recomputeUnit u).phc = s.phc ∧
    (s.recomputeUnit u).tga = s.tga ∧ (s.recomputeUnit u).vdr = s.vdr ∧ (s.recomputeUnit u).lfs = s.lfs ∧
    (s.recomputeUnit u).trb = s.trb ∧ (s.recomputeUnit u).cst = s.cst ∧ (s.recomputeUnit u).freeCount = s.freeCount := by
  unfold State.recomputeUnit
  all_goals (try dsimp only)
  all_goals ((repeat' split) <;> simp -implicitDefEqProofs)

@[simp] theorem State.recompute_keeps (s : State) :
    s.recompute.pending = s.pending ∧ s.recompute.now = s.now ∧ s.recompute.smc = s.smc ∧ s.recompute.clp = s.clp ∧
    s.recompute.tbm = s.tbm ∧ s.recompute.ckt = s.ckt ∧ s.recompute.asc = s.asc ∧ s.recompute.ceu = s.ceu ∧
    s.recompute.phc = s.phc ∧ s.recompute.tga = s.tga ∧ s.recompute.vdr = s.vdr ∧ s.recompute.lfs = s.lfs ∧
    s.recompute.trb = s.trb ∧ s.recompute.cst = s.cst ∧ s.recompute.freeCount = s.freeCount := by
  unfold State.recompute
  all_goals (try dsimp only)
  all_goals ((repeat' split) <;> simp -implicitDefEqProofs)

@[simp] theorem State.handDriverClear_keeps (old : FaultTable) (new : FaultTable) (s : State) (out : Out) :
    (s.handDriverClear old new out).pending = s.pending ∧ (s.handDriverClear old new out).now = s.now ∧
    (s.handDriverClear old new out).smc = s.smc ∧ (s.handDriverClear old new out).clp = s.clp ∧
    (s.handDriverClear old new out).tbm = s.tbm ∧ (s.handDriverClear old new out).ckt = s.ckt ∧
    (s.handDriverClear old new out).asc = s.asc ∧ (s.handDriverClear old new out).ceu = s.ceu ∧
    (s.handDriverClear old new out).phc = s.phc ∧ (s.handDriverClear old new out).tga = s.tga ∧
    (s.handDriverClear old new out).vdr = s.vdr ∧ (s.handDriverClear old new out).lfs = s.lfs ∧
    (s.handDriverClear old new out).fmg = s.fmg ∧ (s.handDriverClear old new out).trb = s.trb ∧
    (s.handDriverClear old new out).cst = s.cst ∧ (s.handDriverClear old new out).freeCount = s.freeCount := by
  unfold State.handDriverClear
  all_goals (try dsimp only)
  all_goals ((repeat' split) <;> simp -implicitDefEqProofs)

@[simp] theorem State.handUnitClear_keeps (old : FaultTable) (new : FaultTable) (s : State) (u : LiftUnit) :
    (s.handUnitClear old new u).pending = s.pending ∧ (s.handUnitClear old new u).now = s.now ∧
    (s.handUnitClear old new u).smc = s.smc ∧ (s.handUnitClear old new u).clp = s.clp ∧
    (s.handUnitClear old new u).tbm = s.tbm ∧ (s.handUnitClear old new u).ckt = s.ckt ∧
    (s.handUnitClear old new u).asc = s.asc ∧ (s.handUnitClear old new u).ceu = s.ceu ∧
    (s.handUnitClear old new u).phc = s.phc ∧ (s.handUnitClear old new u).tga = s.tga ∧
    (s.handUnitClear old new u).vdr = s.vdr ∧ (s.handUnitClear old new u).lfs = s.lfs ∧
    (s.handUnitClear old new u).fmg = s.fmg ∧ (s.handUnitClear old new u).trb = s.trb ∧
    (s.handUnitClear old new u).cst = s.cst ∧ (s.handUnitClear old new u).freeCount = s.freeCount := by
  unfold State.handUnitClear
  all_goals (try dsimp only)
  all_goals ((repeat' split) <;> simp -implicitDefEqProofs)

@[simp] theorem State.changeRecords_keeps (s : State) (new : FaultTable) :
    (s.changeRecords new).pending = s.pending ∧ (s.changeRecords new).now = s.now ∧
    (s.changeRecords new).smc = s.smc ∧ (s.changeRecords new).clp = s.clp ∧ (s.changeRecords new).tbm = s.tbm ∧
    (s.changeRecords new).ckt = s.ckt ∧ (s.changeRecords new).asc = s.asc ∧ (s.changeRecords new).ceu = s.ceu ∧
    (s.changeRecords new).phc = s.phc ∧ (s.changeRecords new).tga = s.tga ∧ (s.changeRecords new).vdr = s.vdr ∧
    (s.changeRecords new).lfs = s.lfs ∧ (s.changeRecords new).trb = s.trb ∧ (s.changeRecords new).cst = s.cst ∧
    (s.changeRecords new).freeCount = s.freeCount := by
  unfold State.changeRecords
  all_goals (try dsimp only)
  all_goals ((repeat' split) <;> simp -implicitDefEqProofs)

@[simp] theorem State.changeRecord_keeps (s : State) (id : FaultId) (r : FaultRec) :
    (s.changeRecord id r).pending = s.pending ∧ (s.changeRecord id r).now = s.now ∧
    (s.changeRecord id r).smc = s.smc ∧ (s.changeRecord id r).clp = s.clp ∧ (s.changeRecord id r).tbm = s.tbm ∧
    (s.changeRecord id r).ckt = s.ckt ∧ (s.changeRecord id r).asc = s.asc ∧ (s.changeRecord id r).ceu = s.ceu ∧
    (s.changeRecord id r).phc = s.phc ∧ (s.changeRecord id r).tga = s.tga ∧ (s.changeRecord id r).vdr = s.vdr ∧
    (s.changeRecord id r).lfs = s.lfs ∧ (s.changeRecord id r).trb = s.trb ∧ (s.changeRecord id r).cst = s.cst ∧
    (s.changeRecord id r).freeCount = s.freeCount := by
  unfold State.changeRecord
  all_goals (try dsimp only)
  all_goals ((repeat' split) <;> simp -implicitDefEqProofs)

@[simp] theorem State.handDriverFault_keeps (s : State) (class1 : Bool) (out : Out) :
    (s.handDriverFault class1 out).pending = s.pending ∧ (s.handDriverFault class1 out).now = s.now ∧
    (s.handDriverFault class1 out).smc = s.smc ∧ (s.handDriverFault class1 out).clp = s.clp ∧
    (s.handDriverFault class1 out).tbm = s.tbm ∧ (s.handDriverFault class1 out).ckt = s.ckt ∧
    (s.handDriverFault class1 out).asc = s.asc ∧ (s.handDriverFault class1 out).ceu = s.ceu ∧
    (s.handDriverFault class1 out).phc = s.phc ∧ (s.handDriverFault class1 out).tga = s.tga ∧
    (s.handDriverFault class1 out).vdr = s.vdr ∧ (s.handDriverFault class1 out).lfs = s.lfs ∧
    (s.handDriverFault class1 out).fmg = s.fmg ∧ (s.handDriverFault class1 out).trb = s.trb ∧
    (s.handDriverFault class1 out).cst = s.cst ∧ (s.handDriverFault class1 out).freeCount = s.freeCount := by
  unfold State.handDriverFault
  all_goals (try dsimp only)
  all_goals ((repeat' split) <;> simp -implicitDefEqProofs)

@[simp] theorem State.fixedAction_keeps (s : State) (id : FaultId) :
    (s.fixedAction id).pending = s.pending ∧ (s.fixedAction id).now = s.now ∧ (s.fixedAction id).smc = s.smc ∧
    (s.fixedAction id).clp = s.clp ∧ (s.fixedAction id).tbm = s.tbm ∧ (s.fixedAction id).ckt = s.ckt ∧
    (s.fixedAction id).asc = s.asc ∧ (s.fixedAction id).ceu = s.ceu ∧ (s.fixedAction id).phc = s.phc ∧
    (s.fixedAction id).tga = s.tga ∧ (s.fixedAction id).vdr = s.vdr ∧ (s.fixedAction id).lfs = s.lfs ∧
    (s.fixedAction id).fmg = s.fmg ∧ (s.fixedAction id).trb = s.trb ∧ (s.fixedAction id).cst = s.cst ∧
    (s.fixedAction id).freeCount = s.freeCount := by
  unfold State.fixedAction
  all_goals (try dsimp only)
  all_goals ((repeat' split) <;> simp -implicitDefEqProofs)

@[simp] theorem State.occurrence_keeps (s : State) (id : FaultId) :
    (s.occurrence id).pending = s.pending ∧ (s.occurrence id).now = s.now ∧ (s.occurrence id).smc = s.smc ∧
    (s.occurrence id).clp = s.clp ∧ (s.occurrence id).tbm = s.tbm ∧ (s.occurrence id).ckt = s.ckt ∧
    (s.occurrence id).asc = s.asc ∧ (s.occurrence id).ceu = s.ceu ∧ (s.occurrence id).phc = s.phc ∧
    (s.occurrence id).tga = s.tga ∧ (s.occurrence id).vdr = s.vdr ∧ (s.occurrence id).lfs = s.lfs ∧
    (s.occurrence id).fmg = s.fmg ∧ (s.occurrence id).trb = s.trb ∧ (s.occurrence id).cst = s.cst ∧
    (s.occurrence id).freeCount = s.freeCount := by
  unfold State.occurrence
  all_goals (try dsimp only)
  all_goals ((repeat' split) <;> simp -implicitDefEqProofs)

@[simp] theorem State.occur_keeps (s : State) (id : FaultId) (new : FaultRec) :
    (s.occur id new).pending = s.pending ∧ (s.occur id new).now = s.now ∧ (s.occur id new).smc = s.smc ∧
    (s.occur id new).clp = s.clp ∧ (s.occur id new).tbm = s.tbm ∧ (s.occur id new).ckt = s.ckt ∧
    (s.occur id new).asc = s.asc ∧ (s.occur id new).ceu = s.ceu ∧ (s.occur id new).phc = s.phc ∧
    (s.occur id new).tga = s.tga ∧ (s.occur id new).vdr = s.vdr ∧ (s.occur id new).lfs = s.lfs ∧
    (s.occur id new).trb = s.trb ∧ (s.occur id new).cst = s.cst ∧ (s.occur id new).freeCount = s.freeCount := by
  unfold State.occur
  all_goals (try dsimp only)
  all_goals ((repeat' split) <;> simp -implicitDefEqProofs)

@[simp] theorem State.takePresent_keeps (s : State) (id : FaultId) :
    (s.takePresent id).pending = s.pending ∧ (s.takePresent id).now = s.now ∧ (s.takePresent id).smc = s.smc ∧
    (s.takePresent id).clp = s.clp ∧ (s.takePresent id).tbm = s.tbm ∧ (s.takePresent id).ckt = s.ckt ∧
    (s.takePresent id).asc = s.asc ∧ (s.takePresent id).ceu = s.ceu ∧ (s.takePresent id).phc = s.phc ∧
    (s.takePresent id).tga = s.tga ∧ (s.takePresent id).vdr = s.vdr ∧ (s.takePresent id).lfs = s.lfs ∧
    (s.takePresent id).trb = s.trb ∧ (s.takePresent id).cst = s.cst ∧ (s.takePresent id).freeCount = s.freeCount := by
  unfold State.takePresent
  all_goals (try dsimp only)
  all_goals ((repeat' split) <;> simp -implicitDefEqProofs)

@[simp] theorem State.takeGone_keeps (s : State) (id : FaultId) :
    (s.takeGone id).pending = s.pending ∧ (s.takeGone id).now = s.now ∧ (s.takeGone id).smc = s.smc ∧
    (s.takeGone id).clp = s.clp ∧ (s.takeGone id).tbm = s.tbm ∧ (s.takeGone id).ckt = s.ckt ∧
    (s.takeGone id).asc = s.asc ∧ (s.takeGone id).ceu = s.ceu ∧ (s.takeGone id).phc = s.phc ∧
    (s.takeGone id).tga = s.tga ∧ (s.takeGone id).vdr = s.vdr ∧ (s.takeGone id).lfs = s.lfs ∧
    (s.takeGone id).trb = s.trb ∧ (s.takeGone id).cst = s.cst ∧ (s.takeGone id).freeCount = s.freeCount := by
  unfold State.takeGone
  all_goals (try dsimp only)
  all_goals ((repeat' split) <;> simp -implicitDefEqProofs)

@[simp] theorem State.takeEvent_keeps (s : State) (id : FaultId) :
    (s.takeEvent id).pending = s.pending ∧ (s.takeEvent id).now = s.now ∧ (s.takeEvent id).smc = s.smc ∧
    (s.takeEvent id).clp = s.clp ∧ (s.takeEvent id).tbm = s.tbm ∧ (s.takeEvent id).ckt = s.ckt ∧
    (s.takeEvent id).asc = s.asc ∧ (s.takeEvent id).ceu = s.ceu ∧ (s.takeEvent id).phc = s.phc ∧
    (s.takeEvent id).tga = s.tga ∧ (s.takeEvent id).vdr = s.vdr ∧ (s.takeEvent id).lfs = s.lfs ∧
    (s.takeEvent id).trb = s.trb ∧ (s.takeEvent id).cst = s.cst ∧ (s.takeEvent id).freeCount = s.freeCount := by
  unfold State.takeEvent
  all_goals (try dsimp only)
  all_goals ((repeat' split) <;> simp -implicitDefEqProofs)

@[simp] theorem State.doLayw_keeps (s : State) (fields : List Field) :
    (s.doLayw fields).pending = s.pending ∧ (s.doLayw fields).now = s.now ∧
    (s.doLayw fields).handovers = s.handovers ∧ (s.doLayw fields).smc = s.smc ∧ (s.doLayw fields).ckt = s.ckt ∧
    (s.doLayw fields).asc = s.asc ∧ (s.doLayw fields).ceu = s.ceu ∧ (s.doLayw fields).phc = s.phc ∧
    (s.doLayw fields).tga = s.tga ∧ (s.doLayw fields).vdr = s.vdr ∧ (s.doLayw fields).lfs = s.lfs ∧
    (s.doLayw fields).fmg = s.fmg ∧ (s.doLayw fields).trb = s.trb ∧ (s.doLayw fields).cst = s.cst ∧
    (s.doLayw fields).freeCount = s.freeCount := by
  unfold State.doLayw
  all_goals (try dsimp only)
  all_goals ((repeat' split) <;> simp -implicitDefEqProofs)

@[simp] theorem State.doLayr_keeps (s : State) (fields : List Field) :
    (s.doLayr fields).pending = s.pending ∧ (s.doLayr fields).now = s.now ∧
    (s.doLayr fields).handovers = s.handovers ∧ (s.doLayr fields).smc = s.smc ∧ (s.doLayr fields).tbm = s.tbm ∧
    (s.doLayr fields).ckt = s.ckt ∧ (s.doLayr fields).asc = s.asc ∧ (s.doLayr fields).ceu = s.ceu ∧
    (s.doLayr fields).phc = s.phc ∧ (s.doLayr fields).tga = s.tga ∧ (s.doLayr fields).vdr = s.vdr ∧
    (s.doLayr fields).lfs = s.lfs ∧ (s.doLayr fields).fmg = s.fmg ∧ (s.doLayr fields).trb = s.trb ∧
    (s.doLayr fields).cst = s.cst ∧ (s.doLayr fields).freeCount = s.freeCount := by
  unfold State.doLayr
  all_goals (try dsimp only)
  all_goals ((repeat' split) <;> simp -implicitDefEqProofs)

@[simp] theorem State.doTunw_keeps (s : State) (fields : List Field) :
    (s.doTunw fields).pending = s.pending ∧ (s.doTunw fields).now = s.now ∧
    (s.doTunw fields).handovers = s.handovers ∧ (s.doTunw fields).smc = s.smc ∧ (s.doTunw fields).ckt = s.ckt ∧
    (s.doTunw fields).asc = s.asc ∧ (s.doTunw fields).ceu = s.ceu ∧ (s.doTunw fields).phc = s.phc ∧
    (s.doTunw fields).tga = s.tga ∧ (s.doTunw fields).vdr = s.vdr ∧ (s.doTunw fields).lfs = s.lfs ∧
    (s.doTunw fields).fmg = s.fmg ∧ (s.doTunw fields).trb = s.trb ∧ (s.doTunw fields).cst = s.cst ∧
    (s.doTunw fields).freeCount = s.freeCount := by
  unfold State.doTunw
  all_goals (try dsimp only)
  all_goals ((repeat' split) <;> simp -implicitDefEqProofs)

@[simp] theorem State.doTunr_keeps (s : State) (fields : List Field) :
    (s.doTunr fields).pending = s.pending ∧ (s.doTunr fields).now = s.now ∧
    (s.doTunr fields).handovers = s.handovers ∧ (s.doTunr fields).smc = s.smc ∧ (s.doTunr fields).tbm = s.tbm ∧
    (s.doTunr fields).ckt = s.ckt ∧ (s.doTunr fields).asc = s.asc ∧ (s.doTunr fields).ceu = s.ceu ∧
    (s.doTunr fields).phc = s.phc ∧ (s.doTunr fields).tga = s.tga ∧ (s.doTunr fields).vdr = s.vdr ∧
    (s.doTunr fields).lfs = s.lfs ∧ (s.doTunr fields).fmg = s.fmg ∧ (s.doTunr fields).trb = s.trb ∧
    (s.doTunr fields).cst = s.cst ∧ (s.doTunr fields).freeCount = s.freeCount := by
  unfold State.doTunr
  all_goals (try dsimp only)
  all_goals ((repeat' split) <;> simp -implicitDefEqProofs)

@[simp] theorem State.doMapw_keeps (s : State) (fields : List Field) :
    (s.doMapw fields).pending = s.pending ∧ (s.doMapw fields).now = s.now ∧
    (s.doMapw fields).handovers = s.handovers ∧ (s.doMapw fields).smc = s.smc ∧ (s.doMapw fields).ckt = s.ckt ∧
    (s.doMapw fields).asc = s.asc ∧ (s.doMapw fields).ceu = s.ceu ∧ (s.doMapw fields).phc = s.phc ∧
    (s.doMapw fields).tga = s.tga ∧ (s.doMapw fields).vdr = s.vdr ∧ (s.doMapw fields).lfs = s.lfs ∧
    (s.doMapw fields).fmg = s.fmg ∧ (s.doMapw fields).trb = s.trb ∧ (s.doMapw fields).cst = s.cst ∧
    (s.doMapw fields).freeCount = s.freeCount := by
  unfold State.doMapw
  all_goals (try dsimp only)
  all_goals ((repeat' split) <;> simp -implicitDefEqProofs)

@[simp] theorem State.doMapr_keeps (s : State) (fields : List Field) :
    (s.doMapr fields).pending = s.pending ∧ (s.doMapr fields).now = s.now ∧
    (s.doMapr fields).handovers = s.handovers ∧ (s.doMapr fields).smc = s.smc ∧ (s.doMapr fields).tbm = s.tbm ∧
    (s.doMapr fields).ckt = s.ckt ∧ (s.doMapr fields).asc = s.asc ∧ (s.doMapr fields).ceu = s.ceu ∧
    (s.doMapr fields).phc = s.phc ∧ (s.doMapr fields).tga = s.tga ∧ (s.doMapr fields).vdr = s.vdr ∧
    (s.doMapr fields).lfs = s.lfs ∧ (s.doMapr fields).fmg = s.fmg ∧ (s.doMapr fields).trb = s.trb ∧
    (s.doMapr fields).cst = s.cst ∧ (s.doMapr fields).freeCount = s.freeCount := by
  unfold State.doMapr
  all_goals (try dsimp only)
  all_goals ((repeat' split) <;> simp -implicitDefEqProofs)

@[simp] theorem State.fireDue_keeps (s : State) (clock hold : Nat) :
    (s.fireDue clock hold).pending = s.pending ∧ (s.fireDue clock hold).now = s.now ∧
    (s.fireDue clock hold).smc = s.smc ∧ (s.fireDue clock hold).clp = s.clp ∧ (s.fireDue clock hold).tbm = s.tbm ∧
    (s.fireDue clock hold).ckt = s.ckt ∧ (s.fireDue clock hold).ceu = s.ceu ∧ (s.fireDue clock hold).phc = s.phc ∧
    (s.fireDue clock hold).tga = s.tga ∧ (s.fireDue clock hold).vdr = s.vdr ∧ (s.fireDue clock hold).lfs = s.lfs ∧
    (s.fireDue clock hold).fmg = s.fmg ∧ (s.fireDue clock hold).trb = s.trb ∧ (s.fireDue clock hold).cst = s.cst ∧
    (s.fireDue clock hold).freeCount = s.freeCount := by
  unfold State.fireDue
  all_goals (try dsimp only)
  all_goals ((repeat' split) <;> simp -implicitDefEqProofs)

@[simp] theorem State.fireCycleStart_keeps (s : State) :
    s.fireCycleStart.pending = s.pending ∧ s.fireCycleStart.now = s.now ∧ s.fireCycleStart.smc = s.smc ∧
    s.fireCycleStart.clp = s.clp ∧ s.fireCycleStart.tbm = s.tbm ∧ s.fireCycleStart.ckt = s.ckt ∧
    s.fireCycleStart.ceu = s.ceu ∧ s.fireCycleStart.phc = s.phc ∧ s.fireCycleStart.tga = s.tga ∧
    s.fireCycleStart.vdr = s.vdr ∧ s.fireCycleStart.lfs = s.lfs ∧ s.fireCycleStart.fmg = s.fmg ∧
    s.fireCycleStart.trb = s.trb ∧ s.fireCycleStart.cst = s.cst ∧ s.fireCycleStart.freeCount = s.freeCount := by
  unfold State.fireCycleStart
  all_goals (try dsimp only)
  all_goals ((repeat' split) <;> simp -implicitDefEqProofs)

@[simp] theorem State.moveClock_keeps (s : State) (c n : Nat) (new : AngleClock) :
    (s.moveClock c n new).pending = s.pending ∧ (s.moveClock c n new).now = s.now ∧
    (s.moveClock c n new).handovers = s.handovers ∧ (s.moveClock c n new).smc = s.smc ∧
    (s.moveClock c n new).clp = s.clp ∧ (s.moveClock c n new).tbm = s.tbm ∧ (s.moveClock c n new).asc = s.asc ∧
    (s.moveClock c n new).ceu = s.ceu ∧ (s.moveClock c n new).phc = s.phc ∧ (s.moveClock c n new).tga = s.tga ∧
    (s.moveClock c n new).vdr = s.vdr ∧ (s.moveClock c n new).lfs = s.lfs ∧ (s.moveClock c n new).fmg = s.fmg ∧
    (s.moveClock c n new).trb = s.trb ∧ (s.moveClock c n new).cst = s.cst ∧
    (s.moveClock c n new).freeCount = s.freeCount := by
  unfold State.moveClock
  all_goals (try dsimp only)
  all_goals ((repeat' split) <;> simp -implicitDefEqProofs)

@[simp] theorem State.countCycle_keeps (s : State) :
    s.countCycle.pending = s.pending ∧ s.countCycle.now = s.now ∧ s.countCycle.handovers = s.handovers ∧
    s.countCycle.smc = s.smc ∧ s.countCycle.clp = s.clp ∧ s.countCycle.tbm = s.tbm ∧ s.countCycle.asc = s.asc ∧
    s.countCycle.ceu = s.ceu ∧ s.countCycle.phc = s.phc ∧ s.countCycle.tga = s.tga ∧ s.countCycle.vdr = s.vdr ∧
    s.countCycle.lfs = s.lfs ∧ s.countCycle.fmg = s.fmg ∧ s.countCycle.trb = s.trb ∧ s.countCycle.cst = s.cst ∧
    s.countCycle.freeCount = s.freeCount := by
  unfold State.countCycle
  all_goals (try dsimp only)
  all_goals ((repeat' split) <;> simp -implicitDefEqProofs)

@[simp] theorem State.advance_keeps (s : State) (c n : Nat) (new : AngleClock) (hold : Nat) :
    (s.advance c n new hold).pending = s.pending ∧ (s.advance c n new hold).now = s.now ∧
    (s.advance c n new hold).smc = s.smc ∧ (s.advance c n new hold).clp = s.clp ∧
    (s.advance c n new hold).tbm = s.tbm ∧ (s.advance c n new hold).ceu = s.ceu ∧
    (s.advance c n new hold).phc = s.phc ∧ (s.advance c n new hold).tga = s.tga ∧
    (s.advance c n new hold).vdr = s.vdr ∧ (s.advance c n new hold).lfs = s.lfs ∧
    (s.advance c n new hold).fmg = s.fmg ∧ (s.advance c n new hold).trb = s.trb ∧
    (s.advance c n new hold).cst = s.cst ∧ (s.advance c n new hold).freeCount = s.freeCount := by
  unfold State.advance
  all_goals (try dsimp only)
  all_goals ((repeat' split) <;> simp -implicitDefEqProofs)

@[simp] theorem State.buildList_keeps (s : State) :
    s.buildList.pending = s.pending ∧ s.buildList.now = s.now ∧ s.buildList.handovers = s.handovers ∧
    s.buildList.smc = s.smc ∧ s.buildList.clp = s.clp ∧ s.buildList.tbm = s.tbm ∧ s.buildList.ckt = s.ckt ∧
    s.buildList.ceu = s.ceu ∧ s.buildList.phc = s.phc ∧ s.buildList.tga = s.tga ∧ s.buildList.vdr = s.vdr ∧
    s.buildList.lfs = s.lfs ∧ s.buildList.fmg = s.fmg ∧ s.buildList.trb = s.trb ∧ s.buildList.cst = s.cst ∧
    s.buildList.freeCount = s.freeCount := by
  unfold State.buildList
  all_goals (try dsimp only)
  all_goals ((repeat' split) <;> simp -implicitDefEqProofs)

@[simp] theorem State.emptyList_keeps (s : State) :
    s.emptyList.pending = s.pending ∧ s.emptyList.now = s.now ∧ s.emptyList.handovers = s.handovers ∧
    s.emptyList.smc = s.smc ∧ s.emptyList.clp = s.clp ∧ s.emptyList.tbm = s.tbm ∧ s.emptyList.ckt = s.ckt ∧
    s.emptyList.ceu = s.ceu ∧ s.emptyList.phc = s.phc ∧ s.emptyList.tga = s.tga ∧ s.emptyList.vdr = s.vdr ∧
    s.emptyList.lfs = s.lfs ∧ s.emptyList.fmg = s.fmg ∧ s.emptyList.trb = s.trb ∧ s.emptyList.cst = s.cst ∧
    s.emptyList.freeCount = s.freeCount := by
  unfold State.emptyList
  all_goals (try dsimp only)
  all_goals ((repeat' split) <;> simp -implicitDefEqProofs)

@[simp] theorem State.notifyStart_keeps (s : State) :
    s.notifyStart.pending = s.pending ∧ s.notifyStart.now = s.now ∧ s.notifyStart.smc = s.smc ∧
    s.notifyStart.clp = s.clp ∧ s.notifyStart.tbm = s.tbm ∧ s.notifyStart.ckt = s.ckt ∧ s.notifyStart.asc = s.asc ∧
    s.notifyStart.ceu = s.ceu ∧ s.notifyStart.phc = s.phc ∧ s.notifyStart.tga = s.tga ∧ s.notifyStart.vdr = s.vdr ∧
    s.notifyStart.lfs = s.lfs ∧ s.notifyStart.fmg = s.fmg ∧ s.notifyStart.trb = s.trb ∧ s.notifyStart.cst = s.cst ∧
    s.notifyStart.freeCount = s.freeCount := by
  unfold State.notifyStart
  all_goals (try dsimp only)
  all_goals ((repeat' split) <;> simp -implicitDefEqProofs)

@[simp] theorem State.notifyLockGained_keeps (s : State) :
    s.notifyLockGained.pending = s.pending ∧ s.notifyLockGained.now = s.now ∧ s.notifyLockGained.smc = s.smc ∧
    s.notifyLockGained.clp = s.clp ∧ s.notifyLockGained.tbm = s.tbm ∧ s.notifyLockGained.ckt = s.ckt ∧
    s.notifyLockGained.asc = s.asc ∧ s.notifyLockGained.ceu = s.ceu ∧ s.notifyLockGained.phc = s.phc ∧
    s.notifyLockGained.tga = s.tga ∧ s.notifyLockGained.vdr = s.vdr ∧ s.notifyLockGained.lfs = s.lfs ∧
    s.notifyLockGained.fmg = s.fmg ∧ s.notifyLockGained.trb = s.trb ∧ s.notifyLockGained.cst = s.cst ∧
    s.notifyLockGained.freeCount = s.freeCount := by
  unfold State.notifyLockGained
  all_goals (try dsimp only)
  all_goals ((repeat' split) <;> simp -implicitDefEqProofs)

@[simp] theorem State.notifyLockLost_keeps (s : State) :
    s.notifyLockLost.pending = s.pending ∧ s.notifyLockLost.now = s.now ∧ s.notifyLockLost.smc = s.smc ∧
    s.notifyLockLost.clp = s.clp ∧ s.notifyLockLost.tbm = s.tbm ∧ s.notifyLockLost.ckt = s.ckt ∧
    s.notifyLockLost.asc = s.asc ∧ s.notifyLockLost.ceu = s.ceu ∧ s.notifyLockLost.phc = s.phc ∧
    s.notifyLockLost.tga = s.tga ∧ s.notifyLockLost.vdr = s.vdr ∧ s.notifyLockLost.lfs = s.lfs ∧
    s.notifyLockLost.fmg = s.fmg ∧ s.notifyLockLost.trb = s.trb ∧ s.notifyLockLost.cst = s.cst ∧
    s.notifyLockLost.freeCount = s.freeCount := by
  unfold State.notifyLockLost
  all_goals (try dsimp only)
  all_goals ((repeat' split) <;> simp -implicitDefEqProofs)

@[simp] theorem State.synNotice_keeps (s : State) (old : CrankState) (cause : SynCause) :
    (s.synNotice old cause).pending = s.pending ∧ (s.synNotice old cause).now = s.now ∧
    (s.synNotice old cause).smc = s.smc ∧ (s.synNotice old cause).clp = s.clp ∧ (s.synNotice old cause).tbm = s.tbm ∧
    (s.synNotice old cause).ckt = s.ckt ∧ (s.synNotice old cause).asc = s.asc ∧ (s.synNotice old cause).ceu = s.ceu ∧
    (s.synNotice old cause).phc = s.phc ∧ (s.synNotice old cause).tga = s.tga ∧ (s.synNotice old cause).vdr = s.vdr ∧
    (s.synNotice old cause).lfs = s.lfs ∧ (s.synNotice old cause).fmg = s.fmg ∧ (s.synNotice old cause).trb = s.trb ∧
    (s.synNotice old cause).cst = s.cst ∧ (s.synNotice old cause).freeCount = s.freeCount := by
  unfold State.synNotice
  all_goals (try dsimp only)
  all_goals ((repeat' split) <;> simp -implicitDefEqProofs)

@[simp] theorem State.dropClock_keeps (s : State) :
    s.dropClock.pending = s.pending ∧ s.dropClock.now = s.now ∧
    s.dropClock.handovers = s.handovers.filter (fun h => (wantReferenceReport h).isNone) ∧
    s.dropClock.smc = s.smc ∧ s.dropClock.clp = s.clp ∧ s.dropClock.tbm = s.tbm ∧ s.dropClock.asc = s.asc ∧
    s.dropClock.phc = s.phc ∧ s.dropClock.tga = s.tga ∧ s.dropClock.vdr = s.vdr ∧ s.dropClock.lfs = s.lfs ∧
    s.dropClock.fmg = s.fmg ∧ s.dropClock.trb = s.trb ∧ s.dropClock.cst = s.cst ∧ s.dropClock.freeCount = s.freeCount := by
  unfold State.dropClock
  all_goals (try dsimp only)
  all_goals ((repeat' split) <;> simp -implicitDefEqProofs)

@[simp] theorem State.reportMissing_keeps (s : State) (kind : ReportKind) :
    (s.reportMissing kind).pending = s.pending ∧ (s.reportMissing kind).now = s.now ∧
    (s.reportMissing kind).smc = s.smc ∧ (s.reportMissing kind).clp = s.clp ∧ (s.reportMissing kind).tbm = s.tbm ∧
    (s.reportMissing kind).ckt = s.ckt ∧ (s.reportMissing kind).asc = s.asc ∧ (s.reportMissing kind).ceu = s.ceu ∧
    (s.reportMissing kind).phc = s.phc ∧ (s.reportMissing kind).tga = s.tga ∧ (s.reportMissing kind).vdr = s.vdr ∧
    (s.reportMissing kind).lfs = s.lfs ∧ (s.reportMissing kind).fmg = s.fmg ∧ (s.reportMissing kind).trb = s.trb ∧
    (s.reportMissing kind).cst = s.cst ∧ (s.reportMissing kind).freeCount = s.freeCount := by
  unfold State.reportMissing
  all_goals (try dsimp only)
  all_goals ((repeat' split) <;> simp -implicitDefEqProofs)

@[simp] theorem State.seenAgain_keeps (s : State) (seen : Bool) :
    (s.seenAgain seen).pending = s.pending ∧ (s.seenAgain seen).now = s.now ∧ (s.seenAgain seen).smc = s.smc ∧
    (s.seenAgain seen).clp = s.clp ∧ (s.seenAgain seen).tbm = s.tbm ∧ (s.seenAgain seen).asc = s.asc ∧
    (s.seenAgain seen).ceu = s.ceu ∧ (s.seenAgain seen).phc = s.phc ∧ (s.seenAgain seen).tga = s.tga ∧
    (s.seenAgain seen).vdr = s.vdr ∧ (s.seenAgain seen).lfs = s.lfs ∧ (s.seenAgain seen).fmg = s.fmg ∧
    (s.seenAgain seen).trb = s.trb ∧ (s.seenAgain seen).cst = s.cst ∧ (s.seenAgain seen).freeCount = s.freeCount := by
  unfold State.seenAgain
  all_goals (try dsimp only)
  all_goals ((repeat' split) <;> simp -implicitDefEqProofs)

@[simp] theorem State.countNotSeen_keeps (s : State) (seen : Bool) :
    (s.countNotSeen seen).pending = s.pending ∧ (s.countNotSeen seen).now = s.now ∧
    (s.countNotSeen seen).smc = s.smc ∧ (s.countNotSeen seen).clp = s.clp ∧ (s.countNotSeen seen).tbm = s.tbm ∧
    (s.countNotSeen seen).asc = s.asc ∧ (s.countNotSeen seen).ceu = s.ceu ∧ (s.countNotSeen seen).phc = s.phc ∧
    (s.countNotSeen seen).tga = s.tga ∧ (s.countNotSeen seen).vdr = s.vdr ∧ (s.countNotSeen seen).lfs = s.lfs ∧
    (s.countNotSeen seen).fmg = s.fmg ∧ (s.countNotSeen seen).trb = s.trb ∧ (s.countNotSeen seen).cst = s.cst ∧
    (s.countNotSeen seen).freeCount = s.freeCount := by
  unfold State.countNotSeen
  all_goals (try dsimp only)
  all_goals ((repeat' split) <;> simp -implicitDefEqProofs)

@[simp] theorem State.enterCycleLocked_keeps (s : State) (second : Bool) :
    (s.enterCycleLocked second).pending = s.pending ∧ (s.enterCycleLocked second).now = s.now ∧
    (s.enterCycleLocked second).smc = s.smc ∧ (s.enterCycleLocked second).clp = s.clp ∧
    (s.enterCycleLocked second).tbm = s.tbm ∧ (s.enterCycleLocked second).asc = s.asc ∧
    (s.enterCycleLocked second).ceu = s.ceu ∧ (s.enterCycleLocked second).phc = s.phc ∧
    (s.enterCycleLocked second).tga = s.tga ∧ (s.enterCycleLocked second).vdr = s.vdr ∧
    (s.enterCycleLocked second).lfs = s.lfs ∧ (s.enterCycleLocked second).fmg = s.fmg ∧
    (s.enterCycleLocked second).trb = s.trb ∧ (s.enterCycleLocked second).cst = s.cst ∧
    (s.enterCycleLocked second).freeCount = s.freeCount := by
  unfold State.enterCycleLocked
  all_goals (try dsimp only)
  all_goals ((repeat' split) <;> simp -implicitDefEqProofs)

@[simp] theorem State.crankReport_keeps (s : State) (seen home on : Bool) :
    (s.crankReport seen home on).pending = s.pending ∧ (s.crankReport seen home on).now = s.now ∧
    (s.crankReport seen home on).smc = s.smc ∧ (s.crankReport seen home on).clp = s.clp ∧
    (s.crankReport seen home on).tbm = s.tbm ∧ (s.crankReport seen home on).asc = s.asc ∧
    (s.crankReport seen home on).ceu = s.ceu ∧ (s.crankReport seen home on).phc = s.phc ∧
    (s.crankReport seen home on).tga = s.tga ∧ (s.crankReport seen home on).vdr = s.vdr ∧
    (s.crankReport seen home on).lfs = s.lfs ∧ (s.crankReport seen home on).fmg = s.fmg ∧
    (s.crankReport seen home on).trb = s.trb ∧ (s.crankReport seen home on).cst = s.cst ∧
    (s.crankReport seen home on).freeCount = s.freeCount := by
  unfold State.crankReport
  all_goals (try dsimp only)
  all_goals ((repeat' split) <;> simp -implicitDefEqProofs)

@[simp] theorem State.halfSlip_keeps (s : State) :
    s.halfSlip.pending = s.pending ∧ s.halfSlip.now = s.now ∧ s.halfSlip.smc = s.smc ∧ s.halfSlip.clp = s.clp ∧
    s.halfSlip.tbm = s.tbm ∧ s.halfSlip.asc = s.asc ∧ s.halfSlip.ceu = s.ceu ∧ s.halfSlip.phc = s.phc ∧
    s.halfSlip.tga = s.tga ∧ s.halfSlip.vdr = s.vdr ∧ s.halfSlip.lfs = s.lfs ∧ s.halfSlip.fmg = s.fmg ∧
    s.halfSlip.trb = s.trb ∧ s.halfSlip.cst = s.cst ∧ s.halfSlip.freeCount = s.freeCount := by
  unfold State.halfSlip
  all_goals (try dsimp only)
  all_goals ((repeat' split) <;> simp -implicitDefEqProofs)

@[simp] theorem State.cycleReport_keeps (s : State) (seen home on : Bool) :
    (s.cycleReport seen home on).pending = s.pending ∧ (s.cycleReport seen home on).now = s.now ∧
    (s.cycleReport seen home on).smc = s.smc ∧ (s.cycleReport seen home on).clp = s.clp ∧
    (s.cycleReport seen home on).tbm = s.tbm ∧ (s.cycleReport seen home on).asc = s.asc ∧
    (s.cycleReport seen home on).ceu = s.ceu ∧ (s.cycleReport seen home on).phc = s.phc ∧
    (s.cycleReport seen home on).tga = s.tga ∧ (s.cycleReport seen home on).vdr = s.vdr ∧
    (s.cycleReport seen home on).lfs = s.lfs ∧ (s.cycleReport seen home on).fmg = s.fmg ∧
    (s.cycleReport seen home on).trb = s.trb ∧ (s.cycleReport seen home on).cst = s.cst ∧
    (s.cycleReport seen home on).freeCount = s.freeCount := by
  unfold State.cycleReport
  all_goals (try dsimp only)
  all_goals ((repeat' split) <;> simp -implicitDefEqProofs)

@[simp] theorem State.takeReport_keeps (s : State) (seen lap : Bool) :
    (s.takeReport seen lap).pending = s.pending ∧ (s.takeReport seen lap).now = s.now ∧
    (s.takeReport seen lap).smc = s.smc ∧ (s.takeReport seen lap).clp = s.clp ∧ (s.takeReport seen lap).tbm = s.tbm ∧
    (s.takeReport seen lap).asc = s.asc ∧ (s.takeReport seen lap).ceu = s.ceu ∧ (s.takeReport seen lap).phc = s.phc ∧
    (s.takeReport seen lap).tga = s.tga ∧ (s.takeReport seen lap).vdr = s.vdr ∧ (s.takeReport seen lap).lfs = s.lfs ∧
    (s.takeReport seen lap).fmg = s.fmg ∧ (s.takeReport seen lap).trb = s.trb ∧ (s.takeReport seen lap).cst = s.cst ∧
    (s.takeReport seen lap).freeCount = s.freeCount := by
  unfold State.takeReport
  all_goals (try dsimp only)
  all_goals ((repeat' split) <;> simp -implicitDefEqProofs)

@[simp] theorem State.passAngles_keeps (s : State) (c n : Nat) (new : AngleClock) (hold : Nat) :
    (s.passAngles c n new hold).pending = s.pending ∧ (s.passAngles c n new hold).now = s.now ∧
    (s.passAngles c n new hold).smc = s.smc ∧ (s.passAngles c n new hold).clp = s.clp ∧
    (s.passAngles c n new hold).tbm = s.tbm ∧ (s.passAngles c n new hold).phc = s.phc ∧
    (s.passAngles c n new hold).tga = s.tga ∧ (s.passAngles c n new hold).vdr = s.vdr ∧
    (s.passAngles c n new hold).lfs = s.lfs ∧ (s.passAngles c n new hold).fmg = s.fmg ∧
    (s.passAngles c n new hold).trb = s.trb ∧ (s.passAngles c n new hold).cst = s.cst ∧
    (s.passAngles c n new hold).freeCount = s.freeCount := by
  unfold State.passAngles
  all_goals (try dsimp only)
  all_goals ((repeat' split) <;> simp -implicitDefEqProofs)

@[simp] theorem State.run_keeps (s : State) (n hold : Nat) :
    (s.run n hold).pending = s.pending ∧ (s.run n hold).now = s.now ∧ (s.run n hold).smc = s.smc ∧
    (s.run n hold).clp = s.clp ∧ (s.run n hold).tbm = s.tbm ∧ (s.run n hold).phc = s.phc ∧
    (s.run n hold).tga = s.tga ∧ (s.run n hold).vdr = s.vdr ∧ (s.run n hold).lfs = s.lfs ∧
    (s.run n hold).fmg = s.fmg ∧ (s.run n hold).trb = s.trb ∧ (s.run n hold).cst = s.cst ∧
    (s.run n hold).freeCount = s.freeCount := by
  unfold State.run
  all_goals (try dsimp only)
  all_goals ((repeat' split) <;> simp -implicitDefEqProofs)

@[simp] theorem State.runAngles_keeps (s : State) (n hold : Nat) :
    (s.runAngles n hold).pending = s.pending ∧ (s.runAngles n hold).now = s.now ∧ (s.runAngles n hold).smc = s.smc ∧
    (s.runAngles n hold).clp = s.clp ∧ (s.runAngles n hold).tbm = s.tbm ∧ (s.runAngles n hold).phc = s.phc ∧
    (s.runAngles n hold).tga = s.tga ∧ (s.runAngles n hold).vdr = s.vdr ∧ (s.runAngles n hold).lfs = s.lfs ∧
    (s.runAngles n hold).fmg = s.fmg ∧ (s.runAngles n hold).trb = s.trb ∧ (s.runAngles n hold).cst = s.cst ∧
    (s.runAngles n hold).freeCount = s.freeCount := by
  unfold State.runAngles
  all_goals (try dsimp only)
  all_goals ((repeat' split) <;> simp -implicitDefEqProofs)

@[simp] theorem State.discardEdge_keeps (s : State) :
    s.discardEdge.pending = s.pending ∧ s.discardEdge.now = s.now ∧ s.discardEdge.smc = s.smc ∧
    s.discardEdge.clp = s.clp ∧ s.discardEdge.tbm = s.tbm ∧ s.discardEdge.asc = s.asc ∧ s.discardEdge.ceu = s.ceu ∧
    s.discardEdge.phc = s.phc ∧ s.discardEdge.tga = s.tga ∧ s.discardEdge.vdr = s.vdr ∧ s.discardEdge.lfs = s.lfs ∧
    s.discardEdge.fmg = s.fmg ∧ s.discardEdge.trb = s.trb ∧ s.discardEdge.cst = s.cst ∧
    s.discardEdge.freeCount = s.freeCount := by
  unfold State.discardEdge
  all_goals (try dsimp only)
  all_goals ((repeat' split) <;> simp -implicitDefEqProofs)

@[simp] theorem State.gapNoise_keeps (s : State) :
    s.gapNoise.pending = s.pending ∧ s.gapNoise.now = s.now ∧ s.gapNoise.smc = s.smc ∧ s.gapNoise.clp = s.clp ∧
    s.gapNoise.tbm = s.tbm ∧ s.gapNoise.asc = s.asc ∧ s.gapNoise.ceu = s.ceu ∧ s.gapNoise.phc = s.phc ∧
    s.gapNoise.tga = s.tga ∧ s.gapNoise.vdr = s.vdr ∧ s.gapNoise.lfs = s.lfs ∧ s.gapNoise.fmg = s.fmg ∧
    s.gapNoise.trb = s.trb ∧ s.gapNoise.cst = s.cst ∧ s.gapNoise.freeCount = s.freeCount := by
  unfold State.gapNoise
  all_goals (try dsimp only)
  all_goals ((repeat' split) <;> simp -implicitDefEqProofs)

@[simp] theorem State.enterSeeking_keeps (s : State) :
    s.enterSeeking.pending = s.pending ∧ s.enterSeeking.now = s.now ∧ s.enterSeeking.smc = s.smc ∧
    s.enterSeeking.clp = s.clp ∧ s.enterSeeking.tbm = s.tbm ∧ s.enterSeeking.asc = s.asc ∧
    s.enterSeeking.ceu = s.ceu ∧ s.enterSeeking.phc = s.phc ∧ s.enterSeeking.tga = s.tga ∧
    s.enterSeeking.vdr = s.vdr ∧ s.enterSeeking.lfs = s.lfs ∧ s.enterSeeking.fmg = s.fmg ∧
    s.enterSeeking.trb = s.trb ∧ s.enterSeeking.cst = s.cst ∧ s.enterSeeking.freeCount = s.freeCount := by
  unfold State.enterSeeking
  all_goals (try dsimp only)
  all_goals ((repeat' split) <;> simp -implicitDefEqProofs)

@[simp] theorem State.enterCrankLocked_keeps (s : State) (w : Wheel) (t : Word32) :
    (s.enterCrankLocked w t).pending = s.pending ∧ (s.enterCrankLocked w t).now = s.now ∧
    (s.enterCrankLocked w t).smc = s.smc ∧ (s.enterCrankLocked w t).clp = s.clp ∧
    (s.enterCrankLocked w t).tbm = s.tbm ∧ (s.enterCrankLocked w t).asc = s.asc ∧
    (s.enterCrankLocked w t).ceu = s.ceu ∧ (s.enterCrankLocked w t).phc = s.phc ∧
    (s.enterCrankLocked w t).tga = s.tga ∧ (s.enterCrankLocked w t).vdr = s.vdr ∧
    (s.enterCrankLocked w t).lfs = s.lfs ∧ (s.enterCrankLocked w t).fmg = s.fmg ∧
    (s.enterCrankLocked w t).trb = s.trb ∧ (s.enterCrankLocked w t).cst = s.cst ∧
    (s.enterCrankLocked w t).freeCount = s.freeCount := by
  unfold State.enterCrankLocked
  all_goals (try dsimp only)
  all_goals ((repeat' split) <;> simp -implicitDefEqProofs)

@[simp] theorem State.seekingEdge_keeps (s : State) (w : Wheel) (t : Word32) (gap : Bool) :
    (s.seekingEdge w t gap).pending = s.pending ∧ (s.seekingEdge w t gap).now = s.now ∧
    (s.seekingEdge w t gap).smc = s.smc ∧ (s.seekingEdge w t gap).clp = s.clp ∧ (s.seekingEdge w t gap).tbm = s.tbm ∧
    (s.seekingEdge w t gap).asc = s.asc ∧ (s.seekingEdge w t gap).ceu = s.ceu ∧ (s.seekingEdge w t gap).phc = s.phc ∧
    (s.seekingEdge w t gap).tga = s.tga ∧ (s.seekingEdge w t gap).vdr = s.vdr ∧ (s.seekingEdge w t gap).lfs = s.lfs ∧
    (s.seekingEdge w t gap).fmg = s.fmg ∧ (s.seekingEdge w t gap).trb = s.trb ∧ (s.seekingEdge w t gap).cst = s.cst ∧
    (s.seekingEdge w t gap).freeCount = s.freeCount := by
  unfold State.seekingEdge
  all_goals (try dsimp only)
  all_goals ((repeat' split) <;> simp -implicitDefEqProofs)

@[simp] theorem State.wrongCount_keeps (s : State) (t : Word32) (gap : Bool) :
    (s.wrongCount t gap).pending = s.pending ∧ (s.wrongCount t gap).now = s.now ∧ (s.wrongCount t gap).smc = s.smc ∧
    (s.wrongCount t gap).clp = s.clp ∧ (s.wrongCount t gap).tbm = s.tbm ∧ (s.wrongCount t gap).asc = s.asc ∧
    (s.wrongCount t gap).phc = s.phc ∧ (s.wrongCount t gap).tga = s.tga ∧ (s.wrongCount t gap).vdr = s.vdr ∧
    (s.wrongCount t gap).lfs = s.lfs ∧ (s.wrongCount t gap).fmg = s.fmg ∧ (s.wrongCount t gap).trb = s.trb ∧
    (s.wrongCount t gap).cst = s.cst ∧ (s.wrongCount t gap).freeCount = s.freeCount := by
  unfold State.wrongCount
  all_goals (try dsimp only)
  all_goals ((repeat' split) <;> simp -implicitDefEqProofs)

@[simp] theorem State.clockToTooth_keeps (s : State) (w : Wheel) (n : Nat) (t : Word32) (hold : Nat) :
    (s.clockToTooth w n t hold).pending = s.pending ∧ (s.clockToTooth w n t hold).now = s.now ∧
    (s.clockToTooth w n t hold).smc = s.smc ∧ (s.clockToTooth w n t hold).clp = s.clp ∧
    (s.clockToTooth w n t hold).tbm = s.tbm ∧ (s.clockToTooth w n t hold).phc = s.phc ∧
    (s.clockToTooth w n t hold).tga = s.tga ∧ (s.clockToTooth w n t hold).vdr = s.vdr ∧
    (s.clockToTooth w n t hold).lfs = s.lfs ∧ (s.clockToTooth w n t hold).fmg = s.fmg ∧
    (s.clockToTooth w n t hold).trb = s.trb ∧ (s.clockToTooth w n t hold).cst = s.cst ∧
    (s.clockToTooth w n t hold).freeCount = s.freeCount := by
  unfold State.clockToTooth
  all_goals (try dsimp only)
  all_goals ((repeat' split) <;> simp -implicitDefEqProofs)

@[simp] theorem State.lockedEdge_keeps (s : State) (w : Wheel) (t : Word32) (gap : Bool) (hold : Nat) :
    (s.lockedEdge w t gap hold).pending = s.pending ∧ (s.lockedEdge w t gap hold).now = s.now ∧
    (s.lockedEdge w t gap hold).smc = s.smc ∧ (s.lockedEdge w t gap hold).clp = s.clp ∧
    (s.lockedEdge w t gap hold).tbm = s.tbm ∧ (s.lockedEdge w t gap hold).phc = s.phc ∧
    (s.lockedEdge w t gap hold).tga = s.tga ∧ (s.lockedEdge w t gap hold).vdr = s.vdr ∧
    (s.lockedEdge w t gap hold).lfs = s.lfs ∧ (s.lockedEdge w t gap hold).fmg = s.fmg ∧
    (s.lockedEdge w t gap hold).trb = s.trb ∧ (s.lockedEdge w t gap hold).cst = s.cst ∧
    (s.lockedEdge w t gap hold).freeCount = s.freeCount := by
  unfold State.lockedEdge
  all_goals (try dsimp only)
  all_goals ((repeat' split) <;> simp -implicitDefEqProofs)

@[simp] theorem State.acceptEdge_keeps (s : State) (w : Wheel) (interval : Option Word32) (hold : Nat) :
    (s.acceptEdge w interval hold).pending = s.pending ∧ (s.acceptEdge w interval hold).now = s.now ∧
    (s.acceptEdge w interval hold).smc = s.smc ∧ (s.acceptEdge w interval hold).clp = s.clp ∧
    (s.acceptEdge w interval hold).tbm = s.tbm ∧ (s.acceptEdge w interval hold).phc = s.phc ∧
    (s.acceptEdge w interval hold).tga = s.tga ∧ (s.acceptEdge w interval hold).vdr = s.vdr ∧
    (s.acceptEdge w interval hold).lfs = s.lfs ∧ (s.acceptEdge w interval hold).fmg = s.fmg ∧
    (s.acceptEdge w interval hold).trb = s.trb ∧ (s.acceptEdge w interval hold).cst = s.cst ∧
    (s.acceptEdge w interval hold).freeCount = s.freeCount := by
  unfold State.acceptEdge
  all_goals (try dsimp only)
  all_goals ((repeat' split) <;> simp -implicitDefEqProofs)

@[simp] theorem State.stallExpires_keeps (s : State) :
    s.stallExpires.pending = s.pending ∧ s.stallExpires.now = s.now ∧ s.stallExpires.smc = s.smc ∧
    s.stallExpires.clp = s.clp ∧ s.stallExpires.tbm = s.tbm ∧ s.stallExpires.asc = s.asc ∧
    s.stallExpires.phc = s.phc ∧ s.stallExpires.tga = s.tga ∧ s.stallExpires.vdr = s.vdr ∧
    s.stallExpires.lfs = s.lfs ∧ s.stallExpires.fmg = s.fmg ∧ s.stallExpires.trb = s.trb ∧
    s.stallExpires.cst = s.cst ∧ s.stallExpires.freeCount = s.freeCount := by
  unfold State.stallExpires
  all_goals (try dsimp only)
  all_goals ((repeat' split) <;> simp -implicitDefEqProofs)

@[simp] theorem State.look_keeps (s : State) (a : Nat) (p : Polarity) :
    (s.look a p).pending = s.pending ∧ (s.look a p).now = s.now ∧ (s.look a p).handovers = s.handovers ∧
    (s.look a p).smc = s.smc ∧ (s.look a p).clp = s.clp ∧ (s.look a p).tbm = s.tbm ∧ (s.look a p).ckt = s.ckt ∧
    (s.look a p).asc = s.asc ∧ (s.look a p).phc = s.phc ∧ (s.look a p).tga = s.tga ∧ (s.look a p).vdr = s.vdr ∧
    (s.look a p).lfs = s.lfs ∧ (s.look a p).fmg = s.fmg ∧ (s.look a p).trb = s.trb ∧ (s.look a p).cst = s.cst ∧
    (s.look a p).freeCount = s.freeCount := by
  unfold State.look
  all_goals (try dsimp only)
  all_goals ((repeat' split) <;> simp -implicitDefEqProofs)

@[simp] theorem State.takeMatch_keeps (s : State) (ch : Chan) (k : Nat) (phase : Int) (stamp : Word32) (rec : EdgeRecord) :
    (s.takeMatch ch k phase stamp rec).pending = s.pending ∧ (s.takeMatch ch k phase stamp rec).now = s.now ∧
    (s.takeMatch ch k phase stamp rec).smc = s.smc ∧ (s.takeMatch ch k phase stamp rec).clp = s.clp ∧
    (s.takeMatch ch k phase stamp rec).tbm = s.tbm ∧ (s.takeMatch ch k phase stamp rec).ckt = s.ckt ∧
    (s.takeMatch ch k phase stamp rec).asc = s.asc ∧ (s.takeMatch ch k phase stamp rec).phc = s.phc ∧
    (s.takeMatch ch k phase stamp rec).tga = s.tga ∧ (s.takeMatch ch k phase stamp rec).vdr = s.vdr ∧
    (s.takeMatch ch k phase stamp rec).lfs = s.lfs ∧ (s.takeMatch ch k phase stamp rec).fmg = s.fmg ∧
    (s.takeMatch ch k phase stamp rec).trb = s.trb ∧ (s.takeMatch ch k phase stamp rec).cst = s.cst ∧
    (s.takeMatch ch k phase stamp rec).freeCount = s.freeCount := by
  unfold State.takeMatch
  all_goals (try dsimp only)
  all_goals ((repeat' split) <;> simp -implicitDefEqProofs)

@[simp] theorem State.takeStray_keeps (s : State) (ch : Chan) (rec : EdgeRecord) :
    (s.takeStray ch rec).pending = s.pending ∧ (s.takeStray ch rec).now = s.now ∧ (s.takeStray ch rec).smc = s.smc ∧
    (s.takeStray ch rec).clp = s.clp ∧ (s.takeStray ch rec).tbm = s.tbm ∧ (s.takeStray ch rec).ckt = s.ckt ∧
    (s.takeStray ch rec).asc = s.asc ∧ (s.takeStray ch rec).phc = s.phc ∧ (s.takeStray ch rec).tga = s.tga ∧
    (s.takeStray ch rec).vdr = s.vdr ∧ (s.takeStray ch rec).lfs = s.lfs ∧ (s.takeStray ch rec).fmg = s.fmg ∧
    (s.takeStray ch rec).trb = s.trb ∧ (s.takeStray ch rec).cst = s.cst ∧ (s.takeStray ch rec).freeCount = s.freeCount := by
  unfold State.takeStray
  all_goals (try dsimp only)
  all_goals ((repeat' split) <;> simp -implicitDefEqProofs)

@[simp] theorem State.placeEdge_keeps (s : State) (ch : Chan) (i : LineABCD) (p : Polarity) (a : Nat) (stamp : Word32) :
    (s.placeEdge ch i p a stamp).pending = s.pending ∧ (s.placeEdge ch i p a stamp).now = s.now ∧
    (s.placeEdge ch i p a stamp).smc = s.smc ∧ (s.placeEdge ch i p a stamp).clp = s.clp ∧
    (s.placeEdge ch i p a stamp).tbm = s.tbm ∧ (s.placeEdge ch i p a stamp).ckt = s.ckt ∧
    (s.placeEdge ch i p a stamp).asc = s.asc ∧ (s.placeEdge ch i p a stamp).phc = s.phc ∧
    (s.placeEdge ch i p a stamp).tga = s.tga ∧ (s.placeEdge ch i p a stamp).vdr = s.vdr ∧
    (s.placeEdge ch i p a stamp).lfs = s.lfs ∧ (s.placeEdge ch i p a stamp).fmg = s.fmg ∧
    (s.placeEdge ch i p a stamp).trb = s.trb ∧ (s.placeEdge ch i p a stamp).cst = s.cst ∧
    (s.placeEdge ch i p a stamp).freeCount = s.freeCount := by
  unfold State.placeEdge
  all_goals (try dsimp only)
  all_goals ((repeat' split) <;> simp -implicitDefEqProofs)

@[simp] theorem State.takeCamEdge_keeps (s : State) (i : LineABCD) (p : Polarity) (stamp : Word32) :
    (s.takeCamEdge i p stamp).pending = s.pending ∧ (s.takeCamEdge i p stamp).now = s.now ∧
    (s.takeCamEdge i p stamp).smc = s.smc ∧ (s.takeCamEdge i p stamp).clp = s.clp ∧
    (s.takeCamEdge i p stamp).tbm = s.tbm ∧ (s.takeCamEdge i p stamp).ckt = s.ckt ∧
    (s.takeCamEdge i p stamp).asc = s.asc ∧ (s.takeCamEdge i p stamp).phc = s.phc ∧
    (s.takeCamEdge i p stamp).tga = s.tga ∧ (s.takeCamEdge i p stamp).vdr = s.vdr ∧
    (s.takeCamEdge i p stamp).lfs = s.lfs ∧ (s.takeCamEdge i p stamp).fmg = s.fmg ∧
    (s.takeCamEdge i p stamp).trb = s.trb ∧ (s.takeCamEdge i p stamp).cst = s.cst ∧
    (s.takeCamEdge i p stamp).freeCount = s.freeCount := by
  unfold State.takeCamEdge
  all_goals (try dsimp only)
  all_goals ((repeat' split) <;> simp -implicitDefEqProofs)

@[simp] theorem State.closeWindow_keeps (s : State) (ch : Chan) (k : Nat) (cycle : Word32) :
    (s.closeWindow ch k cycle).pending = s.pending ∧ (s.closeWindow ch k cycle).now = s.now ∧
    (s.closeWindow ch k cycle).smc = s.smc ∧ (s.closeWindow ch k cycle).clp = s.clp ∧
    (s.closeWindow ch k cycle).tbm = s.tbm ∧ (s.closeWindow ch k cycle).ckt = s.ckt ∧
    (s.closeWindow ch k cycle).asc = s.asc ∧ (s.closeWindow ch k cycle).phc = s.phc ∧
    (s.closeWindow ch k cycle).tga = s.tga ∧ (s.closeWindow ch k cycle).vdr = s.vdr ∧
    (s.closeWindow ch k cycle).lfs = s.lfs ∧ (s.closeWindow ch k cycle).fmg = s.fmg ∧
    (s.closeWindow ch k cycle).trb = s.trb ∧ (s.closeWindow ch k cycle).cst = s.cst ∧
    (s.closeWindow ch k cycle).freeCount = s.freeCount := by
  unfold State.closeWindow
  all_goals (try dsimp only)
  all_goals ((repeat' split) <;> simp -implicitDefEqProofs)

@[simp] theorem State.ceuLockGained_keeps (s : State) :
    s.ceuLockGained.pending = s.pending ∧ s.ceuLockGained.now = s.now ∧ s.ceuLockGained.smc = s.smc ∧
    s.ceuLockGained.clp = s.clp ∧ s.ceuLockGained.tbm = s.tbm ∧ s.ceuLockGained.ckt = s.ckt ∧
    s.ceuLockGained.asc = s.asc ∧ s.ceuLockGained.phc = s.phc ∧ s.ceuLockGained.tga = s.tga ∧
    s.ceuLockGained.vdr = s.vdr ∧ s.ceuLockGained.lfs = s.lfs ∧ s.ceuLockGained.fmg = s.fmg ∧
    s.ceuLockGained.trb = s.trb ∧ s.ceuLockGained.cst = s.cst ∧ s.ceuLockGained.freeCount = s.freeCount := by
  unfold State.ceuLockGained
  all_goals (try dsimp only)
  all_goals ((repeat' split) <;> simp -implicitDefEqProofs)

@[simp] theorem State.ceuLockLost_keeps (s : State) :
    s.ceuLockLost.pending = s.pending ∧ s.ceuLockLost.now = s.now ∧ s.ceuLockLost.handovers = s.handovers ∧
    s.ceuLockLost.smc = s.smc ∧ s.ceuLockLost.clp = s.clp ∧ s.ceuLockLost.tbm = s.tbm ∧ s.ceuLockLost.ckt = s.ckt ∧
    s.ceuLockLost.asc = s.asc ∧ s.ceuLockLost.phc = s.phc ∧ s.ceuLockLost.tga = s.tga ∧ s.ceuLockLost.vdr = s.vdr ∧
    s.ceuLockLost.lfs = s.lfs ∧ s.ceuLockLost.fmg = s.fmg ∧ s.ceuLockLost.trb = s.trb ∧ s.ceuLockLost.cst = s.cst ∧
    s.ceuLockLost.freeCount = s.freeCount := by
  unfold State.ceuLockLost
  all_goals (try dsimp only)
  all_goals ((repeat' split) <;> simp -implicitDefEqProofs)

@[simp] theorem State.checkMatches_keeps (s : State) (ch : Chan) :
    (s.checkMatches ch).pending = s.pending ∧ (s.checkMatches ch).now = s.now ∧ (s.checkMatches ch).smc = s.smc ∧
    (s.checkMatches ch).clp = s.clp ∧ (s.checkMatches ch).tbm = s.tbm ∧ (s.checkMatches ch).ckt = s.ckt ∧
    (s.checkMatches ch).asc = s.asc ∧ (s.checkMatches ch).phc = s.phc ∧ (s.checkMatches ch).tga = s.tga ∧
    (s.checkMatches ch).vdr = s.vdr ∧ (s.checkMatches ch).lfs = s.lfs ∧ (s.checkMatches ch).fmg = s.fmg ∧
    (s.checkMatches ch).trb = s.trb ∧ (s.checkMatches ch).cst = s.cst ∧ (s.checkMatches ch).freeCount = s.freeCount := by
  unfold State.checkMatches
  all_goals (try dsimp only)
  all_goals ((repeat' split) <;> simp -implicitDefEqProofs)

@[simp] theorem State.checkStrays_keeps (s : State) (ch : Chan) :
    (s.checkStrays ch).pending = s.pending ∧ (s.checkStrays ch).now = s.now ∧ (s.checkStrays ch).smc = s.smc ∧
    (s.checkStrays ch).clp = s.clp ∧ (s.checkStrays ch).tbm = s.tbm ∧ (s.checkStrays ch).ckt = s.ckt ∧
    (s.checkStrays ch).asc = s.asc ∧ (s.checkStrays ch).phc = s.phc ∧ (s.checkStrays ch).tga = s.tga ∧
    (s.checkStrays ch).vdr = s.vdr ∧ (s.checkStrays ch).lfs = s.lfs ∧ (s.checkStrays ch).fmg = s.fmg ∧
    (s.checkStrays ch).trb = s.trb ∧ (s.checkStrays ch).cst = s.cst ∧ (s.checkStrays ch).freeCount = s.freeCount := by
  unfold State.checkStrays
  all_goals (try dsimp only)
  all_goals ((repeat' split) <;> simp -implicitDefEqProofs)

@[simp] theorem State.chanCycle_keeps (full : Bool) (s : State) (ch : Chan) :
    (s.chanCycle full ch).pending = s.pending ∧ (s.chanCycle full ch).now = s.now ∧
    (s.chanCycle full ch).smc = s.smc ∧ (s.chanCycle full ch).clp = s.clp ∧ (s.chanCycle full ch).tbm = s.tbm ∧
    (s.chanCycle full ch).ckt = s.ckt ∧ (s.chanCycle full ch).asc = s.asc ∧ (s.chanCycle full ch).phc = s.phc ∧
    (s.chanCycle full ch).tga = s.tga ∧ (s.chanCycle full ch).vdr = s.vdr ∧ (s.chanCycle full ch).lfs = s.lfs ∧
    (s.chanCycle full ch).fmg = s.fmg ∧ (s.chanCycle full ch).trb = s.trb ∧ (s.chanCycle full ch).cst = s.cst ∧
    (s.chanCycle full ch).freeCount = s.freeCount := by
  unfold State.chanCycle
  all_goals (try dsimp only)
  all_goals ((repeat' split) <;> simp -implicitDefEqProofs)

@[simp] theorem State.ceuCycle_keeps (s : State) :
    s.ceuCycle.pending = s.pending ∧ s.ceuCycle.now = s.now ∧ s.ceuCycle.smc = s.smc ∧ s.ceuCycle.clp = s.clp ∧
    s.ceuCycle.tbm = s.tbm ∧ s.ceuCycle.ckt = s.ckt ∧ s.ceuCycle.asc = s.asc ∧ s.ceuCycle.phc = s.phc ∧
    s.ceuCycle.tga = s.tga ∧ s.ceuCycle.vdr = s.vdr ∧ s.ceuCycle.lfs = s.lfs ∧ s.ceuCycle.fmg = s.fmg ∧
    s.ceuCycle.trb = s.trb ∧ s.ceuCycle.cst = s.cst ∧ s.ceuCycle.freeCount = s.freeCount := by
  unfold State.ceuCycle
  all_goals (try dsimp only)
  all_goals ((repeat' split) <;> simp -implicitDefEqProofs)

@[simp] theorem State.ceuCycleStart_keeps (s : State) :
    s.ceuCycleStart.pending = s.pending ∧ s.ceuCycleStart.now = s.now ∧ s.ceuCycleStart.smc = s.smc ∧
    s.ceuCycleStart.clp = s.clp ∧ s.ceuCycleStart.tbm = s.tbm ∧ s.ceuCycleStart.ckt = s.ckt ∧
    s.ceuCycleStart.asc = s.asc ∧ s.ceuCycleStart.phc = s.phc ∧ s.ceuCycleStart.tga = s.tga ∧
    s.ceuCycleStart.vdr = s.vdr ∧ s.ceuCycleStart.lfs = s.lfs ∧ s.ceuCycleStart.fmg = s.fmg ∧
    s.ceuCycleStart.trb = s.trb ∧ s.ceuCycleStart.cst = s.cst ∧ s.ceuCycleStart.freeCount = s.freeCount := by
  unfold State.ceuCycleStart
  all_goals (try dsimp only)
  all_goals ((repeat' split) <;> simp -implicitDefEqProofs)

@[simp] theorem State.ceuEnterChan_keeps (s : State) (ch : Chan) :
    (s.ceuEnterChan ch).pending = s.pending ∧ (s.ceuEnterChan ch).now = s.now ∧ (s.ceuEnterChan ch).smc = s.smc ∧
    (s.ceuEnterChan ch).clp = s.clp ∧ (s.ceuEnterChan ch).tbm = s.tbm ∧ (s.ceuEnterChan ch).ckt = s.ckt ∧
    (s.ceuEnterChan ch).asc = s.asc ∧ (s.ceuEnterChan ch).phc = s.phc ∧ (s.ceuEnterChan ch).tga = s.tga ∧
    (s.ceuEnterChan ch).vdr = s.vdr ∧ (s.ceuEnterChan ch).lfs = s.lfs ∧ (s.ceuEnterChan ch).fmg = s.fmg ∧
    (s.ceuEnterChan ch).trb = s.trb ∧ (s.ceuEnterChan ch).cst = s.cst ∧ (s.ceuEnterChan ch).freeCount = s.freeCount := by
  unfold State.ceuEnterChan
  all_goals (try dsimp only)
  all_goals ((repeat' split) <;> simp -implicitDefEqProofs)

@[simp] theorem State.ceuEnterRun_keeps (s : State) :
    s.ceuEnterRun.pending = s.pending ∧ s.ceuEnterRun.now = s.now ∧ s.ceuEnterRun.smc = s.smc ∧
    s.ceuEnterRun.clp = s.clp ∧ s.ceuEnterRun.tbm = s.tbm ∧ s.ceuEnterRun.ckt = s.ckt ∧ s.ceuEnterRun.asc = s.asc ∧
    s.ceuEnterRun.phc = s.phc ∧ s.ceuEnterRun.tga = s.tga ∧ s.ceuEnterRun.vdr = s.vdr ∧ s.ceuEnterRun.lfs = s.lfs ∧
    s.ceuEnterRun.fmg = s.fmg ∧ s.ceuEnterRun.trb = s.trb ∧ s.ceuEnterRun.cst = s.cst ∧
    s.ceuEnterRun.freeCount = s.freeCount := by
  unfold State.ceuEnterRun
  all_goals (try dsimp only)
  all_goals ((repeat' split) <;> simp -implicitDefEqProofs)

@[simp] theorem State.ceuLeaveRun_keeps (s : State) :
    s.ceuLeaveRun.pending = s.pending ∧ s.ceuLeaveRun.now = s.now ∧ s.ceuLeaveRun.handovers = s.handovers ∧
    s.ceuLeaveRun.smc = s.smc ∧ s.ceuLeaveRun.clp = s.clp ∧ s.ceuLeaveRun.tbm = s.tbm ∧ s.ceuLeaveRun.ckt = s.ckt ∧
    s.ceuLeaveRun.asc = s.asc ∧ s.ceuLeaveRun.phc = s.phc ∧ s.ceuLeaveRun.tga = s.tga ∧ s.ceuLeaveRun.vdr = s.vdr ∧
    s.ceuLeaveRun.lfs = s.lfs ∧ s.ceuLeaveRun.fmg = s.fmg ∧ s.ceuLeaveRun.trb = s.trb ∧ s.ceuLeaveRun.cst = s.cst ∧
    s.ceuLeaveRun.freeCount = s.freeCount := by
  unfold State.ceuLeaveRun
  all_goals (try dsimp only)
  all_goals ((repeat' split) <;> simp -implicitDefEqProofs)

@[simp] theorem State.arbitrate_keeps (s : State) (ch : Chan) :
    (s.arbitrate ch).pending = s.pending ∧ (s.arbitrate ch).now = s.now ∧ (s.arbitrate ch).smc = s.smc ∧
    (s.arbitrate ch).clp = s.clp ∧ (s.arbitrate ch).tbm = s.tbm ∧ (s.arbitrate ch).ckt = s.ckt ∧
    (s.arbitrate ch).asc = s.asc ∧ (s.arbitrate ch).ceu = s.ceu ∧ (s.arbitrate ch).vdr = s.vdr ∧
    (s.arbitrate ch).lfs = s.lfs ∧ (s.arbitrate ch).fmg = s.fmg ∧ (s.arbitrate ch).trb = s.trb ∧
    (s.arbitrate ch).cst = s.cst ∧ (s.arbitrate ch).freeCount = s.freeCount := by
  unfold State.arbitrate
  all_goals (try dsimp only)
  all_goals ((repeat' split) <;> simp -implicitDefEqProofs)

@[simp] theorem State.arbitrateAll_keeps (s : State) :
    s.arbitrateAll.pending = s.pending ∧ s.arbitrateAll.now = s.now ∧ s.arbitrateAll.smc = s.smc ∧
    s.arbitrateAll.clp = s.clp ∧ s.arbitrateAll.tbm = s.tbm ∧ s.arbitrateAll.ckt = s.ckt ∧
    s.arbitrateAll.asc = s.asc ∧ s.arbitrateAll.ceu = s.ceu ∧ s.arbitrateAll.vdr = s.vdr ∧
    s.arbitrateAll.lfs = s.lfs ∧ s.arbitrateAll.fmg = s.fmg ∧ s.arbitrateAll.trb = s.trb ∧
    s.arbitrateAll.cst = s.cst ∧ s.arbitrateAll.freeCount = s.freeCount := by
  unfold State.arbitrateAll
  all_goals (try dsimp only)
  all_goals ((repeat' split) <;> simp -implicitDefEqProofs)

@[simp] theorem State.targetStep_keeps (s : State) (ch : Chan) :
    (s.targetStep ch).pending = s.pending ∧ (s.targetStep ch).now = s.now ∧
    (s.targetStep ch).handovers = s.handovers ∧ (s.targetStep ch).smc = s.smc ∧ (s.targetStep ch).clp = s.clp ∧
    (s.targetStep ch).tbm = s.tbm ∧ (s.targetStep ch).ckt = s.ckt ∧ (s.targetStep ch).asc = s.asc ∧
    (s.targetStep ch).ceu = s.ceu ∧ (s.targetStep ch).tga = s.tga ∧ (s.targetStep ch).vdr = s.vdr ∧
    (s.targetStep ch).lfs = s.lfs ∧ (s.targetStep ch).fmg = s.fmg ∧ (s.targetStep ch).trb = s.trb ∧
    (s.targetStep ch).cst = s.cst ∧ (s.targetStep ch).freeCount = s.freeCount := by
  unfold State.targetStep
  all_goals (try dsimp only)
  all_goals ((repeat' split) <;> simp -implicitDefEqProofs)

@[simp] theorem State.hostBack_keeps (s : State) :
    s.hostBack.pending = s.pending ∧ s.hostBack.now = s.now ∧ s.hostBack.smc = s.smc ∧ s.hostBack.clp = s.clp ∧
    s.hostBack.tbm = s.tbm ∧ s.hostBack.ckt = s.ckt ∧ s.hostBack.asc = s.asc ∧ s.hostBack.ceu = s.ceu ∧
    s.hostBack.phc = s.phc ∧ s.hostBack.vdr = s.vdr ∧ s.hostBack.lfs = s.lfs ∧ s.hostBack.fmg = s.fmg ∧
    s.hostBack.trb = s.trb ∧ s.hostBack.cst = s.cst ∧ s.hostBack.freeCount = s.freeCount := by
  unfold State.hostBack
  all_goals (try dsimp only)
  all_goals ((repeat' split) <;> simp -implicitDefEqProofs)

@[simp] theorem State.acceptOppt_keeps (s : State) (r : Oppt) :
    (s.acceptOppt r).pending = s.pending ∧ (s.acceptOppt r).now = s.now ∧ (s.acceptOppt r).smc = s.smc ∧
    (s.acceptOppt r).clp = s.clp ∧ (s.acceptOppt r).tbm = s.tbm ∧ (s.acceptOppt r).ckt = s.ckt ∧
    (s.acceptOppt r).asc = s.asc ∧ (s.acceptOppt r).ceu = s.ceu ∧ (s.acceptOppt r).vdr = s.vdr ∧
    (s.acceptOppt r).lfs = s.lfs ∧ (s.acceptOppt r).fmg = s.fmg ∧ (s.acceptOppt r).trb = s.trb ∧
    (s.acceptOppt r).cst = s.cst ∧ (s.acceptOppt r).freeCount = s.freeCount := by
  unfold State.acceptOppt
  all_goals (try dsimp only)
  all_goals ((repeat' split) <;> simp -implicitDefEqProofs)

@[simp] theorem State.doOppt_keeps (s : State) (fields : List Field) :
    (s.doOppt fields).pending = s.pending ∧ (s.doOppt fields).now = s.now ∧ (s.doOppt fields).smc = s.smc ∧
    (s.doOppt fields).tbm = s.tbm ∧ (s.doOppt fields).ckt = s.ckt ∧ (s.doOppt fields).asc = s.asc ∧
    (s.doOppt fields).ceu = s.ceu ∧ (s.doOppt fields).vdr = s.vdr ∧ (s.doOppt fields).lfs = s.lfs ∧
    (s.doOppt fields).fmg = s.fmg ∧ (s.doOppt fields).trb = s.trb ∧ (s.doOppt fields).cst = s.cst ∧
    (s.doOppt fields).freeCount = s.freeCount := by
  unfold State.doOppt
  all_goals (try dsimp only)
  all_goals ((repeat' split) <;> simp -implicitDefEqProofs)

@[simp] theorem State.dropMapOutputs_keeps (s : State) :
    s.dropMapOutputs.pending = s.pending ∧ s.dropMapOutputs.now = s.now ∧ s.dropMapOutputs.handovers = s.handovers ∧
    s.dropMapOutputs.smc = s.smc ∧ s.dropMapOutputs.clp = s.clp ∧ s.dropMapOutputs.tbm = s.tbm ∧
    s.dropMapOutputs.ckt = s.ckt ∧ s.dropMapOutputs.asc = s.asc ∧ s.dropMapOutputs.ceu = s.ceu ∧
    s.dropMapOutputs.phc = s.phc ∧ s.dropMapOutputs.vdr = s.vdr ∧ s.dropMapOutputs.lfs = s.lfs ∧
    s.dropMapOutputs.fmg = s.fmg ∧ s.dropMapOutputs.trb = s.trb ∧ s.dropMapOutputs.cst = s.cst ∧
    s.dropMapOutputs.freeCount = s.freeCount := by
  unfold State.dropMapOutputs
  all_goals (try dsimp only)
  all_goals ((repeat' split) <;> simp -implicitDefEqProofs)

@[simp] theorem State.staleExpires_keeps (s : State) (period : Time) :
    (s.staleExpires period).pending = s.pending ∧ (s.staleExpires period).now = s.now ∧
    (s.staleExpires period).smc = s.smc ∧ (s.staleExpires period).clp = s.clp ∧ (s.staleExpires period).tbm = s.tbm ∧
    (s.staleExpires period).ckt = s.ckt ∧ (s.staleExpires period).asc = s.asc ∧ (s.staleExpires period).ceu = s.ceu ∧
    (s.staleExpires period).vdr = s.vdr ∧ (s.staleExpires period).lfs = s.lfs ∧ (s.staleExpires period).fmg = s.fmg ∧
    (s.staleExpires period).trb = s.trb ∧ (s.staleExpires period).cst = s.cst ∧
    (s.staleExpires period).freeCount = s.freeCount := by
  unfold State.staleExpires
  all_goals (try dsimp only)
  all_goals ((repeat' split) <;> simp -implicitDefEqProofs)

@[simp] theorem State.tgaCycle_keeps (s : State) :
    s.tgaCycle.pending = s.pending ∧ s.tgaCycle.now = s.now ∧ s.tgaCycle.smc = s.smc ∧ s.tgaCycle.clp = s.clp ∧
    s.tgaCycle.tbm = s.tbm ∧ s.tgaCycle.ckt = s.ckt ∧ s.tgaCycle.asc = s.asc ∧ s.tgaCycle.ceu = s.ceu ∧
    s.tgaCycle.vdr = s.vdr ∧ s.tgaCycle.lfs = s.lfs ∧ s.tgaCycle.fmg = s.fmg ∧ s.tgaCycle.trb = s.trb ∧
    s.tgaCycle.cst = s.cst ∧ s.tgaCycle.freeCount = s.freeCount := by
  unfold State.tgaCycle
  all_goals (try dsimp only)
  all_goals ((repeat' split) <;> simp -implicitDefEqProofs)

@[simp] theorem State.tgaTakesResponse_keeps (s : State) (ch : Chan) (a : PhaserAction) :
    (s.tgaTakesResponse ch a).pending = s.pending ∧ (s.tgaTakesResponse ch a).now = s.now ∧
    (s.tgaTakesResponse ch a).smc = s.smc ∧ (s.tgaTakesResponse ch a).clp = s.clp ∧
    (s.tgaTakesResponse ch a).tbm = s.tbm ∧ (s.tgaTakesResponse ch a).ckt = s.ckt ∧
    (s.tgaTakesResponse ch a).asc = s.asc ∧ (s.tgaTakesResponse ch a).ceu = s.ceu ∧
    (s.tgaTakesResponse ch a).vdr = s.vdr ∧ (s.tgaTakesResponse ch a).lfs = s.lfs ∧
    (s.tgaTakesResponse ch a).fmg = s.fmg ∧ (s.tgaTakesResponse ch a).trb = s.trb ∧
    (s.tgaTakesResponse ch a).cst = s.cst ∧ (s.tgaTakesResponse ch a).freeCount = s.freeCount := by
  unfold State.tgaTakesResponse
  all_goals (try dsimp only)
  all_goals ((repeat' split) <;> simp -implicitDefEqProofs)

@[simp] theorem State.zeroTargets_keeps (s : State) :
    s.zeroTargets.pending = s.pending ∧ s.zeroTargets.now = s.now ∧ s.zeroTargets.handovers = s.handovers ∧
    s.zeroTargets.smc = s.smc ∧ s.zeroTargets.clp = s.clp ∧ s.zeroTargets.tbm = s.tbm ∧ s.zeroTargets.ckt = s.ckt ∧
    s.zeroTargets.asc = s.asc ∧ s.zeroTargets.ceu = s.ceu ∧ s.zeroTargets.tga = s.tga ∧ s.zeroTargets.vdr = s.vdr ∧
    s.zeroTargets.lfs = s.lfs ∧ s.zeroTargets.fmg = s.fmg ∧ s.zeroTargets.trb = s.trb ∧ s.zeroTargets.cst = s.cst ∧
    s.zeroTargets.freeCount = s.freeCount := by
  unfold State.zeroTargets
  all_goals (try dsimp only)
  all_goals ((repeat' split) <;> simp -implicitDefEqProofs)

@[simp] theorem State.tgaEnterRun_keeps (s : State) :
    s.tgaEnterRun.pending = s.pending ∧ s.tgaEnterRun.now = s.now ∧ s.tgaEnterRun.smc = s.smc ∧
    s.tgaEnterRun.clp = s.clp ∧ s.tgaEnterRun.tbm = s.tbm ∧ s.tgaEnterRun.ckt = s.ckt ∧ s.tgaEnterRun.asc = s.asc ∧
    s.tgaEnterRun.ceu = s.ceu ∧ s.tgaEnterRun.vdr = s.vdr ∧ s.tgaEnterRun.lfs = s.lfs ∧ s.tgaEnterRun.fmg = s.fmg ∧
    s.tgaEnterRun.trb = s.trb ∧ s.tgaEnterRun.cst = s.cst ∧ s.tgaEnterRun.freeCount = s.freeCount := by
  unfold State.tgaEnterRun
  all_goals (try dsimp only)
  all_goals ((repeat' split) <;> simp -implicitDefEqProofs)

@[simp] theorem State.tgaLeaveRun_keeps (s : State) :
    s.tgaLeaveRun.pending = s.pending ∧ s.tgaLeaveRun.now = s.now ∧ s.tgaLeaveRun.smc = s.smc ∧
    s.tgaLeaveRun.clp = s.clp ∧ s.tgaLeaveRun.tbm = s.tbm ∧ s.tgaLeaveRun.ckt = s.ckt ∧ s.tgaLeaveRun.asc = s.asc ∧
    s.tgaLeaveRun.ceu = s.ceu ∧ s.tgaLeaveRun.vdr = s.vdr ∧ s.tgaLeaveRun.lfs = s.lfs ∧ s.tgaLeaveRun.fmg = s.fmg ∧
    s.tgaLeaveRun.trb = s.trb ∧ s.tgaLeaveRun.cst = s.cst ∧ s.tgaLeaveRun.freeCount = s.freeCount := by
  unfold State.tgaLeaveRun
  all_goals (try dsimp only)
  all_goals ((repeat' split) <;> simp -implicitDefEqProofs)

@[simp] theorem State.afterChange_keeps (s : State) (ch : Chan) (old : ChanState) (cause : ChanCause) :
    (s.afterChange ch old cause).pending = s.pending ∧ (s.afterChange ch old cause).now = s.now ∧
    (s.afterChange ch old cause).smc = s.smc ∧ (s.afterChange ch old cause).clp = s.clp ∧
    (s.afterChange ch old cause).tbm = s.tbm ∧ (s.afterChange ch old cause).ckt = s.ckt ∧
    (s.afterChange ch old cause).asc = s.asc ∧ (s.afterChange ch old cause).ceu = s.ceu ∧
    (s.afterChange ch old cause).phc = s.phc ∧ (s.afterChange ch old cause).tga = s.tga ∧
    (s.afterChange ch old cause).vdr = s.vdr ∧ (s.afterChange ch old cause).lfs = s.lfs ∧
    (s.afterChange ch old cause).fmg = s.fmg ∧ (s.afterChange ch old cause).trb = s.trb ∧
    (s.afterChange ch old cause).cst = s.cst ∧ (s.afterChange ch old cause).freeCount = s.freeCount := by
  unfold State.afterChange
  all_goals (try dsimp only)
  all_goals ((repeat' split) <;> simp -implicitDefEqProofs)

@[simp] theorem State.enter_keeps (s : State) (ch : Chan) (new : ChanState) (cause : ChanCause) :
    (s.enter ch new cause).pending = s.pending ∧ (s.enter ch new cause).now = s.now ∧
    (s.enter ch new cause).smc = s.smc ∧ (s.enter ch new cause).clp = s.clp ∧ (s.enter ch new cause).tbm = s.tbm ∧
    (s.enter ch new cause).ckt = s.ckt ∧ (s.enter ch new cause).asc = s.asc ∧ (s.enter ch new cause).ceu = s.ceu ∧
    (s.enter ch new cause).tga = s.tga ∧ (s.enter ch new cause).vdr = s.vdr ∧ (s.enter ch new cause).lfs = s.lfs ∧
    (s.enter ch new cause).fmg = s.fmg ∧ (s.enter ch new cause).trb = s.trb ∧ (s.enter ch new cause).cst = s.cst ∧
    (s.enter ch new cause).freeCount = s.freeCount := by
  unfold State.enter
  all_goals (try dsimp only)
  all_goals ((repeat' split) <;> simp -implicitDefEqProofs)

@[simp] theorem State.writeDuty_keeps (s : State) (ch : Chan) (duty : Nat) (immediate : Bool) :
    (s.writeDuty ch duty immediate).pending = s.pending ∧ (s.writeDuty ch duty immediate).now = s.now ∧
    (s.writeDuty ch duty immediate).smc = s.smc ∧ (s.writeDuty ch duty immediate).clp = s.clp ∧
    (s.writeDuty ch duty immediate).tbm = s.tbm ∧ (s.writeDuty ch duty immediate).ckt = s.ckt ∧
    (s.writeDuty ch duty immediate).asc = s.asc ∧ (s.writeDuty ch duty immediate).ceu = s.ceu ∧
    (s.writeDuty ch duty immediate).tga = s.tga ∧ (s.writeDuty ch duty immediate).vdr = s.vdr ∧
    (s.writeDuty ch duty immediate).lfs = s.lfs ∧ (s.writeDuty ch duty immediate).fmg = s.fmg ∧
    (s.writeDuty ch duty immediate).trb = s.trb ∧ (s.writeDuty ch duty immediate).cst = s.cst ∧
    (s.writeDuty ch duty immediate).freeCount = s.freeCount := by
  unfold State.writeDuty
  all_goals (try dsimp only)
  all_goals ((repeat' split) <;> simp -implicitDefEqProofs)

@[simp] theorem State.park_keeps (s : State) (ch : Chan) (cause : ChanCause) :
    (s.park ch cause).pending = s.pending ∧ (s.park ch cause).now = s.now ∧ (s.park ch cause).smc = s.smc ∧
    (s.park ch cause).clp = s.clp ∧ (s.park ch cause).tbm = s.tbm ∧ (s.park ch cause).ckt = s.ckt ∧
    (s.park ch cause).asc = s.asc ∧ (s.park ch cause).ceu = s.ceu ∧ (s.park ch cause).tga = s.tga ∧
    (s.park ch cause).vdr = s.vdr ∧ (s.park ch cause).lfs = s.lfs ∧ (s.park ch cause).fmg = s.fmg ∧
    (s.park ch cause).trb = s.trb ∧ (s.park ch cause).cst = s.cst ∧ (s.park ch cause).freeCount = s.freeCount := by
  unfold State.park
  all_goals (try dsimp only)
  all_goals ((repeat' split) <;> simp -implicitDefEqProofs)

@[simp] theorem State.parkIfDriving_keeps (s : State) (ch : Chan) (cause : ChanCause) :
    (s.parkIfDriving ch cause).pending = s.pending ∧ (s.parkIfDriving ch cause).now = s.now ∧
    (s.parkIfDriving ch cause).smc = s.smc ∧ (s.parkIfDriving ch cause).clp = s.clp ∧
    (s.parkIfDriving ch cause).tbm = s.tbm ∧ (s.parkIfDriving ch cause).ckt = s.ckt ∧
    (s.parkIfDriving ch cause).asc = s.asc ∧ (s.parkIfDriving ch cause).ceu = s.ceu ∧
    (s.parkIfDriving ch cause).tga = s.tga ∧ (s.parkIfDriving ch cause).vdr = s.vdr ∧
    (s.parkIfDriving ch cause).lfs = s.lfs ∧ (s.parkIfDriving ch cause).fmg = s.fmg ∧
    (s.parkIfDriving ch cause).trb = s.trb ∧ (s.parkIfDriving ch cause).cst = s.cst ∧
    (s.parkIfDriving ch cause).freeCount = s.freeCount := by
  unfold State.parkIfDriving
  all_goals (try dsimp only)
  all_goals ((repeat' split) <;> simp -implicitDefEqProofs)

@[simp] theorem State.faulted_keeps (s : State) (ch : Chan) :
    (s.faulted ch).pending = s.pending ∧ (s.faulted ch).now = s.now ∧ (s.faulted ch).smc = s.smc ∧
    (s.faulted ch).clp = s.clp ∧ (s.faulted ch).tbm = s.tbm ∧ (s.faulted ch).ckt = s.ckt ∧
    (s.faulted ch).asc = s.asc ∧ (s.faulted ch).ceu = s.ceu ∧ (s.faulted ch).tga = s.tga ∧
    (s.faulted ch).vdr = s.vdr ∧ (s.faulted ch).lfs = s.lfs ∧ (s.faulted ch).fmg = s.fmg ∧
    (s.faulted ch).trb = s.trb ∧ (s.faulted ch).cst = s.cst ∧ (s.faulted ch).freeCount = s.freeCount := by
  unfold State.faulted
  all_goals (try dsimp only)
  all_goals ((repeat' split) <;> simp -implicitDefEqProofs)

@[simp] theorem State.lockOut_keeps (s : State) (ch : Chan) :
    (s.lockOut ch).pending = s.pending ∧ (s.lockOut ch).now = s.now ∧ (s.lockOut ch).smc = s.smc ∧
    (s.lockOut ch).clp = s.clp ∧ (s.lockOut ch).tbm = s.tbm ∧ (s.lockOut ch).ckt = s.ckt ∧
    (s.lockOut ch).asc = s.asc ∧ (s.lockOut ch).ceu = s.ceu ∧ (s.lockOut ch).tga = s.tga ∧
    (s.lockOut ch).vdr = s.vdr ∧ (s.lockOut ch).lfs = s.lfs ∧ (s.lockOut ch).fmg = s.fmg ∧
    (s.lockOut ch).trb = s.trb ∧ (s.lockOut ch).cst = s.cst ∧ (s.lockOut ch).freeCount = s.freeCount := by
  unfold State.lockOut
  all_goals (try dsimp only)
  all_goals ((repeat' split) <;> simp -implicitDefEqProofs)

@[simp] theorem State.endTest_keeps (s : State) (ch : Chan) (cause : ChanCause) :
    (s.endTest ch cause).pending = s.pending ∧ (s.endTest ch cause).now = s.now ∧ (s.endTest ch cause).smc = s.smc ∧
    (s.endTest ch cause).clp = s.clp ∧ (s.endTest ch cause).tbm = s.tbm ∧ (s.endTest ch cause).ckt = s.ckt ∧
    (s.endTest ch cause).asc = s.asc ∧ (s.endTest ch cause).ceu = s.ceu ∧ (s.endTest ch cause).tga = s.tga ∧
    (s.endTest ch cause).vdr = s.vdr ∧ (s.endTest ch cause).lfs = s.lfs ∧ (s.endTest ch cause).fmg = s.fmg ∧
    (s.endTest ch cause).trb = s.trb ∧ (s.endTest ch cause).cst = s.cst ∧ (s.endTest ch cause).freeCount = s.freeCount := by
  unfold State.endTest
  all_goals (try dsimp only)
  all_goals ((repeat' split) <;> simp -implicitDefEqProofs)

@[simp] theorem State.release_keeps (s : State) (ch : Chan) :
    (s.release ch).pending = s.pending ∧ (s.release ch).now = s.now ∧ (s.release ch).smc = s.smc ∧
    (s.release ch).clp = s.clp ∧ (s.release ch).tbm = s.tbm ∧ (s.release ch).ckt = s.ckt ∧
    (s.release ch).asc = s.asc ∧ (s.release ch).ceu = s.ceu ∧ (s.release ch).tga = s.tga ∧
    (s.release ch).vdr = s.vdr ∧ (s.release ch).lfs = s.lfs ∧ (s.release ch).fmg = s.fmg ∧
    (s.release ch).trb = s.trb ∧ (s.release ch).cst = s.cst ∧ (s.release ch).freeCount = s.freeCount := by
  unfold State.release
  all_goals (try dsimp only)
  all_goals ((repeat' split) <;> simp -implicitDefEqProofs)

@[simp] theorem State.evaluate_keeps (s : State) (ch : Chan) :
    (s.evaluate ch).pending = s.pending ∧ (s.evaluate ch).now = s.now ∧ (s.evaluate ch).smc = s.smc ∧
    (s.evaluate ch).clp = s.clp ∧ (s.evaluate ch).tbm = s.tbm ∧ (s.evaluate ch).ckt = s.ckt ∧
    (s.evaluate ch).asc = s.asc ∧ (s.evaluate ch).ceu = s.ceu ∧ (s.evaluate ch).tga = s.tga ∧
    (s.evaluate ch).vdr = s.vdr ∧ (s.evaluate ch).lfs = s.lfs ∧ (s.evaluate ch).fmg = s.fmg ∧
    (s.evaluate ch).trb = s.trb ∧ (s.evaluate ch).cst = s.cst ∧ (s.evaluate ch).freeCount = s.freeCount := by
  unfold State.evaluate
  all_goals (try dsimp only)
  all_goals ((repeat' split) <;> simp -implicitDefEqProofs)

@[simp] theorem State.hold_keeps (s : State) (ch : Chan) (c : HoldCause) :
    (s.hold ch c).pending = s.pending ∧ (s.hold ch c).now = s.now ∧ (s.hold ch c).smc = s.smc ∧
    (s.hold ch c).clp = s.clp ∧ (s.hold ch c).tbm = s.tbm ∧ (s.hold ch c).ckt = s.ckt ∧ (s.hold ch c).asc = s.asc ∧
    (s.hold ch c).ceu = s.ceu ∧ (s.hold ch c).tga = s.tga ∧ (s.hold ch c).vdr = s.vdr ∧ (s.hold ch c).lfs = s.lfs ∧
    (s.hold ch c).fmg = s.fmg ∧ (s.hold ch c).trb = s.trb ∧ (s.hold ch c).cst = s.cst ∧
    (s.hold ch c).freeCount = s.freeCount := by
  unfold State.hold
  all_goals (try dsimp only)
  all_goals ((repeat' split) <;> simp -implicitDefEqProofs)

@[simp] theorem State.addHold_keeps (s : State) (ch : Chan) (c : HoldCause) :
    (s.addHold ch c).pending = s.pending ∧ (s.addHold ch c).now = s.now ∧ (s.addHold ch c).smc = s.smc ∧
    (s.addHold ch c).clp = s.clp ∧ (s.addHold ch c).tbm = s.tbm ∧ (s.addHold ch c).ckt = s.ckt ∧
    (s.addHold ch c).asc = s.asc ∧ (s.addHold ch c).ceu = s.ceu ∧ (s.addHold ch c).tga = s.tga ∧
    (s.addHold ch c).vdr = s.vdr ∧ (s.addHold ch c).lfs = s.lfs ∧ (s.addHold ch c).fmg = s.fmg ∧
    (s.addHold ch c).trb = s.trb ∧ (s.addHold ch c).cst = s.cst ∧ (s.addHold ch c).freeCount = s.freeCount := by
  unfold State.addHold
  all_goals (try dsimp only)
  all_goals ((repeat' split) <;> simp -implicitDefEqProofs)

@[simp] theorem State.holdForResponse_keeps (s : State) (ch : Chan) :
    (s.holdForResponse ch).pending = s.pending ∧ (s.holdForResponse ch).now = s.now ∧
    (s.holdForResponse ch).smc = s.smc ∧ (s.holdForResponse ch).clp = s.clp ∧ (s.holdForResponse ch).tbm = s.tbm ∧
    (s.holdForResponse ch).ckt = s.ckt ∧ (s.holdForResponse ch).asc = s.asc ∧ (s.holdForResponse ch).ceu = s.ceu ∧
    (s.holdForResponse ch).tga = s.tga ∧ (s.holdForResponse ch).vdr = s.vdr ∧ (s.holdForResponse ch).lfs = s.lfs ∧
    (s.holdForResponse ch).fmg = s.fmg ∧ (s.holdForResponse ch).trb = s.trb ∧ (s.holdForResponse ch).cst = s.cst ∧
    (s.holdForResponse ch).freeCount = s.freeCount := by
  unfold State.holdForResponse
  all_goals (try dsimp only)
  all_goals ((repeat' split) <;> simp -implicitDefEqProofs)

@[simp] theorem State.track_keeps (s : State) (ch : Chan) (cause : ChanCause) :
    (s.track ch cause).pending = s.pending ∧ (s.track ch cause).now = s.now ∧ (s.track ch cause).smc = s.smc ∧
    (s.track ch cause).clp = s.clp ∧ (s.track ch cause).tbm = s.tbm ∧ (s.track ch cause).ckt = s.ckt ∧
    (s.track ch cause).asc = s.asc ∧ (s.track ch cause).ceu = s.ceu ∧ (s.track ch cause).tga = s.tga ∧
    (s.track ch cause).vdr = s.vdr ∧ (s.track ch cause).lfs = s.lfs ∧ (s.track ch cause).fmg = s.fmg ∧
    (s.track ch cause).trb = s.trb ∧ (s.track ch cause).cst = s.cst ∧ (s.track ch cause).freeCount = s.freeCount := by
  unfold State.track
  all_goals (try dsimp only)
  all_goals ((repeat' split) <;> simp -implicitDefEqProofs)

@[simp] theorem State.removeHold_keeps (s : State) (ch : Chan) (c : HoldCause) :
    (s.removeHold ch c).pending = s.pending ∧ (s.removeHold ch c).now = s.now ∧ (s.removeHold ch c).smc = s.smc ∧
    (s.removeHold ch c).clp = s.clp ∧ (s.removeHold ch c).tbm = s.tbm ∧ (s.removeHold ch c).ckt = s.ckt ∧
    (s.removeHold ch c).asc = s.asc ∧ (s.removeHold ch c).ceu = s.ceu ∧ (s.removeHold ch c).tga = s.tga ∧
    (s.removeHold ch c).vdr = s.vdr ∧ (s.removeHold ch c).lfs = s.lfs ∧ (s.removeHold ch c).fmg = s.fmg ∧
    (s.removeHold ch c).trb = s.trb ∧ (s.removeHold ch c).cst = s.cst ∧ (s.removeHold ch c).freeCount = s.freeCount := by
  unfold State.removeHold
  all_goals (try dsimp only)
  all_goals ((repeat' split) <;> simp -implicitDefEqProofs)

@[simp] theorem State.controlStep_keeps (s : State) (ch : Chan) (cycle : Word32) :
    (s.controlStep ch cycle).pending = s.pending ∧ (s.controlStep ch cycle).now = s.now ∧
    (s.controlStep ch cycle).smc = s.smc ∧ (s.controlStep ch cycle).clp = s.clp ∧
    (s.controlStep ch cycle).tbm = s.tbm ∧ (s.controlStep ch cycle).ckt = s.ckt ∧
    (s.controlStep ch cycle).asc = s.asc ∧ (s.controlStep ch cycle).ceu = s.ceu ∧
    (s.controlStep ch cycle).tga = s.tga ∧ (s.controlStep ch cycle).vdr = s.vdr ∧
    (s.controlStep ch cycle).lfs = s.lfs ∧ (s.controlStep ch cycle).fmg = s.fmg ∧
    (s.controlStep ch cycle).trb = s.trb ∧ (s.controlStep ch cycle).cst = s.cst ∧
    (s.controlStep ch cycle).freeCount = s.freeCount := by
  unfold State.controlStep
  all_goals (try dsimp only)
  all_goals ((repeat' split) <;> simp -implicitDefEqProofs)

@[simp] theorem State.parkedFrom_keeps (s : State) (ch : Chan) (cause : ChanCause) :
    (s.parkedFrom ch cause).pending = s.pending ∧ (s.parkedFrom ch cause).now = s.now ∧
    (s.parkedFrom ch cause).smc = s.smc ∧ (s.parkedFrom ch cause).clp = s.clp ∧ (s.parkedFrom ch cause).tbm = s.tbm ∧
    (s.parkedFrom ch cause).ckt = s.ckt ∧ (s.parkedFrom ch cause).asc = s.asc ∧ (s.parkedFrom ch cause).ceu = s.ceu ∧
    (s.parkedFrom ch cause).tga = s.tga ∧ (s.parkedFrom ch cause).vdr = s.vdr ∧ (s.parkedFrom ch cause).lfs = s.lfs ∧
    (s.parkedFrom ch cause).fmg = s.fmg ∧ (s.parkedFrom ch cause).trb = s.trb ∧ (s.parkedFrom ch cause).cst = s.cst ∧
    (s.parkedFrom ch cause).freeCount = s.freeCount := by
  unfold State.parkedFrom
  all_goals (try dsimp only)
  all_goals ((repeat' split) <;> simp -implicitDefEqProofs)

@[simp] theorem State.parkMatch_keeps (s : State) (ch : Chan) :
    (s.parkMatch ch).pending = s.pending ∧ (s.parkMatch ch).now = s.now ∧ (s.parkMatch ch).smc = s.smc ∧
    (s.parkMatch ch).clp = s.clp ∧ (s.parkMatch ch).tbm = s.tbm ∧ (s.parkMatch ch).ckt = s.ckt ∧
    (s.parkMatch ch).asc = s.asc ∧ (s.parkMatch ch).ceu = s.ceu ∧ (s.parkMatch ch).tga = s.tga ∧
    (s.parkMatch ch).vdr = s.vdr ∧ (s.parkMatch ch).lfs = s.lfs ∧ (s.parkMatch ch).fmg = s.fmg ∧
    (s.parkMatch ch).trb = s.trb ∧ (s.parkMatch ch).cst = s.cst ∧ (s.parkMatch ch).freeCount = s.freeCount := by
  unfold State.parkMatch
  all_goals (try dsimp only)
  all_goals ((repeat' split) <;> simp -implicitDefEqProofs)

@[simp] theorem State.parkExpires_keeps (s : State) (ch : Chan) :
    (s.parkExpires ch).pending = s.pending ∧ (s.parkExpires ch).now = s.now ∧ (s.parkExpires ch).smc = s.smc ∧
    (s.parkExpires ch).clp = s.clp ∧ (s.parkExpires ch).tbm = s.tbm ∧ (s.parkExpires ch).ckt = s.ckt ∧
    (s.parkExpires ch).asc = s.asc ∧ (s.parkExpires ch).ceu = s.ceu ∧ (s.parkExpires ch).tga = s.tga ∧
    (s.parkExpires ch).vdr = s.vdr ∧ (s.parkExpires ch).lfs = s.lfs ∧ (s.parkExpires ch).fmg = s.fmg ∧
    (s.parkExpires ch).trb = s.trb ∧ (s.parkExpires ch).cst = s.cst ∧ (s.parkExpires ch).freeCount = s.freeCount := by
  unfold State.parkExpires
  all_goals (try dsimp only)
  all_goals ((repeat' split) <;> simp -implicitDefEqProofs)

@[simp] theorem State.phcTakesMatch_keeps (s : State) (ch : Chan) (cycle : Word32) :
    (s.phcTakesMatch ch cycle).pending = s.pending ∧ (s.phcTakesMatch ch cycle).now = s.now ∧
    (s.phcTakesMatch ch cycle).smc = s.smc ∧ (s.phcTakesMatch ch cycle).clp = s.clp ∧
    (s.phcTakesMatch ch cycle).tbm = s.tbm ∧ (s.phcTakesMatch ch cycle).ckt = s.ckt ∧
    (s.phcTakesMatch ch cycle).asc = s.asc ∧ (s.phcTakesMatch ch cycle).ceu = s.ceu ∧
    (s.phcTakesMatch ch cycle).tga = s.tga ∧ (s.phcTakesMatch ch cycle).vdr = s.vdr ∧
    (s.phcTakesMatch ch cycle).lfs = s.lfs ∧ (s.phcTakesMatch ch cycle).fmg = s.fmg ∧
    (s.phcTakesMatch ch cycle).trb = s.trb ∧ (s.phcTakesMatch ch cycle).cst = s.cst ∧
    (s.phcTakesMatch ch cycle).freeCount = s.freeCount := by
  unfold State.phcTakesMatch
  all_goals (try dsimp only)
  all_goals ((repeat' split) <;> simp -implicitDefEqProofs)

@[simp] theorem State.takesClaim_keeps (s : State) (ch : Chan) :
    (s.takesClaim ch).pending = s.pending ∧ (s.takesClaim ch).now = s.now ∧ (s.takesClaim ch).smc = s.smc ∧
    (s.takesClaim ch).clp = s.clp ∧ (s.takesClaim ch).tbm = s.tbm ∧ (s.takesClaim ch).ckt = s.ckt ∧
    (s.takesClaim ch).asc = s.asc ∧ (s.takesClaim ch).ceu = s.ceu ∧ (s.takesClaim ch).tga = s.tga ∧
    (s.takesClaim ch).vdr = s.vdr ∧ (s.takesClaim ch).lfs = s.lfs ∧ (s.takesClaim ch).fmg = s.fmg ∧
    (s.takesClaim ch).trb = s.trb ∧ (s.takesClaim ch).cst = s.cst ∧ (s.takesClaim ch).freeCount = s.freeCount := by
  unfold State.takesClaim
  all_goals (try dsimp only)
  all_goals ((repeat' split) <;> simp -implicitDefEqProofs)

@[simp] theorem State.causeGone_keeps (s : State) (ch : Chan) (c : HoldCause) :
    (s.causeGone ch c).pending = s.pending ∧ (s.causeGone ch c).now = s.now ∧ (s.causeGone ch c).smc = s.smc ∧
    (s.causeGone ch c).clp = s.clp ∧ (s.causeGone ch c).tbm = s.tbm ∧ (s.causeGone ch c).ckt = s.ckt ∧
    (s.causeGone ch c).asc = s.asc ∧ (s.causeGone ch c).ceu = s.ceu ∧ (s.causeGone ch c).tga = s.tga ∧
    (s.causeGone ch c).vdr = s.vdr ∧ (s.causeGone ch c).lfs = s.lfs ∧ (s.causeGone ch c).fmg = s.fmg ∧
    (s.causeGone ch c).trb = s.trb ∧ (s.causeGone ch c).cst = s.cst ∧ (s.causeGone ch c).freeCount = s.freeCount := by
  unfold State.causeGone
  all_goals (try dsimp only)
  all_goals ((repeat' split) <;> simp -implicitDefEqProofs)

@[simp] theorem State.takesSupply_keeps (s : State) (ch : Chan) (st : SupplyState) :
    (s.takesSupply ch st).pending = s.pending ∧ (s.takesSupply ch st).now = s.now ∧
    (s.takesSupply ch st).smc = s.smc ∧ (s.takesSupply ch st).clp = s.clp ∧ (s.takesSupply ch st).tbm = s.tbm ∧
    (s.takesSupply ch st).ckt = s.ckt ∧ (s.takesSupply ch st).asc = s.asc ∧ (s.takesSupply ch st).ceu = s.ceu ∧
    (s.takesSupply ch st).tga = s.tga ∧ (s.takesSupply ch st).vdr = s.vdr ∧ (s.takesSupply ch st).lfs = s.lfs ∧
    (s.takesSupply ch st).fmg = s.fmg ∧ (s.takesSupply ch st).trb = s.trb ∧ (s.takesSupply ch st).cst = s.cst ∧
    (s.takesSupply ch st).freeCount = s.freeCount := by
  unfold State.takesSupply
  all_goals (try dsimp only)
  all_goals ((repeat' split) <;> simp -implicitDefEqProofs)

@[simp] theorem State.takesResponse_keeps (s : State) (ch : Chan) (a : PhaserAction) :
    (s.takesResponse ch a).pending = s.pending ∧ (s.takesResponse ch a).now = s.now ∧
    (s.takesResponse ch a).smc = s.smc ∧ (s.takesResponse ch a).clp = s.clp ∧ (s.takesResponse ch a).tbm = s.tbm ∧
    (s.takesResponse ch a).ckt = s.ckt ∧ (s.takesResponse ch a).asc = s.asc ∧ (s.takesResponse ch a).ceu = s.ceu ∧
    (s.takesResponse ch a).tga = s.tga ∧ (s.takesResponse ch a).vdr = s.vdr ∧ (s.takesResponse ch a).lfs = s.lfs ∧
    (s.takesResponse ch a).fmg = s.fmg ∧ (s.takesResponse ch a).trb = s.trb ∧ (s.takesResponse ch a).cst = s.cst ∧
    (s.takesResponse ch a).freeCount = s.freeCount := by
  unfold State.takesResponse
  all_goals (try dsimp only)
  all_goals ((repeat' split) <;> simp -implicitDefEqProofs)

@[simp] theorem State.takesSource_keeps (s : State) (ch : Chan) (x : Source) :
    (s.takesSource ch x).pending = s.pending ∧ (s.takesSource ch x).now = s.now ∧ (s.takesSource ch x).smc = s.smc ∧
    (s.takesSource ch x).clp = s.clp ∧ (s.takesSource ch x).tbm = s.tbm ∧ (s.takesSource ch x).ckt = s.ckt ∧
    (s.takesSource ch x).asc = s.asc ∧ (s.takesSource ch x).ceu = s.ceu ∧ (s.takesSource ch x).tga = s.tga ∧
    (s.takesSource ch x).vdr = s.vdr ∧ (s.takesSource ch x).lfs = s.lfs ∧ (s.takesSource ch x).fmg = s.fmg ∧
    (s.takesSource ch x).trb = s.trb ∧ (s.takesSource ch x).cst = s.cst ∧ (s.takesSource ch x).freeCount = s.freeCount := by
  unfold State.takesSource
  all_goals (try dsimp only)
  all_goals ((repeat' split) <;> simp -implicitDefEqProofs)

@[simp] theorem State.driverFault_keeps (s : State) (ch : Chan) :
    (s.driverFault ch).pending = s.pending ∧ (s.driverFault ch).now = s.now ∧ (s.driverFault ch).smc = s.smc ∧
    (s.driverFault ch).clp = s.clp ∧ (s.driverFault ch).tbm = s.tbm ∧ (s.driverFault ch).ckt = s.ckt ∧
    (s.driverFault ch).asc = s.asc ∧ (s.driverFault ch).ceu = s.ceu ∧ (s.driverFault ch).tga = s.tga ∧
    (s.driverFault ch).vdr = s.vdr ∧ (s.driverFault ch).lfs = s.lfs ∧ (s.driverFault ch).fmg = s.fmg ∧
    (s.driverFault ch).trb = s.trb ∧ (s.driverFault ch).cst = s.cst ∧ (s.driverFault ch).freeCount = s.freeCount := by
  unfold State.driverFault
  all_goals (try dsimp only)
  all_goals ((repeat' split) <;> simp -implicitDefEqProofs)

@[simp] theorem State.class1_keeps (s : State) (ch : Chan) :
    (s.class1 ch).pending = s.pending ∧ (s.class1 ch).now = s.now ∧ (s.class1 ch).smc = s.smc ∧
    (s.class1 ch).clp = s.clp ∧ (s.class1 ch).tbm = s.tbm ∧ (s.class1 ch).ckt = s.ckt ∧ (s.class1 ch).asc = s.asc ∧
    (s.class1 ch).ceu = s.ceu ∧ (s.class1 ch).tga = s.tga ∧ (s.class1 ch).vdr = s.vdr ∧ (s.class1 ch).lfs = s.lfs ∧
    (s.class1 ch).fmg = s.fmg ∧ (s.class1 ch).trb = s.trb ∧ (s.class1 ch).cst = s.cst ∧
    (s.class1 ch).freeCount = s.freeCount := by
  unfold State.class1
  all_goals (try dsimp only)
  all_goals ((repeat' split) <;> simp -implicitDefEqProofs)

@[simp] theorem State.shortFault_keeps (s : State) (ch : Chan) :
    (s.shortFault ch).pending = s.pending ∧ (s.shortFault ch).now = s.now ∧ (s.shortFault ch).smc = s.smc ∧
    (s.shortFault ch).clp = s.clp ∧ (s.shortFault ch).tbm = s.tbm ∧ (s.shortFault ch).ckt = s.ckt ∧
    (s.shortFault ch).asc = s.asc ∧ (s.shortFault ch).ceu = s.ceu ∧ (s.shortFault ch).tga = s.tga ∧
    (s.shortFault ch).vdr = s.vdr ∧ (s.shortFault ch).lfs = s.lfs ∧ (s.shortFault ch).fmg = s.fmg ∧
    (s.shortFault ch).trb = s.trb ∧ (s.shortFault ch).cst = s.cst ∧ (s.shortFault ch).freeCount = s.freeCount := by
  unfold State.shortFault
  all_goals (try dsimp only)
  all_goals ((repeat' split) <;> simp -implicitDefEqProofs)

@[simp] theorem State.driverCleared_keeps (s : State) (ch : Chan) :
    (s.driverCleared ch).pending = s.pending ∧ (s.driverCleared ch).now = s.now ∧ (s.driverCleared ch).smc = s.smc ∧
    (s.driverCleared ch).clp = s.clp ∧ (s.driverCleared ch).tbm = s.tbm ∧ (s.driverCleared ch).ckt = s.ckt ∧
    (s.driverCleared ch).asc = s.asc ∧ (s.driverCleared ch).ceu = s.ceu ∧ (s.driverCleared ch).tga = s.tga ∧
    (s.driverCleared ch).vdr = s.vdr ∧ (s.driverCleared ch).lfs = s.lfs ∧ (s.driverCleared ch).fmg = s.fmg ∧
    (s.driverCleared ch).trb = s.trb ∧ (s.driverCleared ch).cst = s.cst ∧ (s.driverCleared ch).freeCount = s.freeCount := by
  unfold State.driverCleared
  all_goals (try dsimp only)
  all_goals ((repeat' split) <;> simp -implicitDefEqProofs)

@[simp] theorem State.watchOil_keeps (s : State) (k : Nat) :
    (s.watchOil k).pending = s.pending ∧ (s.watchOil k).now = s.now ∧ (s.watchOil k).smc = s.smc ∧
    (s.watchOil k).clp = s.clp ∧ (s.watchOil k).tbm = s.tbm ∧ (s.watchOil k).ckt = s.ckt ∧
    (s.watchOil k).asc = s.asc ∧ (s.watchOil k).ceu = s.ceu ∧ (s.watchOil k).tga = s.tga ∧
    (s.watchOil k).vdr = s.vdr ∧ (s.watchOil k).lfs = s.lfs ∧ (s.watchOil k).fmg = s.fmg ∧
    (s.watchOil k).trb = s.trb ∧ (s.watchOil k).cst = s.cst ∧ (s.watchOil k).freeCount = s.freeCount := by
  unfold State.watchOil
  all_goals (try dsimp only)
  all_goals ((repeat' split) <;> simp -implicitDefEqProofs)

@[simp] theorem State.faultIfHeld_keeps (s : State) (ch : Chan) :
    (s.faultIfHeld ch).pending = s.pending ∧ (s.faultIfHeld ch).now = s.now ∧ (s.faultIfHeld ch).smc = s.smc ∧
    (s.faultIfHeld ch).clp = s.clp ∧ (s.faultIfHeld ch).tbm = s.tbm ∧ (s.faultIfHeld ch).ckt = s.ckt ∧
    (s.faultIfHeld ch).asc = s.asc ∧ (s.faultIfHeld ch).ceu = s.ceu ∧ (s.faultIfHeld ch).tga = s.tga ∧
    (s.faultIfHeld ch).vdr = s.vdr ∧ (s.faultIfHeld ch).lfs = s.lfs ∧ (s.faultIfHeld ch).fmg = s.fmg ∧
    (s.faultIfHeld ch).trb = s.trb ∧ (s.faultIfHeld ch).cst = s.cst ∧ (s.faultIfHeld ch).freeCount = s.freeCount := by
  unfold State.faultIfHeld
  all_goals (try dsimp only)
  all_goals ((repeat' split) <;> simp -implicitDefEqProofs)

@[simp] theorem State.phcEnterChan_keeps (s : State) (ch : Chan) :
    (s.phcEnterChan ch).pending = s.pending ∧ (s.phcEnterChan ch).now = s.now ∧ (s.phcEnterChan ch).smc = s.smc ∧
    (s.phcEnterChan ch).clp = s.clp ∧ (s.phcEnterChan ch).tbm = s.tbm ∧ (s.phcEnterChan ch).ckt = s.ckt ∧
    (s.phcEnterChan ch).asc = s.asc ∧ (s.phcEnterChan ch).ceu = s.ceu ∧ (s.phcEnterChan ch).tga = s.tga ∧
    (s.phcEnterChan ch).vdr = s.vdr ∧ (s.phcEnterChan ch).lfs = s.lfs ∧ (s.phcEnterChan ch).fmg = s.fmg ∧
    (s.phcEnterChan ch).trb = s.trb ∧ (s.phcEnterChan ch).cst = s.cst ∧ (s.phcEnterChan ch).freeCount = s.freeCount := by
  unfold State.phcEnterChan
  all_goals (try dsimp only)
  all_goals ((repeat' split) <;> simp -implicitDefEqProofs)

@[simp] theorem State.phcEnterRun_keeps (s : State) :
    s.phcEnterRun.pending = s.pending ∧ s.phcEnterRun.now = s.now ∧ s.phcEnterRun.smc = s.smc ∧
    s.phcEnterRun.clp = s.clp ∧ s.phcEnterRun.tbm = s.tbm ∧ s.phcEnterRun.ckt = s.ckt ∧ s.phcEnterRun.asc = s.asc ∧
    s.phcEnterRun.ceu = s.ceu ∧ s.phcEnterRun.tga = s.tga ∧ s.phcEnterRun.vdr = s.vdr ∧ s.phcEnterRun.lfs = s.lfs ∧
    s.phcEnterRun.fmg = s.fmg ∧ s.phcEnterRun.trb = s.trb ∧ s.phcEnterRun.cst = s.cst ∧
    s.phcEnterRun.freeCount = s.freeCount := by
  unfold State.phcEnterRun
  all_goals (try dsimp only)
  all_goals ((repeat' split) <;> simp -implicitDefEqProofs)

@[simp] theorem State.phcLeaveChan_keeps (s : State) (ch : Chan) :
    (s.phcLeaveChan ch).pending = s.pending ∧ (s.phcLeaveChan ch).now = s.now ∧ (s.phcLeaveChan ch).smc = s.smc ∧
    (s.phcLeaveChan ch).clp = s.clp ∧ (s.phcLeaveChan ch).tbm = s.tbm ∧ (s.phcLeaveChan ch).ckt = s.ckt ∧
    (s.phcLeaveChan ch).asc = s.asc ∧ (s.phcLeaveChan ch).ceu = s.ceu ∧ (s.phcLeaveChan ch).tga = s.tga ∧
    (s.phcLeaveChan ch).vdr = s.vdr ∧ (s.phcLeaveChan ch).lfs = s.lfs ∧ (s.phcLeaveChan ch).fmg = s.fmg ∧
    (s.phcLeaveChan ch).trb = s.trb ∧ (s.phcLeaveChan ch).cst = s.cst ∧
    (s.phcLeaveChan ch).freeCount = s.freeCount := by
  unfold State.phcLeaveChan
  all_goals (try dsimp only)
  all_goals ((repeat' split) <;> simp -implicitDefEqProofs)

@[simp] theorem State.phcLeaveRun_keeps (s : State) :
    s.phcLeaveRun.pending = s.pending ∧ s.phcLeaveRun.now = s.now ∧ s.phcLeaveRun.smc = s.smc ∧
    s.phcLeaveRun.clp = s.clp ∧ s.phcLeaveRun.tbm = s.tbm ∧ s.phcLeaveRun.ckt = s.ckt ∧ s.phcLeaveRun.asc = s.asc ∧
    s.phcLeaveRun.ceu = s.ceu ∧ s.phcLeaveRun.tga = s.tga ∧ s.phcLeaveRun.vdr = s.vdr ∧ s.phcLeaveRun.lfs = s.lfs ∧
    s.phcLeaveRun.fmg = s.fmg ∧ s.phcLeaveRun.trb = s.trb ∧ s.phcLeaveRun.cst = s.cst ∧
    s.phcLeaveRun.freeCount = s.freeCount := by
  unfold State.phcLeaveRun
  all_goals (try dsimp only)
  all_goals ((repeat' split) <;> simp -implicitDefEqProofs)

@[simp] theorem State.startTest_keeps (s : State) (ch : Chan) (duty : Nat) (time : Nat) :
    (s.startTest ch duty time).pending = s.pending ∧ (s.startTest ch duty time).now = s.now ∧
    (s.startTest ch duty time).smc = s.smc ∧ (s.startTest ch duty time).clp = s.clp ∧
    (s.startTest ch duty time).tbm = s.tbm ∧ (s.startTest ch duty time).ckt = s.ckt ∧
    (s.startTest ch duty time).asc = s.asc ∧ (s.startTest ch duty time).ceu = s.ceu ∧
    (s.startTest ch duty time).tga = s.tga ∧ (s.startTest ch duty time).vdr = s.vdr ∧
    (s.startTest ch duty time).lfs = s.lfs ∧ (s.startTest ch duty time).fmg = s.fmg ∧
    (s.startTest ch duty time).trb = s.trb ∧ (s.startTest ch duty time).cst = s.cst ∧
    (s.startTest ch duty time).freeCount = s.freeCount := by
  unfold State.startTest
  all_goals (try dsimp only)
  all_goals ((repeat' split) <;> simp -implicitDefEqProofs)

@[simp] theorem State.doTestCh_keeps (s : State) (fields : List Field) :
    (s.doTestCh fields).pending = s.pending ∧ (s.doTestCh fields).now = s.now ∧ (s.doTestCh fields).smc = s.smc ∧
    (s.doTestCh fields).tbm = s.tbm ∧ (s.doTestCh fields).ckt = s.ckt ∧ (s.doTestCh fields).asc = s.asc ∧
    (s.doTestCh fields).ceu = s.ceu ∧ (s.doTestCh fields).tga = s.tga ∧ (s.doTestCh fields).vdr = s.vdr ∧
    (s.doTestCh fields).lfs = s.lfs ∧ (s.doTestCh fields).fmg = s.fmg ∧ (s.doTestCh fields).trb = s.trb ∧
    (s.doTestCh fields).cst = s.cst ∧ (s.doTestCh fields).freeCount = s.freeCount := by
  unfold State.doTestCh
  all_goals (try dsimp only)
  all_goals ((repeat' split) <;> simp -implicitDefEqProofs)

@[simp] theorem State.disarm_keeps (s : State) :
    s.disarm.pending = s.pending ∧ s.disarm.now = s.now ∧ s.disarm.handovers = s.handovers ∧ s.disarm.smc = s.smc ∧
    s.disarm.tbm = s.tbm ∧ s.disarm.ckt = s.ckt ∧ s.disarm.asc = s.asc ∧ s.disarm.ceu = s.ceu ∧ s.disarm.phc = s.phc ∧
    s.disarm.tga = s.tga ∧ s.disarm.vdr = s.vdr ∧ s.disarm.lfs = s.lfs ∧ s.disarm.fmg = s.fmg ∧ s.disarm.trb = s.trb ∧
    s.disarm.cst = s.cst ∧ s.disarm.freeCount = s.freeCount := by
  unfold State.disarm
  all_goals (try dsimp only)
  all_goals ((repeat' split) <;> simp -implicitDefEqProofs)

@[simp] theorem State.unlock_keeps (s : State) (ch : Chan) :
    (s.unlock ch).pending = s.pending ∧ (s.unlock ch).now = s.now ∧ (s.unlock ch).smc = s.smc ∧
    (s.unlock ch).clp = s.clp ∧ (s.unlock ch).tbm = s.tbm ∧ (s.unlock ch).ckt = s.ckt ∧ (s.unlock ch).asc = s.asc ∧
    (s.unlock ch).ceu = s.ceu ∧ (s.unlock ch).tga = s.tga ∧ (s.unlock ch).vdr = s.vdr ∧ (s.unlock ch).lfs = s.lfs ∧
    (s.unlock ch).fmg = s.fmg ∧ (s.unlock ch).trb = s.trb ∧ (s.unlock ch).cst = s.cst ∧
    (s.unlock ch).freeCount = s.freeCount := by
  unfold State.unlock
  all_goals (try dsimp only)
  all_goals ((repeat' split) <;> simp -implicitDefEqProofs)

@[simp] theorem State.doClrl_keeps (s : State) (fields : List Field) (armed : Bool) :
    (s.doClrl fields armed).pending = s.pending ∧ (s.doClrl fields armed).now = s.now ∧
    (s.doClrl fields armed).smc = s.smc ∧ (s.doClrl fields armed).tbm = s.tbm ∧ (s.doClrl fields armed).ckt = s.ckt ∧
    (s.doClrl fields armed).asc = s.asc ∧ (s.doClrl fields armed).ceu = s.ceu ∧ (s.doClrl fields armed).tga = s.tga ∧
    (s.doClrl fields armed).vdr = s.vdr ∧ (s.doClrl fields armed).lfs = s.lfs ∧ (s.doClrl fields armed).fmg = s.fmg ∧
    (s.doClrl fields armed).trb = s.trb ∧ (s.doClrl fields armed).cst = s.cst ∧
    (s.doClrl fields armed).freeCount = s.freeCount := by
  unfold State.doClrl
  all_goals (try dsimp only)
  all_goals ((repeat' split) <;> simp -implicitDefEqProofs)

@[simp] theorem State.reportOpen_keeps (s : State) (out : Out) (r : Option ReportKind) :
    (s.reportOpen out r).pending = s.pending ∧ (s.reportOpen out r).now = s.now ∧ (s.reportOpen out r).smc = s.smc ∧
    (s.reportOpen out r).clp = s.clp ∧ (s.reportOpen out r).tbm = s.tbm ∧ (s.reportOpen out r).ckt = s.ckt ∧
    (s.reportOpen out r).asc = s.asc ∧ (s.reportOpen out r).ceu = s.ceu ∧ (s.reportOpen out r).phc = s.phc ∧
    (s.reportOpen out r).tga = s.tga ∧ (s.reportOpen out r).vdr = s.vdr ∧ (s.reportOpen out r).lfs = s.lfs ∧
    (s.reportOpen out r).fmg = s.fmg ∧ (s.reportOpen out r).trb = s.trb ∧ (s.reportOpen out r).cst = s.cst ∧
    (s.reportOpen out r).freeCount = s.freeCount := by
  unfold State.reportOpen
  all_goals (try dsimp only)
  all_goals ((repeat' split) <;> simp -implicitDefEqProofs)

@[simp] theorem State.judgeOcv_keeps (s : State) (o : LineABCD) (len : Nat) (current : Bool) :
    (s.judgeOcv o len current).pending = s.pending ∧ (s.judgeOcv o len current).now = s.now ∧
    (s.judgeOcv o len current).smc = s.smc ∧ (s.judgeOcv o len current).clp = s.clp ∧
    (s.judgeOcv o len current).tbm = s.tbm ∧ (s.judgeOcv o len current).ckt = s.ckt ∧
    (s.judgeOcv o len current).asc = s.asc ∧ (s.judgeOcv o len current).ceu = s.ceu ∧
    (s.judgeOcv o len current).phc = s.phc ∧ (s.judgeOcv o len current).tga = s.tga ∧
    (s.judgeOcv o len current).lfs = s.lfs ∧ (s.judgeOcv o len current).fmg = s.fmg ∧
    (s.judgeOcv o len current).trb = s.trb ∧ (s.judgeOcv o len current).cst = s.cst ∧
    (s.judgeOcv o len current).freeCount = s.freeCount := by
  unfold State.judgeOcv
  all_goals (try dsimp only)
  all_goals ((repeat' split) <;> simp -implicitDefEqProofs)

@[simp] theorem State.judgeLs_keeps (s : State) (o : LineAB) (len : Nat) (current : Bool) :
    (s.judgeLs o len current).pending = s.pending ∧ (s.judgeLs o len current).now = s.now ∧
    (s.judgeLs o len current).smc = s.smc ∧ (s.judgeLs o len current).clp = s.clp ∧
    (s.judgeLs o len current).tbm = s.tbm ∧ (s.judgeLs o len current).ckt = s.ckt ∧
    (s.judgeLs o len current).asc = s.asc ∧ (s.judgeLs o len current).ceu = s.ceu ∧
    (s.judgeLs o len current).phc = s.phc ∧ (s.judgeLs o len current).tga = s.tga ∧
    (s.judgeLs o len current).lfs = s.lfs ∧ (s.judgeLs o len current).fmg = s.fmg ∧
    (s.judgeLs o len current).trb = s.trb ∧ (s.judgeLs o len current).cst = s.cst ∧
    (s.judgeLs o len current).freeCount = s.freeCount := by
  unfold State.judgeLs
  all_goals (try dsimp only)
  all_goals ((repeat' split) <;> simp -implicitDefEqProofs)

@[simp] theorem State.cutOcv_keeps (s : State) (o : LineABCD) (current : Bool) :
    (s.cutOcv o current).pending = s.pending ∧ (s.cutOcv o current).now = s.now ∧ (s.cutOcv o current).smc = s.smc ∧
    (s.cutOcv o current).clp = s.clp ∧ (s.cutOcv o current).tbm = s.tbm ∧ (s.cutOcv o current).ckt = s.ckt ∧
    (s.cutOcv o current).asc = s.asc ∧ (s.cutOcv o current).ceu = s.ceu ∧ (s.cutOcv o current).phc = s.phc ∧
    (s.cutOcv o current).tga = s.tga ∧ (s.cutOcv o current).lfs = s.lfs ∧ (s.cutOcv o current).fmg = s.fmg ∧
    (s.cutOcv o current).trb = s.trb ∧ (s.cutOcv o current).cst = s.cst ∧ (s.cutOcv o current).freeCount = s.freeCount := by
  unfold State.cutOcv
  all_goals (try dsimp only)
  all_goals ((repeat' split) <;> simp -implicitDefEqProofs)

@[simp] theorem State.cutLs_keeps (s : State) (o : LineAB) (current : Bool) :
    (s.cutLs o current).pending = s.pending ∧ (s.cutLs o current).now = s.now ∧ (s.cutLs o current).smc = s.smc ∧
    (s.cutLs o current).clp = s.clp ∧ (s.cutLs o current).tbm = s.tbm ∧ (s.cutLs o current).ckt = s.ckt ∧
    (s.cutLs o current).asc = s.asc ∧ (s.cutLs o current).ceu = s.ceu ∧ (s.cutLs o current).phc = s.phc ∧
    (s.cutLs o current).tga = s.tga ∧ (s.cutLs o current).lfs = s.lfs ∧ (s.cutLs o current).fmg = s.fmg ∧
    (s.cutLs o current).trb = s.trb ∧ (s.cutLs o current).cst = s.cst ∧ (s.cutLs o current).freeCount = s.freeCount := by
  unfold State.cutLs
  all_goals (try dsimp only)
  all_goals ((repeat' split) <;> simp -implicitDefEqProofs)

@[simp] theorem State.nextPeriod_keeps (s : State) (o : LineABCD) :
    (s.nextPeriod o).pending = s.pending ∧ (s.nextPeriod o).now = s.now ∧ (s.nextPeriod o).handovers = s.handovers ∧
    (s.nextPeriod o).smc = s.smc ∧ (s.nextPeriod o).clp = s.clp ∧ (s.nextPeriod o).tbm = s.tbm ∧
    (s.nextPeriod o).ckt = s.ckt ∧ (s.nextPeriod o).asc = s.asc ∧ (s.nextPeriod o).ceu = s.ceu ∧
    (s.nextPeriod o).phc = s.phc ∧ (s.nextPeriod o).tga = s.tga ∧ (s.nextPeriod o).lfs = s.lfs ∧
    (s.nextPeriod o).fmg = s.fmg ∧ (s.nextPeriod o).trb = s.trb ∧ (s.nextPeriod o).cst = s.cst ∧
    (s.nextPeriod o).freeCount = s.freeCount := by
  unfold State.nextPeriod
  all_goals (try dsimp only)
  all_goals ((repeat' split) <;> simp -implicitDefEqProofs)

@[simp] theorem State.passTo_keeps (s : State) (t : Option Word32) (d : Nat) :
    (s.passTo t d).pending = s.pending ∧ (s.passTo t d).handovers = s.handovers ∧ (s.passTo t d).smc = s.smc ∧
    (s.passTo t d).clp = s.clp ∧ (s.passTo t d).tbm = s.tbm ∧ (s.passTo t d).ckt = s.ckt ∧
    (s.passTo t d).asc = s.asc ∧ (s.passTo t d).ceu = s.ceu ∧ (s.passTo t d).phc = s.phc ∧
    (s.passTo t d).tga = s.tga ∧ (s.passTo t d).vdr = s.vdr ∧ (s.passTo t d).lfs = s.lfs ∧
    (s.passTo t d).fmg = s.fmg ∧ (s.passTo t d).trb = s.trb ∧ (s.passTo t d).cst = s.cst ∧
    (s.passTo t d).freeCount = s.freeCount := by
  unfold State.passTo
  all_goals (try dsimp only)
  all_goals ((repeat' split) <;> simp -implicitDefEqProofs)

@[simp] theorem State.disableOcv_keeps (s : State) (o : LineABCD) (current : Bool) :
    (s.disableOcv o current).pending = s.pending ∧ (s.disableOcv o current).now = s.now ∧
    (s.disableOcv o current).smc = s.smc ∧ (s.disableOcv o current).clp = s.clp ∧
    (s.disableOcv o current).tbm = s.tbm ∧ (s.disableOcv o current).ckt = s.ckt ∧
    (s.disableOcv o current).asc = s.asc ∧ (s.disableOcv o current).ceu = s.ceu ∧
    (s.disableOcv o current).phc = s.phc ∧ (s.disableOcv o current).tga = s.tga ∧
    (s.disableOcv o current).lfs = s.lfs ∧ (s.disableOcv o current).fmg = s.fmg ∧
    (s.disableOcv o current).trb = s.trb ∧ (s.disableOcv o current).cst = s.cst ∧
    (s.disableOcv o current).freeCount = s.freeCount := by
  unfold State.disableOcv
  all_goals (try dsimp only)
  all_goals ((repeat' split) <;> simp -implicitDefEqProofs)

@[simp] theorem State.disableLs_keeps (s : State) (o : LineAB) (current : Bool) :
    (s.disableLs o current).pending = s.pending ∧ (s.disableLs o current).now = s.now ∧
    (s.disableLs o current).smc = s.smc ∧ (s.disableLs o current).clp = s.clp ∧ (s.disableLs o current).tbm = s.tbm ∧
    (s.disableLs o current).ckt = s.ckt ∧ (s.disableLs o current).asc = s.asc ∧ (s.disableLs o current).ceu = s.ceu ∧
    (s.disableLs o current).phc = s.phc ∧ (s.disableLs o current).tga = s.tga ∧ (s.disableLs o current).lfs = s.lfs ∧
    (s.disableLs o current).fmg = s.fmg ∧ (s.disableLs o current).trb = s.trb ∧ (s.disableLs o current).cst = s.cst ∧
    (s.disableLs o current).freeCount = s.freeCount := by
  unfold State.disableLs
  all_goals (try dsimp only)
  all_goals ((repeat' split) <;> simp -implicitDefEqProofs)

@[simp] theorem State.evalOcv_keeps (s : State) (o : LineABCD) (current : Bool) :
    (s.evalOcv o current).pending = s.pending ∧ (s.evalOcv o current).now = s.now ∧
    (s.evalOcv o current).smc = s.smc ∧ (s.evalOcv o current).clp = s.clp ∧ (s.evalOcv o current).tbm = s.tbm ∧
    (s.evalOcv o current).ckt = s.ckt ∧ (s.evalOcv o current).asc = s.asc ∧ (s.evalOcv o current).ceu = s.ceu ∧
    (s.evalOcv o current).phc = s.phc ∧ (s.evalOcv o current).tga = s.tga ∧ (s.evalOcv o current).lfs = s.lfs ∧
    (s.evalOcv o current).fmg = s.fmg ∧ (s.evalOcv o current).trb = s.trb ∧ (s.evalOcv o current).cst = s.cst ∧
    (s.evalOcv o current).freeCount = s.freeCount := by
  unfold State.evalOcv
  all_goals (try dsimp only)
  all_goals ((repeat' split) <;> simp -implicitDefEqProofs)

@[simp] theorem State.evalLs_keeps (s : State) (o : LineAB) (current : Bool) :
    (s.evalLs o current).pending = s.pending ∧ (s.evalLs o current).now = s.now ∧ (s.evalLs o current).smc = s.smc ∧
    (s.evalLs o current).clp = s.clp ∧ (s.evalLs o current).tbm = s.tbm ∧ (s.evalLs o current).ckt = s.ckt ∧
    (s.evalLs o current).asc = s.asc ∧ (s.evalLs o current).ceu = s.ceu ∧ (s.evalLs o current).phc = s.phc ∧
    (s.evalLs o current).tga = s.tga ∧ (s.evalLs o current).lfs = s.lfs ∧ (s.evalLs o current).fmg = s.fmg ∧
    (s.evalLs o current).trb = s.trb ∧ (s.evalLs o current).cst = s.cst ∧ (s.evalLs o current).freeCount = s.freeCount := by
  unfold State.evalLs
  all_goals (try dsimp only)
  all_goals ((repeat' split) <;> simp -implicitDefEqProofs)

@[simp] theorem State.evalOut_keeps (s : State) (out : Out) (current : Bool) :
    (s.evalOut out current).pending = s.pending ∧ (s.evalOut out current).now = s.now ∧
    (s.evalOut out current).smc = s.smc ∧ (s.evalOut out current).clp = s.clp ∧ (s.evalOut out current).tbm = s.tbm ∧
    (s.evalOut out current).ckt = s.ckt ∧ (s.evalOut out current).asc = s.asc ∧ (s.evalOut out current).ceu = s.ceu ∧
    (s.evalOut out current).phc = s.phc ∧ (s.evalOut out current).tga = s.tga ∧ (s.evalOut out current).lfs = s.lfs ∧
    (s.evalOut out current).fmg = s.fmg ∧ (s.evalOut out current).trb = s.trb ∧ (s.evalOut out current).cst = s.cst ∧
    (s.evalOut out current).freeCount = s.freeCount := by
  unfold State.evalOut
  all_goals (try dsimp only)
  all_goals ((repeat' split) <;> simp -implicitDefEqProofs)

@[simp] theorem State.normalWrite_keeps (s : State) (o : LineABCD) (d : Nat) :
    (s.normalWrite o d).pending = s.pending ∧ (s.normalWrite o d).now = s.now ∧
    (s.normalWrite o d).handovers = s.handovers ∧ (s.normalWrite o d).smc = s.smc ∧ (s.normalWrite o d).clp = s.clp ∧
    (s.normalWrite o d).tbm = s.tbm ∧ (s.normalWrite o d).ckt = s.ckt ∧ (s.normalWrite o d).asc = s.asc ∧
    (s.normalWrite o d).ceu = s.ceu ∧ (s.normalWrite o d).phc = s.phc ∧ (s.normalWrite o d).tga = s.tga ∧
    (s.normalWrite o d).lfs = s.lfs ∧ (s.normalWrite o d).fmg = s.fmg ∧ (s.normalWrite o d).trb = s.trb ∧
    (s.normalWrite o d).cst = s.cst ∧ (s.normalWrite o d).freeCount = s.freeCount := by
  unfold State.normalWrite
  all_goals (try dsimp only)
  all_goals ((repeat' split) <;> simp -implicitDefEqProofs)

@[simp] theorem State.immediateWrite_keeps (s : State) (o : LineABCD) (d : Nat) (current : Bool) :
    (s.immediateWrite o d current).pending = s.pending ∧ (s.immediateWrite o d current).now = s.now ∧
    (s.immediateWrite o d current).smc = s.smc ∧ (s.immediateWrite o d current).clp = s.clp ∧
    (s.immediateWrite o d current).tbm = s.tbm ∧ (s.immediateWrite o d current).ckt = s.ckt ∧
    (s.immediateWrite o d current).asc = s.asc ∧ (s.immediateWrite o d current).ceu = s.ceu ∧
    (s.immediateWrite o d current).phc = s.phc ∧ (s.immediateWrite o d current).tga = s.tga ∧
    (s.immediateWrite o d current).lfs = s.lfs ∧ (s.immediateWrite o d current).fmg = s.fmg ∧
    (s.immediateWrite o d current).trb = s.trb ∧ (s.immediateWrite o d current).cst = s.cst ∧
    (s.immediateWrite o d current).freeCount = s.freeCount := by
  unfold State.immediateWrite
  all_goals (try dsimp only)
  all_goals ((repeat' split) <;> simp -implicitDefEqProofs)

@[simp] theorem State.energizeLs_keeps (s : State) (o : LineAB) :
    (s.energizeLs o).pending = s.pending ∧ (s.energizeLs o).now = s.now ∧ (s.energizeLs o).handovers = s.handovers ∧
    (s.energizeLs o).smc = s.smc ∧ (s.energizeLs o).clp = s.clp ∧ (s.energizeLs o).tbm = s.tbm ∧
    (s.energizeLs o).ckt = s.ckt ∧ (s.energizeLs o).asc = s.asc ∧ (s.energizeLs o).ceu = s.ceu ∧
    (s.energizeLs o).phc = s.phc ∧ (s.energizeLs o).tga = s.tga ∧ (s.energizeLs o).lfs = s.lfs ∧
    (s.energizeLs o).fmg = s.fmg ∧ (s.energizeLs o).trb = s.trb ∧ (s.energizeLs o).cst = s.cst ∧
    (s.energizeLs o).freeCount = s.freeCount := by
  unfold State.energizeLs
  all_goals (try dsimp only)
  all_goals ((repeat' split) <;> simp -implicitDefEqProofs)

@[simp] theorem State.trip_keeps (s : State) (out : Out) :
    (s.trip out).pending = s.pending ∧ (s.trip out).now = s.now ∧ (s.trip out).smc = s.smc ∧
    (s.trip out).clp = s.clp ∧ (s.trip out).tbm = s.tbm ∧ (s.trip out).ckt = s.ckt ∧ (s.trip out).asc = s.asc ∧
    (s.trip out).ceu = s.ceu ∧ (s.trip out).phc = s.phc ∧ (s.trip out).tga = s.tga ∧ (s.trip out).lfs = s.lfs ∧
    (s.trip out).fmg = s.fmg ∧ (s.trip out).trb = s.trb ∧ (s.trip out).cst = s.cst ∧
    (s.trip out).freeCount = s.freeCount := by
  unfold State.trip
  all_goals (try dsimp only)
  all_goals ((repeat' split) <;> simp -implicitDefEqProofs)

@[simp] theorem State.untrip_keeps (s : State) (out : Out) :
    (s.untrip out).pending = s.pending ∧ (s.untrip out).now = s.now ∧ (s.untrip out).handovers = s.handovers ∧
    (s.untrip out).smc = s.smc ∧ (s.untrip out).clp = s.clp ∧ (s.untrip out).tbm = s.tbm ∧
    (s.untrip out).ckt = s.ckt ∧ (s.untrip out).asc = s.asc ∧ (s.untrip out).ceu = s.ceu ∧
    (s.untrip out).phc = s.phc ∧ (s.untrip out).tga = s.tga ∧ (s.untrip out).lfs = s.lfs ∧
    (s.untrip out).fmg = s.fmg ∧ (s.untrip out).trb = s.trb ∧ (s.untrip out).cst = s.cst ∧
    (s.untrip out).freeCount = s.freeCount := by
  unfold State.untrip
  all_goals (try dsimp only)
  all_goals ((repeat' split) <;> simp -implicitDefEqProofs)

@[simp] theorem State.vdrEnterOcv_keeps (s : State) (o : LineABCD) :
    (s.vdrEnterOcv o).pending = s.pending ∧ (s.vdrEnterOcv o).now = s.now ∧ (s.vdrEnterOcv o).smc = s.smc ∧
    (s.vdrEnterOcv o).clp = s.clp ∧ (s.vdrEnterOcv o).tbm = s.tbm ∧ (s.vdrEnterOcv o).ckt = s.ckt ∧
    (s.vdrEnterOcv o).asc = s.asc ∧ (s.vdrEnterOcv o).ceu = s.ceu ∧ (s.vdrEnterOcv o).phc = s.phc ∧
    (s.vdrEnterOcv o).tga = s.tga ∧ (s.vdrEnterOcv o).lfs = s.lfs ∧ (s.vdrEnterOcv o).fmg = s.fmg ∧
    (s.vdrEnterOcv o).trb = s.trb ∧ (s.vdrEnterOcv o).cst = s.cst ∧ (s.vdrEnterOcv o).freeCount = s.freeCount := by
  unfold State.vdrEnterOcv
  all_goals (try dsimp only)
  all_goals ((repeat' split) <;> simp -implicitDefEqProofs)

@[simp] theorem State.vdrEnterLs_keeps (s : State) (o : LineAB) :
    (s.vdrEnterLs o).pending = s.pending ∧ (s.vdrEnterLs o).now = s.now ∧ (s.vdrEnterLs o).smc = s.smc ∧
    (s.vdrEnterLs o).clp = s.clp ∧ (s.vdrEnterLs o).tbm = s.tbm ∧ (s.vdrEnterLs o).ckt = s.ckt ∧
    (s.vdrEnterLs o).asc = s.asc ∧ (s.vdrEnterLs o).ceu = s.ceu ∧ (s.vdrEnterLs o).phc = s.phc ∧
    (s.vdrEnterLs o).tga = s.tga ∧ (s.vdrEnterLs o).lfs = s.lfs ∧ (s.vdrEnterLs o).fmg = s.fmg ∧
    (s.vdrEnterLs o).trb = s.trb ∧ (s.vdrEnterLs o).cst = s.cst ∧ (s.vdrEnterLs o).freeCount = s.freeCount := by
  unfold State.vdrEnterLs
  all_goals (try dsimp only)
  all_goals ((repeat' split) <;> simp -implicitDefEqProofs)

@[simp] theorem State.dropDrives_keeps (s : State) :
    s.dropDrives.handovers = s.handovers.filter (fun h => !allOuts.any fun out => h.drives out) ∧
    s.dropDrives.pending = s.pending ∧ s.dropDrives.now = s.now ∧ s.dropDrives.smc = s.smc ∧
    s.dropDrives.clp = s.clp ∧ s.dropDrives.tbm = s.tbm ∧ s.dropDrives.ckt = s.ckt ∧ s.dropDrives.asc = s.asc ∧
    s.dropDrives.ceu = s.ceu ∧ s.dropDrives.phc = s.phc ∧ s.dropDrives.tga = s.tga ∧ s.dropDrives.vdr = s.vdr ∧
    s.dropDrives.lfs = s.lfs ∧ s.dropDrives.fmg = s.fmg ∧ s.dropDrives.trb = s.trb ∧ s.dropDrives.cst = s.cst ∧
    s.dropDrives.freeCount = s.freeCount := by
  simp [State.dropDrives]

@[simp] theorem State.vdrEnterRun_keeps (s : State) :
    s.vdrEnterRun.pending = s.pending ∧ s.vdrEnterRun.now = s.now ∧ s.vdrEnterRun.smc = s.smc ∧
    s.vdrEnterRun.clp = s.clp ∧ s.vdrEnterRun.tbm = s.tbm ∧ s.vdrEnterRun.ckt = s.ckt ∧ s.vdrEnterRun.asc = s.asc ∧
    s.vdrEnterRun.ceu = s.ceu ∧ s.vdrEnterRun.phc = s.phc ∧ s.vdrEnterRun.tga = s.tga ∧ s.vdrEnterRun.lfs = s.lfs ∧
    s.vdrEnterRun.fmg = s.fmg ∧ s.vdrEnterRun.trb = s.trb ∧ s.vdrEnterRun.cst = s.cst ∧
    s.vdrEnterRun.freeCount = s.freeCount := by
  unfold State.vdrEnterRun
  all_goals (try dsimp only)
  all_goals ((repeat' split) <;> simp -implicitDefEqProofs)

@[simp] theorem State.vdrLeaveRun_keeps (s : State) (seen : LoadSeen) :
    (s.vdrLeaveRun seen).pending = s.pending ∧ (s.vdrLeaveRun seen).now = s.now ∧ (s.vdrLeaveRun seen).smc = s.smc ∧
    (s.vdrLeaveRun seen).clp = s.clp ∧ (s.vdrLeaveRun seen).tbm = s.tbm ∧ (s.vdrLeaveRun seen).ckt = s.ckt ∧
    (s.vdrLeaveRun seen).asc = s.asc ∧ (s.vdrLeaveRun seen).ceu = s.ceu ∧ (s.vdrLeaveRun seen).phc = s.phc ∧
    (s.vdrLeaveRun seen).tga = s.tga ∧ (s.vdrLeaveRun seen).lfs = s.lfs ∧ (s.vdrLeaveRun seen).fmg = s.fmg ∧
    (s.vdrLeaveRun seen).trb = s.trb ∧ (s.vdrLeaveRun seen).cst = s.cst ∧ (s.vdrLeaveRun seen).freeCount = s.freeCount := by
  unfold State.vdrLeaveRun
  all_goals (try dsimp only)
  all_goals ((repeat' split) <;> simp -implicitDefEqProofs)

@[simp] theorem State.agreement_keeps (s : State) :
    s.agreement.pending = s.pending ∧ s.agreement.now = s.now ∧ s.agreement.smc = s.smc ∧ s.agreement.clp = s.clp ∧
    s.agreement.tbm = s.tbm ∧ s.agreement.ckt = s.ckt ∧ s.agreement.asc = s.asc ∧ s.agreement.ceu = s.ceu ∧
    s.agreement.phc = s.phc ∧ s.agreement.tga = s.tga ∧ s.agreement.vdr = s.vdr ∧ s.agreement.fmg = s.fmg ∧
    s.agreement.trb = s.trb ∧ s.agreement.cst = s.cst ∧ s.agreement.freeCount = s.freeCount := by
  unfold State.agreement
  all_goals (try dsimp only)
  all_goals ((repeat' split) <;> simp -implicitDefEqProofs)

@[simp] theorem State.setLift_keeps (s : State) (u : LiftUnit) (new : LiftState) (cause : LiftCause) :
    (s.setLift u new cause).pending = s.pending ∧ (s.setLift u new cause).now = s.now ∧
    (s.setLift u new cause).smc = s.smc ∧ (s.setLift u new cause).clp = s.clp ∧ (s.setLift u new cause).tbm = s.tbm ∧
    (s.setLift u new cause).ckt = s.ckt ∧ (s.setLift u new cause).asc = s.asc ∧ (s.setLift u new cause).ceu = s.ceu ∧
    (s.setLift u new cause).phc = s.phc ∧ (s.setLift u new cause).tga = s.tga ∧ (s.setLift u new cause).vdr = s.vdr ∧
    (s.setLift u new cause).fmg = s.fmg ∧ (s.setLift u new cause).trb = s.trb ∧ (s.setLift u new cause).cst = s.cst ∧
    (s.setLift u new cause).freeCount = s.freeCount := by
  unfold State.setLift
  all_goals (try dsimp only)
  all_goals ((repeat' split) <;> simp -implicitDefEqProofs)

@[simp] theorem State.enterLift_keeps (s : State) (u : LiftUnit) (new : LiftState) (cause : LiftCause) :
    (s.enterLift u new cause).pending = s.pending ∧ (s.enterLift u new cause).now = s.now ∧
    (s.enterLift u new cause).smc = s.smc ∧ (s.enterLift u new cause).clp = s.clp ∧
    (s.enterLift u new cause).tbm = s.tbm ∧ (s.enterLift u new cause).ckt = s.ckt ∧
    (s.enterLift u new cause).asc = s.asc ∧ (s.enterLift u new cause).ceu = s.ceu ∧
    (s.enterLift u new cause).phc = s.phc ∧ (s.enterLift u new cause).tga = s.tga ∧
    (s.enterLift u new cause).vdr = s.vdr ∧ (s.enterLift u new cause).fmg = s.fmg ∧
    (s.enterLift u new cause).trb = s.trb ∧ (s.enterLift u new cause).cst = s.cst ∧
    (s.enterLift u new cause).freeCount = s.freeCount := by
  unfold State.enterLift
  all_goals (try dsimp only)
  all_goals ((repeat' split) <;> simp -implicitDefEqProofs)

@[simp] theorem State.settle_keeps (s : State) (u : LiftUnit) (cause : LiftCause) :
    (s.settle u cause).pending = s.pending ∧ (s.settle u cause).now = s.now ∧ (s.settle u cause).smc = s.smc ∧
    (s.settle u cause).clp = s.clp ∧ (s.settle u cause).tbm = s.tbm ∧ (s.settle u cause).ckt = s.ckt ∧
    (s.settle u cause).asc = s.asc ∧ (s.settle u cause).ceu = s.ceu ∧ (s.settle u cause).phc = s.phc ∧
    (s.settle u cause).tga = s.tga ∧ (s.settle u cause).vdr = s.vdr ∧ (s.settle u cause).fmg = s.fmg ∧
    (s.settle u cause).trb = s.trb ∧ (s.settle u cause).cst = s.cst ∧ (s.settle u cause).freeCount = s.freeCount := by
  unfold State.settle
  all_goals (try dsimp only)
  all_goals ((repeat' split) <;> simp -implicitDefEqProofs)

@[simp] theorem State.releaseClaim_keeps (s : State) (u : LiftUnit) :
    (s.releaseClaim u).pending = s.pending ∧ (s.releaseClaim u).now = s.now ∧ (s.releaseClaim u).smc = s.smc ∧
    (s.releaseClaim u).clp = s.clp ∧ (s.releaseClaim u).tbm = s.tbm ∧ (s.releaseClaim u).ckt = s.ckt ∧
    (s.releaseClaim u).asc = s.asc ∧ (s.releaseClaim u).ceu = s.ceu ∧ (s.releaseClaim u).phc = s.phc ∧
    (s.releaseClaim u).tga = s.tga ∧ (s.releaseClaim u).vdr = s.vdr ∧ (s.releaseClaim u).fmg = s.fmg ∧
    (s.releaseClaim u).trb = s.trb ∧ (s.releaseClaim u).cst = s.cst ∧ (s.releaseClaim u).freeCount = s.freeCount := by
  unfold State.releaseClaim
  all_goals (try dsimp only)
  all_goals ((repeat' split) <;> simp -implicitDefEqProofs)

@[simp] theorem State.drive_keeps (s : State) (u : LiftUnit) (on : Bool) :
    (s.drive u on).pending = s.pending ∧ (s.drive u on).now = s.now ∧ (s.drive u on).smc = s.smc ∧
    (s.drive u on).clp = s.clp ∧ (s.drive u on).tbm = s.tbm ∧ (s.drive u on).ckt = s.ckt ∧
    (s.drive u on).asc = s.asc ∧ (s.drive u on).ceu = s.ceu ∧ (s.drive u on).phc = s.phc ∧
    (s.drive u on).tga = s.tga ∧ (s.drive u on).vdr = s.vdr ∧ (s.drive u on).lfs = s.lfs ∧
    (s.drive u on).fmg = s.fmg ∧ (s.drive u on).trb = s.trb ∧ (s.drive u on).cst = s.cst ∧
    (s.drive u on).freeCount = s.freeCount := by
  unfold State.drive
  all_goals (try dsimp only)
  all_goals ((repeat' split) <;> simp -implicitDefEqProofs)

@[simp] theorem State.endTravel_keeps (s : State) (u : LiftUnit) :
    (s.endTravel u).pending = s.pending ∧ (s.endTravel u).now = s.now ∧ (s.endTravel u).smc = s.smc ∧
    (s.endTravel u).clp = s.clp ∧ (s.endTravel u).tbm = s.tbm ∧ (s.endTravel u).ckt = s.ckt ∧
    (s.endTravel u).asc = s.asc ∧ (s.endTravel u).ceu = s.ceu ∧ (s.endTravel u).phc = s.phc ∧
    (s.endTravel u).tga = s.tga ∧ (s.endTravel u).vdr = s.vdr ∧ (s.endTravel u).fmg = s.fmg ∧
    (s.endTravel u).trb = s.trb ∧ (s.endTravel u).cst = s.cst ∧ (s.endTravel u).freeCount = s.freeCount := by
  unfold State.endTravel
  all_goals (try dsimp only)
  all_goals ((repeat' split) <;> simp -implicitDefEqProofs)

@[simp] theorem State.pairCheck_keeps (s : State) (cycle : Word32) :
    (s.pairCheck cycle).pending = s.pending ∧ (s.pairCheck cycle).now = s.now ∧ (s.pairCheck cycle).smc = s.smc ∧
    (s.pairCheck cycle).clp = s.clp ∧ (s.pairCheck cycle).tbm = s.tbm ∧ (s.pairCheck cycle).ckt = s.ckt ∧
    (s.pairCheck cycle).asc = s.asc ∧ (s.pairCheck cycle).ceu = s.ceu ∧ (s.pairCheck cycle).phc = s.phc ∧
    (s.pairCheck cycle).tga = s.tga ∧ (s.pairCheck cycle).vdr = s.vdr ∧ (s.pairCheck cycle).fmg = s.fmg ∧
    (s.pairCheck cycle).trb = s.trb ∧ (s.pairCheck cycle).cst = s.cst ∧ (s.pairCheck cycle).freeCount = s.freeCount := by
  unfold State.pairCheck
  all_goals (try dsimp only)
  all_goals ((repeat' split) <;> simp -implicitDefEqProofs)

@[simp] theorem State.positionCheck_keeps (s : State) (u : LiftUnit) (high : Bool) :
    (s.positionCheck u high).pending = s.pending ∧ (s.positionCheck u high).now = s.now ∧
    (s.positionCheck u high).smc = s.smc ∧ (s.positionCheck u high).clp = s.clp ∧
    (s.positionCheck u high).tbm = s.tbm ∧ (s.positionCheck u high).ckt = s.ckt ∧
    (s.positionCheck u high).asc = s.asc ∧ (s.positionCheck u high).ceu = s.ceu ∧
    (s.positionCheck u high).phc = s.phc ∧ (s.positionCheck u high).tga = s.tga ∧
    (s.positionCheck u high).vdr = s.vdr ∧ (s.positionCheck u high).fmg = s.fmg ∧
    (s.positionCheck u high).trb = s.trb ∧ (s.positionCheck u high).cst = s.cst ∧
    (s.positionCheck u high).freeCount = s.freeCount := by
  unfold State.positionCheck
  all_goals (try dsimp only)
  all_goals ((repeat' split) <;> simp -implicitDefEqProofs)

@[simp] theorem State.startSwitch_keeps (s : State) (u : LiftUnit) (high : Bool) :
    (s.startSwitch u high).pending = s.pending ∧ (s.startSwitch u high).now = s.now ∧
    (s.startSwitch u high).smc = s.smc ∧ (s.startSwitch u high).clp = s.clp ∧ (s.startSwitch u high).tbm = s.tbm ∧
    (s.startSwitch u high).ckt = s.ckt ∧ (s.startSwitch u high).asc = s.asc ∧ (s.startSwitch u high).ceu = s.ceu ∧
    (s.startSwitch u high).phc = s.phc ∧ (s.startSwitch u high).tga = s.tga ∧ (s.startSwitch u high).vdr = s.vdr ∧
    (s.startSwitch u high).fmg = s.fmg ∧ (s.startSwitch u high).trb = s.trb ∧ (s.startSwitch u high).cst = s.cst ∧
    (s.startSwitch u high).freeCount = s.freeCount := by
  unfold State.startSwitch
  all_goals (try dsimp only)
  all_goals ((repeat' split) <;> simp -implicitDefEqProofs)

@[simp] theorem State.decideUnit_keeps (s : State) (u : LiftUnit) (cycle : Word32) :
    (s.decideUnit u cycle).pending = s.pending ∧ (s.decideUnit u cycle).now = s.now ∧
    (s.decideUnit u cycle).smc = s.smc ∧ (s.decideUnit u cycle).clp = s.clp ∧ (s.decideUnit u cycle).tbm = s.tbm ∧
    (s.decideUnit u cycle).ckt = s.ckt ∧ (s.decideUnit u cycle).asc = s.asc ∧ (s.decideUnit u cycle).ceu = s.ceu ∧
    (s.decideUnit u cycle).phc = s.phc ∧ (s.decideUnit u cycle).tga = s.tga ∧ (s.decideUnit u cycle).vdr = s.vdr ∧
    (s.decideUnit u cycle).fmg = s.fmg ∧ (s.decideUnit u cycle).trb = s.trb ∧ (s.decideUnit u cycle).cst = s.cst ∧
    (s.decideUnit u cycle).freeCount = s.freeCount := by
  unfold State.decideUnit
  all_goals (try dsimp only)
  all_goals ((repeat' split) <;> simp -implicitDefEqProofs)

@[simp] theorem State.liftDecide_keeps (s : State) (u : LiftUnit) (cycle : Word32) :
    (s.liftDecide u cycle).pending = s.pending ∧ (s.liftDecide u cycle).now = s.now ∧
    (s.liftDecide u cycle).smc = s.smc ∧ (s.liftDecide u cycle).clp = s.clp ∧ (s.liftDecide u cycle).tbm = s.tbm ∧
    (s.liftDecide u cycle).ckt = s.ckt ∧ (s.liftDecide u cycle).asc = s.asc ∧ (s.liftDecide u cycle).ceu = s.ceu ∧
    (s.liftDecide u cycle).phc = s.phc ∧ (s.liftDecide u cycle).tga = s.tga ∧ (s.liftDecide u cycle).vdr = s.vdr ∧
    (s.liftDecide u cycle).fmg = s.fmg ∧ (s.liftDecide u cycle).trb = s.trb ∧ (s.liftDecide u cycle).cst = s.cst ∧
    (s.liftDecide u cycle).freeCount = s.freeCount := by
  unfold State.liftDecide
  all_goals (try dsimp only)
  all_goals ((repeat' split) <;> simp -implicitDefEqProofs)

@[simp] theorem State.withdraw_keeps (s : State) (u : LiftUnit) (high : Bool) :
    (s.withdraw u high).pending = s.pending ∧ (s.withdraw u high).now = s.now ∧ (s.withdraw u high).smc = s.smc ∧
    (s.withdraw u high).clp = s.clp ∧ (s.withdraw u high).tbm = s.tbm ∧ (s.withdraw u high).ckt = s.ckt ∧
    (s.withdraw u high).asc = s.asc ∧ (s.withdraw u high).ceu = s.ceu ∧ (s.withdraw u high).phc = s.phc ∧
    (s.withdraw u high).tga = s.tga ∧ (s.withdraw u high).vdr = s.vdr ∧ (s.withdraw u high).fmg = s.fmg ∧
    (s.withdraw u high).trb = s.trb ∧ (s.withdraw u high).cst = s.cst ∧ (s.withdraw u high).freeCount = s.freeCount := by
  unfold State.withdraw
  all_goals (try dsimp only)
  all_goals ((repeat' split) <;> simp -implicitDefEqProofs)

@[simp] theorem State.openWindow_keeps (s : State) (u : LiftUnit) (high : Bool) :
    (s.openWindow u high).pending = s.pending ∧ (s.openWindow u high).now = s.now ∧
    (s.openWindow u high).smc = s.smc ∧ (s.openWindow u high).clp = s.clp ∧ (s.openWindow u high).tbm = s.tbm ∧
    (s.openWindow u high).ckt = s.ckt ∧ (s.openWindow u high).asc = s.asc ∧ (s.openWindow u high).ceu = s.ceu ∧
    (s.openWindow u high).phc = s.phc ∧ (s.openWindow u high).tga = s.tga ∧ (s.openWindow u high).vdr = s.vdr ∧
    (s.openWindow u high).fmg = s.fmg ∧ (s.openWindow u high).trb = s.trb ∧ (s.openWindow u high).cst = s.cst ∧
    (s.openWindow u high).freeCount = s.freeCount := by
  unfold State.openWindow
  all_goals (try dsimp only)
  all_goals ((repeat' split) <;> simp -implicitDefEqProofs)

@[simp] theorem State.liftOpen_keeps (s : State) (u : LiftUnit) :
    (s.liftOpen u).pending = s.pending ∧ (s.liftOpen u).now = s.now ∧ (s.liftOpen u).smc = s.smc ∧
    (s.liftOpen u).clp = s.clp ∧ (s.liftOpen u).tbm = s.tbm ∧ (s.liftOpen u).ckt = s.ckt ∧
    (s.liftOpen u).asc = s.asc ∧ (s.liftOpen u).ceu = s.ceu ∧ (s.liftOpen u).phc = s.phc ∧
    (s.liftOpen u).tga = s.tga ∧ (s.liftOpen u).vdr = s.vdr ∧ (s.liftOpen u).fmg = s.fmg ∧
    (s.liftOpen u).trb = s.trb ∧ (s.liftOpen u).cst = s.cst ∧ (s.liftOpen u).freeCount = s.freeCount := by
  unfold State.liftOpen
  all_goals (try dsimp only)
  all_goals ((repeat' split) <;> simp -implicitDefEqProofs)

@[simp] theorem State.pairRule_keeps (s : State) (u : LiftUnit) (high : Bool) (cycle : Word32) :
    (s.pairRule u high cycle).pending = s.pending ∧ (s.pairRule u high cycle).now = s.now ∧
    (s.pairRule u high cycle).handovers = s.handovers ∧ (s.pairRule u high cycle).smc = s.smc ∧
    (s.pairRule u high cycle).clp = s.clp ∧ (s.pairRule u high cycle).tbm = s.tbm ∧
    (s.pairRule u high cycle).ckt = s.ckt ∧ (s.pairRule u high cycle).asc = s.asc ∧
    (s.pairRule u high cycle).ceu = s.ceu ∧ (s.pairRule u high cycle).phc = s.phc ∧
    (s.pairRule u high cycle).tga = s.tga ∧ (s.pairRule u high cycle).vdr = s.vdr ∧
    (s.pairRule u high cycle).fmg = s.fmg ∧ (s.pairRule u high cycle).trb = s.trb ∧
    (s.pairRule u high cycle).cst = s.cst ∧ (s.pairRule u high cycle).freeCount = s.freeCount := by
  unfold State.pairRule
  all_goals (try dsimp only)
  all_goals ((repeat' split) <;> simp -implicitDefEqProofs)

@[simp] theorem State.closeLift_keeps (s : State) (u : LiftUnit) (high : Bool) (cycle : Word32) :
    (s.closeLift u high cycle).pending = s.pending ∧ (s.closeLift u high cycle).now = s.now ∧
    (s.closeLift u high cycle).smc = s.smc ∧ (s.closeLift u high cycle).clp = s.clp ∧
    (s.closeLift u high cycle).tbm = s.tbm ∧ (s.closeLift u high cycle).ckt = s.ckt ∧
    (s.closeLift u high cycle).asc = s.asc ∧ (s.closeLift u high cycle).ceu = s.ceu ∧
    (s.closeLift u high cycle).phc = s.phc ∧ (s.closeLift u high cycle).tga = s.tga ∧
    (s.closeLift u high cycle).vdr = s.vdr ∧ (s.closeLift u high cycle).fmg = s.fmg ∧
    (s.closeLift u high cycle).trb = s.trb ∧ (s.closeLift u high cycle).cst = s.cst ∧
    (s.closeLift u high cycle).freeCount = s.freeCount := by
  unfold State.closeLift
  all_goals (try dsimp only)
  all_goals ((repeat' split) <;> simp -implicitDefEqProofs)

@[simp] theorem State.liftClose_keeps (s : State) (u : LiftUnit) (cycle : Word32) :
    (s.liftClose u cycle).pending = s.pending ∧ (s.liftClose u cycle).now = s.now ∧
    (s.liftClose u cycle).smc = s.smc ∧ (s.liftClose u cycle).clp = s.clp ∧ (s.liftClose u cycle).tbm = s.tbm ∧
    (s.liftClose u cycle).ckt = s.ckt ∧ (s.liftClose u cycle).asc = s.asc ∧ (s.liftClose u cycle).ceu = s.ceu ∧
    (s.liftClose u cycle).phc = s.phc ∧ (s.liftClose u cycle).tga = s.tga ∧ (s.liftClose u cycle).vdr = s.vdr ∧
    (s.liftClose u cycle).fmg = s.fmg ∧ (s.liftClose u cycle).trb = s.trb ∧ (s.liftClose u cycle).cst = s.cst ∧
    (s.liftClose u cycle).freeCount = s.freeCount := by
  unfold State.liftClose
  all_goals (try dsimp only)
  all_goals ((repeat' split) <;> simp -implicitDefEqProofs)

@[simp] theorem State.sampleInput_keeps (s : State) (i : LineAB) (high : Bool) :
    (s.sampleInput i high).pending = s.pending ∧ (s.sampleInput i high).now = s.now ∧
    (s.sampleInput i high).smc = s.smc ∧ (s.sampleInput i high).clp = s.clp ∧ (s.sampleInput i high).tbm = s.tbm ∧
    (s.sampleInput i high).ckt = s.ckt ∧ (s.sampleInput i high).asc = s.asc ∧ (s.sampleInput i high).ceu = s.ceu ∧
    (s.sampleInput i high).phc = s.phc ∧ (s.sampleInput i high).tga = s.tga ∧ (s.sampleInput i high).vdr = s.vdr ∧
    (s.sampleInput i high).fmg = s.fmg ∧ (s.sampleInput i high).trb = s.trb ∧ (s.sampleInput i high).cst = s.cst ∧
    (s.sampleInput i high).freeCount = s.freeCount := by
  unfold State.sampleInput
  all_goals (try dsimp only)
  all_goals ((repeat' split) <;> simp -implicitDefEqProofs)

@[simp] theorem State.takesSense_keeps (s : State) (u : LiftUnit) (high : Bool) :
    (s.takesSense u high).pending = s.pending ∧ (s.takesSense u high).now = s.now ∧
    (s.takesSense u high).smc = s.smc ∧ (s.takesSense u high).clp = s.clp ∧ (s.takesSense u high).tbm = s.tbm ∧
    (s.takesSense u high).ckt = s.ckt ∧ (s.takesSense u high).asc = s.asc ∧ (s.takesSense u high).ceu = s.ceu ∧
    (s.takesSense u high).phc = s.phc ∧ (s.takesSense u high).tga = s.tga ∧ (s.takesSense u high).vdr = s.vdr ∧
    (s.takesSense u high).fmg = s.fmg ∧ (s.takesSense u high).trb = s.trb ∧ (s.takesSense u high).cst = s.cst ∧
    (s.takesSense u high).freeCount = s.freeCount := by
  unfold State.takesSense
  all_goals (try dsimp only)
  all_goals ((repeat' split) <;> simp -implicitDefEqProofs)

@[simp] theorem State.liftLockLost_keeps (s : State) (u : LiftUnit) :
    (s.liftLockLost u).pending = s.pending ∧ (s.liftLockLost u).now = s.now ∧ (s.liftLockLost u).smc = s.smc ∧
    (s.liftLockLost u).clp = s.clp ∧ (s.liftLockLost u).tbm = s.tbm ∧ (s.liftLockLost u).ckt = s.ckt ∧
    (s.liftLockLost u).asc = s.asc ∧ (s.liftLockLost u).ceu = s.ceu ∧ (s.liftLockLost u).phc = s.phc ∧
    (s.liftLockLost u).tga = s.tga ∧ (s.liftLockLost u).vdr = s.vdr ∧ (s.liftLockLost u).fmg = s.fmg ∧
    (s.liftLockLost u).trb = s.trb ∧ (s.liftLockLost u).cst = s.cst ∧ (s.liftLockLost u).freeCount = s.freeCount := by
  unfold State.liftLockLost
  all_goals (try dsimp only)
  all_goals ((repeat' split) <;> simp -implicitDefEqProofs)

@[simp] theorem State.endLiftTest_keeps (s : State) (u : LiftUnit) (cause : LiftCause) :
    (s.endLiftTest u cause).pending = s.pending ∧ (s.endLiftTest u cause).now = s.now ∧
    (s.endLiftTest u cause).smc = s.smc ∧ (s.endLiftTest u cause).clp = s.clp ∧ (s.endLiftTest u cause).tbm = s.tbm ∧
    (s.endLiftTest u cause).ckt = s.ckt ∧ (s.endLiftTest u cause).asc = s.asc ∧ (s.endLiftTest u cause).ceu = s.ceu ∧
    (s.endLiftTest u cause).phc = s.phc ∧ (s.endLiftTest u cause).tga = s.tga ∧ (s.endLiftTest u cause).vdr = s.vdr ∧
    (s.endLiftTest u cause).fmg = s.fmg ∧ (s.endLiftTest u cause).trb = s.trb ∧ (s.endLiftTest u cause).cst = s.cst ∧
    (s.endLiftTest u cause).freeCount = s.freeCount := by
  unfold State.endLiftTest
  all_goals (try dsimp only)
  all_goals ((repeat' split) <;> simp -implicitDefEqProofs)

@[simp] theorem State.stickUnit_keeps (s : State) (u : LiftUnit) :
    (s.stickUnit u).pending = s.pending ∧ (s.stickUnit u).now = s.now ∧ (s.stickUnit u).smc = s.smc ∧
    (s.stickUnit u).clp = s.clp ∧ (s.stickUnit u).tbm = s.tbm ∧ (s.stickUnit u).ckt = s.ckt ∧
    (s.stickUnit u).asc = s.asc ∧ (s.stickUnit u).ceu = s.ceu ∧ (s.stickUnit u).phc = s.phc ∧
    (s.stickUnit u).tga = s.tga ∧ (s.stickUnit u).vdr = s.vdr ∧ (s.stickUnit u).fmg = s.fmg ∧
    (s.stickUnit u).trb = s.trb ∧ (s.stickUnit u).cst = s.cst ∧ (s.stickUnit u).freeCount = s.freeCount := by
  unfold State.stickUnit
  all_goals (try dsimp only)
  all_goals ((repeat' split) <;> simp -implicitDefEqProofs)

@[simp] theorem State.clearUnit_keeps (s : State) (u : LiftUnit) :
    (s.clearUnit u).pending = s.pending ∧ (s.clearUnit u).now = s.now ∧ (s.clearUnit u).smc = s.smc ∧
    (s.clearUnit u).clp = s.clp ∧ (s.clearUnit u).tbm = s.tbm ∧ (s.clearUnit u).ckt = s.ckt ∧
    (s.clearUnit u).asc = s.asc ∧ (s.clearUnit u).ceu = s.ceu ∧ (s.clearUnit u).phc = s.phc ∧
    (s.clearUnit u).tga = s.tga ∧ (s.clearUnit u).vdr = s.vdr ∧ (s.clearUnit u).fmg = s.fmg ∧
    (s.clearUnit u).trb = s.trb ∧ (s.clearUnit u).cst = s.cst ∧ (s.clearUnit u).freeCount = s.freeCount := by
  unfold State.clearUnit
  all_goals (try dsimp only)
  all_goals ((repeat' split) <;> simp -implicitDefEqProofs)

@[simp] theorem State.startLiftTest_keeps (s : State) (u : LiftUnit) (time : Nat) :
    (s.startLiftTest u time).pending = s.pending ∧ (s.startLiftTest u time).now = s.now ∧
    (s.startLiftTest u time).smc = s.smc ∧ (s.startLiftTest u time).clp = s.clp ∧
    (s.startLiftTest u time).tbm = s.tbm ∧ (s.startLiftTest u time).ckt = s.ckt ∧
    (s.startLiftTest u time).asc = s.asc ∧ (s.startLiftTest u time).ceu = s.ceu ∧
    (s.startLiftTest u time).phc = s.phc ∧ (s.startLiftTest u time).tga = s.tga ∧
    (s.startLiftTest u time).vdr = s.vdr ∧ (s.startLiftTest u time).fmg = s.fmg ∧
    (s.startLiftTest u time).trb = s.trb ∧ (s.startLiftTest u time).cst = s.cst ∧
    (s.startLiftTest u time).freeCount = s.freeCount := by
  unfold State.startLiftTest
  all_goals (try dsimp only)
  all_goals ((repeat' split) <;> simp -implicitDefEqProofs)

@[simp] theorem State.doTestLift_keeps (s : State) (fields : List Field) :
    (s.doTestLift fields).pending = s.pending ∧ (s.doTestLift fields).now = s.now ∧
    (s.doTestLift fields).smc = s.smc ∧ (s.doTestLift fields).tbm = s.tbm ∧ (s.doTestLift fields).ckt = s.ckt ∧
    (s.doTestLift fields).asc = s.asc ∧ (s.doTestLift fields).ceu = s.ceu ∧ (s.doTestLift fields).phc = s.phc ∧
    (s.doTestLift fields).tga = s.tga ∧ (s.doTestLift fields).vdr = s.vdr ∧ (s.doTestLift fields).fmg = s.fmg ∧
    (s.doTestLift fields).trb = s.trb ∧ (s.doTestLift fields).cst = s.cst ∧
    (s.doTestLift fields).freeCount = s.freeCount := by
  unfold State.doTestLift
  all_goals (try dsimp only)
  all_goals ((repeat' split) <;> simp -implicitDefEqProofs)

@[simp] theorem State.lfsEnterUnit_keeps (s : State) (u : LiftUnit) :
    (s.lfsEnterUnit u).pending = s.pending ∧ (s.lfsEnterUnit u).now = s.now ∧ (s.lfsEnterUnit u).smc = s.smc ∧
    (s.lfsEnterUnit u).clp = s.clp ∧ (s.lfsEnterUnit u).tbm = s.tbm ∧ (s.lfsEnterUnit u).ckt = s.ckt ∧
    (s.lfsEnterUnit u).asc = s.asc ∧ (s.lfsEnterUnit u).ceu = s.ceu ∧ (s.lfsEnterUnit u).phc = s.phc ∧
    (s.lfsEnterUnit u).tga = s.tga ∧ (s.lfsEnterUnit u).vdr = s.vdr ∧ (s.lfsEnterUnit u).fmg = s.fmg ∧
    (s.lfsEnterUnit u).trb = s.trb ∧ (s.lfsEnterUnit u).cst = s.cst ∧ (s.lfsEnterUnit u).freeCount = s.freeCount := by
  unfold State.lfsEnterUnit
  all_goals (try dsimp only)
  all_goals ((repeat' split) <;> simp -implicitDefEqProofs)

@[simp] theorem State.lfsEnterRun_keeps (s : State) :
    s.lfsEnterRun.pending = s.pending ∧ s.lfsEnterRun.now = s.now ∧ s.lfsEnterRun.smc = s.smc ∧
    s.lfsEnterRun.clp = s.clp ∧ s.lfsEnterRun.tbm = s.tbm ∧ s.lfsEnterRun.ckt = s.ckt ∧ s.lfsEnterRun.asc = s.asc ∧
    s.lfsEnterRun.ceu = s.ceu ∧ s.lfsEnterRun.phc = s.phc ∧ s.lfsEnterRun.tga = s.tga ∧ s.lfsEnterRun.vdr = s.vdr ∧
    s.lfsEnterRun.fmg = s.fmg ∧ s.lfsEnterRun.trb = s.trb ∧ s.lfsEnterRun.cst = s.cst ∧
    s.lfsEnterRun.freeCount = s.freeCount := by
  unfold State.lfsEnterRun
  all_goals (try dsimp only)
  all_goals ((repeat' split) <;> simp -implicitDefEqProofs)

@[simp] theorem State.lfsLeaveUnit_keeps (s : State) (u : LiftUnit) :
    (s.lfsLeaveUnit u).pending = s.pending ∧ (s.lfsLeaveUnit u).now = s.now ∧ (s.lfsLeaveUnit u).smc = s.smc ∧
    (s.lfsLeaveUnit u).clp = s.clp ∧ (s.lfsLeaveUnit u).tbm = s.tbm ∧ (s.lfsLeaveUnit u).ckt = s.ckt ∧
    (s.lfsLeaveUnit u).asc = s.asc ∧ (s.lfsLeaveUnit u).ceu = s.ceu ∧ (s.lfsLeaveUnit u).phc = s.phc ∧
    (s.lfsLeaveUnit u).tga = s.tga ∧ (s.lfsLeaveUnit u).vdr = s.vdr ∧ (s.lfsLeaveUnit u).fmg = s.fmg ∧
    (s.lfsLeaveUnit u).trb = s.trb ∧ (s.lfsLeaveUnit u).cst = s.cst ∧
    (s.lfsLeaveUnit u).freeCount = s.freeCount := by
  unfold State.lfsLeaveUnit
  all_goals (try dsimp only)
  all_goals ((repeat' split) <;> simp -implicitDefEqProofs)

@[simp] theorem State.lfsLeaveRun_keeps (s : State) :
    s.lfsLeaveRun.pending = s.pending ∧ s.lfsLeaveRun.now = s.now ∧ s.lfsLeaveRun.smc = s.smc ∧
    s.lfsLeaveRun.clp = s.clp ∧ s.lfsLeaveRun.tbm = s.tbm ∧ s.lfsLeaveRun.ckt = s.ckt ∧ s.lfsLeaveRun.asc = s.asc ∧
    s.lfsLeaveRun.ceu = s.ceu ∧ s.lfsLeaveRun.phc = s.phc ∧ s.lfsLeaveRun.tga = s.tga ∧ s.lfsLeaveRun.vdr = s.vdr ∧
    s.lfsLeaveRun.fmg = s.fmg ∧ s.lfsLeaveRun.trb = s.trb ∧ s.lfsLeaveRun.cst = s.cst ∧
    s.lfsLeaveRun.freeCount = s.freeCount := by
  unfold State.lfsLeaveRun
  all_goals (try dsimp only)
  all_goals ((repeat' split) <;> simp -implicitDefEqProofs)

@[simp] theorem State.writeResponse_keeps (s : State) (k : FaultKind) (r : ResponseRec) :
    (s.writeResponse k r).pending = s.pending ∧ (s.writeResponse k r).now = s.now ∧
    (s.writeResponse k r).smc = s.smc ∧ (s.writeResponse k r).clp = s.clp ∧ (s.writeResponse k r).ckt = s.ckt ∧
    (s.writeResponse k r).asc = s.asc ∧ (s.writeResponse k r).ceu = s.ceu ∧ (s.writeResponse k r).phc = s.phc ∧
    (s.writeResponse k r).tga = s.tga ∧ (s.writeResponse k r).vdr = s.vdr ∧ (s.writeResponse k r).lfs = s.lfs ∧
    (s.writeResponse k r).trb = s.trb ∧ (s.writeResponse k r).cst = s.cst ∧
    (s.writeResponse k r).freeCount = s.freeCount := by
  unfold State.writeResponse
  all_goals (try dsimp only)
  all_goals ((repeat' split) <;> simp -implicitDefEqProofs)

@[simp] theorem State.doRspw_keeps (s : State) (fields : List Field) :
    (s.doRspw fields).pending = s.pending ∧ (s.doRspw fields).now = s.now ∧ (s.doRspw fields).smc = s.smc ∧
    (s.doRspw fields).ckt = s.ckt ∧ (s.doRspw fields).asc = s.asc ∧ (s.doRspw fields).ceu = s.ceu ∧
    (s.doRspw fields).phc = s.phc ∧ (s.doRspw fields).tga = s.tga ∧ (s.doRspw fields).vdr = s.vdr ∧
    (s.doRspw fields).lfs = s.lfs ∧ (s.doRspw fields).trb = s.trb ∧ (s.doRspw fields).cst = s.cst ∧
    (s.doRspw fields).freeCount = s.freeCount := by
  unfold State.doRspw
  all_goals (try dsimp only)
  all_goals ((repeat' split) <;> simp -implicitDefEqProofs)

@[simp] theorem State.doRspr_keeps (s : State) (fields : List Field) :
    (s.doRspr fields).pending = s.pending ∧ (s.doRspr fields).now = s.now ∧
    (s.doRspr fields).handovers = s.handovers ∧ (s.doRspr fields).smc = s.smc ∧ (s.doRspr fields).tbm = s.tbm ∧
    (s.doRspr fields).ckt = s.ckt ∧ (s.doRspr fields).asc = s.asc ∧ (s.doRspr fields).ceu = s.ceu ∧
    (s.doRspr fields).phc = s.phc ∧ (s.doRspr fields).tga = s.tga ∧ (s.doRspr fields).vdr = s.vdr ∧
    (s.doRspr fields).lfs = s.lfs ∧ (s.doRspr fields).fmg = s.fmg ∧ (s.doRspr fields).trb = s.trb ∧
    (s.doRspr fields).cst = s.cst ∧ (s.doRspr fields).freeCount = s.freeCount := by
  unfold State.doRspr
  all_goals (try dsimp only)
  all_goals ((repeat' split) <;> simp -implicitDefEqProofs)

@[simp] theorem State.doFltr_keeps (s : State) (fields : List Field) :
    (s.doFltr fields).pending = s.pending ∧ (s.doFltr fields).now = s.now ∧
    (s.doFltr fields).handovers = s.handovers ∧ (s.doFltr fields).smc = s.smc ∧ (s.doFltr fields).tbm = s.tbm ∧
    (s.doFltr fields).ckt = s.ckt ∧ (s.doFltr fields).asc = s.asc ∧ (s.doFltr fields).ceu = s.ceu ∧
    (s.doFltr fields).phc = s.phc ∧ (s.doFltr fields).tga = s.tga ∧ (s.doFltr fields).vdr = s.vdr ∧
    (s.doFltr fields).lfs = s.lfs ∧ (s.doFltr fields).fmg = s.fmg ∧ (s.doFltr fields).trb = s.trb ∧
    (s.doFltr fields).cst = s.cst ∧ (s.doFltr fields).freeCount = s.freeCount := by
  unfold State.doFltr
  all_goals (try dsimp only)
  all_goals ((repeat' split) <;> simp -implicitDefEqProofs)

@[simp] theorem State.clearRecords_keeps (s : State) (ids : List FaultId) :
    (s.clearRecords ids).pending = s.pending ∧ (s.clearRecords ids).now = s.now ∧ (s.clearRecords ids).smc = s.smc ∧
    (s.clearRecords ids).tbm = s.tbm ∧ (s.clearRecords ids).ckt = s.ckt ∧ (s.clearRecords ids).asc = s.asc ∧
    (s.clearRecords ids).ceu = s.ceu ∧ (s.clearRecords ids).phc = s.phc ∧ (s.clearRecords ids).tga = s.tga ∧
    (s.clearRecords ids).vdr = s.vdr ∧ (s.clearRecords ids).lfs = s.lfs ∧ (s.clearRecords ids).trb = s.trb ∧
    (s.clearRecords ids).cst = s.cst ∧ (s.clearRecords ids).freeCount = s.freeCount := by
  unfold State.clearRecords
  all_goals (try dsimp only)
  all_goals ((repeat' split) <;> simp -implicitDefEqProofs)

@[simp] theorem State.doFltc_keeps (s : State) (fields : List Field) :
    (s.doFltc fields).pending = s.pending ∧ (s.doFltc fields).now = s.now ∧ (s.doFltc fields).smc = s.smc ∧
    (s.doFltc fields).tbm = s.tbm ∧ (s.doFltc fields).ckt = s.ckt ∧ (s.doFltc fields).asc = s.asc ∧
    (s.doFltc fields).ceu = s.ceu ∧ (s.doFltc fields).phc = s.phc ∧ (s.doFltc fields).tga = s.tga ∧
    (s.doFltc fields).vdr = s.vdr ∧ (s.doFltc fields).lfs = s.lfs ∧ (s.doFltc fields).trb = s.trb ∧
    (s.doFltc fields).cst = s.cst ∧ (s.doFltc fields).freeCount = s.freeCount := by
  unfold State.doFltc
  all_goals (try dsimp only)
  all_goals ((repeat' split) <;> simp -implicitDefEqProofs)

@[simp] theorem State.push_keeps (s : State) (c : TraceCause) :
    (s.push c).pending = s.pending ∧ (s.push c).now = s.now ∧ (s.push c).smc = s.smc ∧ (s.push c).clp = s.clp ∧
    (s.push c).tbm = s.tbm ∧ (s.push c).ckt = s.ckt ∧ (s.push c).asc = s.asc ∧ (s.push c).ceu = s.ceu ∧
    (s.push c).phc = s.phc ∧ (s.push c).tga = s.tga ∧ (s.push c).vdr = s.vdr ∧ (s.push c).lfs = s.lfs ∧
    (s.push c).fmg = s.fmg ∧ (s.push c).cst = s.cst ∧ (s.push c).freeCount = s.freeCount := by
  unfold State.push
  all_goals (try dsimp only)
  all_goals ((repeat' split) <;> simp -implicitDefEqProofs)

@[simp] theorem State.closeSlot_keeps (s : State) (lost : Bool) :
    (s.closeSlot lost).pending = s.pending ∧ (s.closeSlot lost).now = s.now ∧ (s.closeSlot lost).smc = s.smc ∧
    (s.closeSlot lost).clp = s.clp ∧ (s.closeSlot lost).tbm = s.tbm ∧ (s.closeSlot lost).ckt = s.ckt ∧
    (s.closeSlot lost).asc = s.asc ∧ (s.closeSlot lost).ceu = s.ceu ∧ (s.closeSlot lost).phc = s.phc ∧
    (s.closeSlot lost).tga = s.tga ∧ (s.closeSlot lost).vdr = s.vdr ∧ (s.closeSlot lost).lfs = s.lfs ∧
    (s.closeSlot lost).fmg = s.fmg ∧ (s.closeSlot lost).cst = s.cst ∧ (s.closeSlot lost).freeCount = s.freeCount := by
  unfold State.closeSlot
  all_goals (try dsimp only)
  all_goals ((repeat' split) <;> simp -implicitDefEqProofs)

@[simp] theorem State.openSlot_keeps (s : State) (cycle : Word32) :
    (s.openSlot cycle).pending = s.pending ∧ (s.openSlot cycle).now = s.now ∧ (s.openSlot cycle).smc = s.smc ∧
    (s.openSlot cycle).clp = s.clp ∧ (s.openSlot cycle).tbm = s.tbm ∧ (s.openSlot cycle).ckt = s.ckt ∧
    (s.openSlot cycle).asc = s.asc ∧ (s.openSlot cycle).ceu = s.ceu ∧ (s.openSlot cycle).phc = s.phc ∧
    (s.openSlot cycle).tga = s.tga ∧ (s.openSlot cycle).vdr = s.vdr ∧ (s.openSlot cycle).lfs = s.lfs ∧
    (s.openSlot cycle).fmg = s.fmg ∧ (s.openSlot cycle).cst = s.cst ∧ (s.openSlot cycle).freeCount = s.freeCount := by
  unfold State.openSlot
  all_goals (try dsimp only)
  all_goals ((repeat' split) <;> simp -implicitDefEqProofs)

@[simp] theorem State.offerEdge_keeps (s : State) (r : EdgeRecord) :
    (s.offerEdge r).pending = s.pending ∧ (s.offerEdge r).now = s.now ∧ (s.offerEdge r).handovers = s.handovers ∧
    (s.offerEdge r).smc = s.smc ∧ (s.offerEdge r).clp = s.clp ∧ (s.offerEdge r).tbm = s.tbm ∧
    (s.offerEdge r).ckt = s.ckt ∧ (s.offerEdge r).asc = s.asc ∧ (s.offerEdge r).ceu = s.ceu ∧
    (s.offerEdge r).phc = s.phc ∧ (s.offerEdge r).tga = s.tga ∧ (s.offerEdge r).vdr = s.vdr ∧
    (s.offerEdge r).lfs = s.lfs ∧ (s.offerEdge r).fmg = s.fmg ∧ (s.offerEdge r).cst = s.cst ∧
    (s.offerEdge r).freeCount = s.freeCount := by
  unfold State.offerEdge
  all_goals (try dsimp only)
  all_goals ((repeat' split) <;> simp -implicitDefEqProofs)

@[simp] theorem State.offerHanded_keeps (s : State) :
    s.offerHanded.pending = s.pending ∧ s.offerHanded.now = s.now ∧ s.offerHanded.smc = s.smc ∧
    s.offerHanded.clp = s.clp ∧ s.offerHanded.tbm = s.tbm ∧ s.offerHanded.ckt = s.ckt ∧ s.offerHanded.asc = s.asc ∧
    s.offerHanded.ceu = s.ceu ∧ s.offerHanded.phc = s.phc ∧ s.offerHanded.tga = s.tga ∧ s.offerHanded.vdr = s.vdr ∧
    s.offerHanded.lfs = s.lfs ∧ s.offerHanded.fmg = s.fmg ∧ s.offerHanded.cst = s.cst ∧
    s.offerHanded.freeCount = s.freeCount := by
  unfold State.offerHanded
  split <;> simp -implicitDefEqProofs

@[simp] theorem State.pushRequests_keeps (s : State) (n : Nat) :
    (s.pushRequests n).pending = s.pending ∧ (s.pushRequests n).now = s.now ∧ (s.pushRequests n).smc = s.smc ∧
    (s.pushRequests n).clp = s.clp ∧ (s.pushRequests n).tbm = s.tbm ∧ (s.pushRequests n).ckt = s.ckt ∧
    (s.pushRequests n).asc = s.asc ∧ (s.pushRequests n).ceu = s.ceu ∧ (s.pushRequests n).phc = s.phc ∧
    (s.pushRequests n).tga = s.tga ∧ (s.pushRequests n).vdr = s.vdr ∧ (s.pushRequests n).lfs = s.lfs ∧
    (s.pushRequests n).fmg = s.fmg ∧ (s.pushRequests n).cst = s.cst ∧ (s.pushRequests n).freeCount = s.freeCount := by
  induction n generalizing s with
  | zero => simp [State.pushRequests]
  | succ n ih => simp -implicitDefEqProofs [State.pushRequests, ih]

@[simp] theorem State.doTrct_keeps (s : State) (fields : List Field) :
    (s.doTrct fields).pending = s.pending ∧ (s.doTrct fields).now = s.now ∧ (s.doTrct fields).smc = s.smc ∧
    (s.doTrct fields).tbm = s.tbm ∧ (s.doTrct fields).ckt = s.ckt ∧ (s.doTrct fields).asc = s.asc ∧
    (s.doTrct fields).ceu = s.ceu ∧ (s.doTrct fields).phc = s.phc ∧ (s.doTrct fields).tga = s.tga ∧
    (s.doTrct fields).vdr = s.vdr ∧ (s.doTrct fields).lfs = s.lfs ∧ (s.doTrct fields).fmg = s.fmg ∧
    (s.doTrct fields).cst = s.cst ∧ (s.doTrct fields).freeCount = s.freeCount := by
  unfold State.doTrct
  all_goals (try dsimp only)
  all_goals ((repeat' split) <;> simp -implicitDefEqProofs)

@[simp] theorem State.doTrcr_keeps (s : State) (fields : List Field) :
    (s.doTrcr fields).pending = s.pending ∧ (s.doTrcr fields).now = s.now ∧
    (s.doTrcr fields).handovers = s.handovers ∧ (s.doTrcr fields).smc = s.smc ∧ (s.doTrcr fields).tbm = s.tbm ∧
    (s.doTrcr fields).ckt = s.ckt ∧ (s.doTrcr fields).asc = s.asc ∧ (s.doTrcr fields).ceu = s.ceu ∧
    (s.doTrcr fields).phc = s.phc ∧ (s.doTrcr fields).tga = s.tga ∧ (s.doTrcr fields).vdr = s.vdr ∧
    (s.doTrcr fields).lfs = s.lfs ∧ (s.doTrcr fields).fmg = s.fmg ∧ (s.doTrcr fields).trb = s.trb ∧
    (s.doTrcr fields).cst = s.cst ∧ (s.doTrcr fields).freeCount = s.freeCount := by
  unfold State.doTrcr
  all_goals (try dsimp only)
  all_goals ((repeat' split) <;> simp -implicitDefEqProofs)

@[simp] theorem State.doTrcf_keeps (s : State) (fields : List Field) :
    (s.doTrcf fields).pending = s.pending ∧ (s.doTrcf fields).now = s.now ∧
    (s.doTrcf fields).handovers = s.handovers ∧ (s.doTrcf fields).smc = s.smc ∧ (s.doTrcf fields).tbm = s.tbm ∧
    (s.doTrcf fields).ckt = s.ckt ∧ (s.doTrcf fields).asc = s.asc ∧ (s.doTrcf fields).ceu = s.ceu ∧
    (s.doTrcf fields).phc = s.phc ∧ (s.doTrcf fields).tga = s.tga ∧ (s.doTrcf fields).vdr = s.vdr ∧
    (s.doTrcf fields).lfs = s.lfs ∧ (s.doTrcf fields).fmg = s.fmg ∧ (s.doTrcf fields).cst = s.cst ∧
    (s.doTrcf fields).freeCount = s.freeCount := by
  unfold State.doTrcf
  all_goals (try dsimp only)
  all_goals ((repeat' split) <;> simp -implicitDefEqProofs)

@[simp] theorem State.evaluateRegion_keeps (s : State) (r : Region) :
    (s.evaluateRegion r).pending = s.pending ∧ (s.evaluateRegion r).now = s.now ∧
    (s.evaluateRegion r).handovers = s.handovers ∧ (s.evaluateRegion r).smc = s.smc ∧
    (s.evaluateRegion r).clp = s.clp ∧ (s.evaluateRegion r).tbm = s.tbm ∧ (s.evaluateRegion r).ckt = s.ckt ∧
    (s.evaluateRegion r).asc = s.asc ∧ (s.evaluateRegion r).ceu = s.ceu ∧ (s.evaluateRegion r).phc = s.phc ∧
    (s.evaluateRegion r).tga = s.tga ∧ (s.evaluateRegion r).vdr = s.vdr ∧ (s.evaluateRegion r).lfs = s.lfs ∧
    (s.evaluateRegion r).fmg = s.fmg ∧ (s.evaluateRegion r).trb = s.trb ∧ (s.evaluateRegion r).freeCount = s.freeCount := by
  unfold State.evaluateRegion
  all_goals (try dsimp only)
  all_goals ((repeat' split) <;> simp -implicitDefEqProofs)

@[simp] theorem State.seeGuard_keeps (s : State) (on : Bool) :
    (s.seeGuard on).pending = s.pending ∧ (s.seeGuard on).now = s.now ∧ (s.seeGuard on).handovers = s.handovers ∧
    (s.seeGuard on).smc = s.smc ∧ (s.seeGuard on).clp = s.clp ∧ (s.seeGuard on).tbm = s.tbm ∧
    (s.seeGuard on).ckt = s.ckt ∧ (s.seeGuard on).asc = s.asc ∧ (s.seeGuard on).ceu = s.ceu ∧
    (s.seeGuard on).phc = s.phc ∧ (s.seeGuard on).tga = s.tga ∧ (s.seeGuard on).vdr = s.vdr ∧
    (s.seeGuard on).lfs = s.lfs ∧ (s.seeGuard on).fmg = s.fmg ∧ (s.seeGuard on).trb = s.trb ∧
    (s.seeGuard on).freeCount = s.freeCount := by
  unfold State.seeGuard
  all_goals (try dsimp only)
  all_goals ((repeat' split) <;> simp -implicitDefEqProofs)

@[simp] theorem State.loadIdent_keeps (s : State) :
    s.loadIdent.pending = s.pending ∧ s.loadIdent.now = s.now ∧ s.loadIdent.handovers = s.handovers ∧
    s.loadIdent.smc = s.smc ∧ s.loadIdent.clp = s.clp ∧ s.loadIdent.tbm = s.tbm ∧ s.loadIdent.ckt = s.ckt ∧
    s.loadIdent.asc = s.asc ∧ s.loadIdent.ceu = s.ceu ∧ s.loadIdent.phc = s.phc ∧ s.loadIdent.tga = s.tga ∧
    s.loadIdent.vdr = s.vdr ∧ s.loadIdent.lfs = s.lfs ∧ s.loadIdent.fmg = s.fmg ∧ s.loadIdent.trb = s.trb ∧
    s.loadIdent.freeCount = s.freeCount := by
  unfold State.loadIdent
  all_goals (try dsimp only)
  all_goals ((repeat' split) <;> simp -implicitDefEqProofs)

@[simp] theorem State.loadRegion_keeps (s : State) (r : Region) :
    (s.loadRegion r).pending = s.pending ∧ (s.loadRegion r).now = s.now ∧ (s.loadRegion r).handovers = s.handovers ∧
    (s.loadRegion r).smc = s.smc ∧ (s.loadRegion r).clp = s.clp ∧ (s.loadRegion r).ckt = s.ckt ∧
    (s.loadRegion r).asc = s.asc ∧ (s.loadRegion r).ceu = s.ceu ∧ (s.loadRegion r).phc = s.phc ∧
    (s.loadRegion r).tga = s.tga ∧ (s.loadRegion r).vdr = s.vdr ∧ (s.loadRegion r).lfs = s.lfs ∧
    (s.loadRegion r).fmg = s.fmg ∧ (s.loadRegion r).trb = s.trb ∧ (s.loadRegion r).freeCount = s.freeCount := by
  unfold State.loadRegion
  all_goals (try dsimp only)
  all_goals ((repeat' split) <;> simp -implicitDefEqProofs)

@[simp] theorem State.loadAll_keeps (s : State) :
    s.loadAll.pending = s.pending ∧ s.loadAll.now = s.now ∧ s.loadAll.handovers = s.handovers ∧
    s.loadAll.smc = s.smc ∧ s.loadAll.clp = s.clp ∧ s.loadAll.ckt = s.ckt ∧ s.loadAll.asc = s.asc ∧
    s.loadAll.ceu = s.ceu ∧ s.loadAll.phc = s.phc ∧ s.loadAll.tga = s.tga ∧ s.loadAll.vdr = s.vdr ∧
    s.loadAll.lfs = s.lfs ∧ s.loadAll.fmg = s.fmg ∧ s.loadAll.trb = s.trb ∧ s.loadAll.freeCount = s.freeCount := by
  unfold State.loadAll
  all_goals (try dsimp only)
  all_goals ((repeat' split) <;> simp -implicitDefEqProofs)

@[simp] theorem State.beginErase_keeps (s : State) (r : Region) (n : Nat) :
    (s.beginErase r n).pending = s.pending ∧ (s.beginErase r n).now = s.now ∧
    (s.beginErase r n).handovers = s.handovers ∧ (s.beginErase r n).smc = s.smc ∧ (s.beginErase r n).clp = s.clp ∧
    (s.beginErase r n).tbm = s.tbm ∧ (s.beginErase r n).ckt = s.ckt ∧ (s.beginErase r n).asc = s.asc ∧
    (s.beginErase r n).ceu = s.ceu ∧ (s.beginErase r n).phc = s.phc ∧ (s.beginErase r n).tga = s.tga ∧
    (s.beginErase r n).vdr = s.vdr ∧ (s.beginErase r n).lfs = s.lfs ∧ (s.beginErase r n).fmg = s.fmg ∧
    (s.beginErase r n).trb = s.trb ∧ (s.beginErase r n).freeCount = s.freeCount := by
  unfold State.beginErase
  all_goals (try dsimp only)
  all_goals ((repeat' split) <;> simp -implicitDefEqProofs)

@[simp] theorem State.endOp_keeps (s : State) (n : Notice) :
    (s.endOp n).pending = s.pending ∧ (s.endOp n).now = s.now ∧ (s.endOp n).smc = s.smc ∧ (s.endOp n).clp = s.clp ∧
    (s.endOp n).tbm = s.tbm ∧ (s.endOp n).ckt = s.ckt ∧ (s.endOp n).asc = s.asc ∧ (s.endOp n).ceu = s.ceu ∧
    (s.endOp n).phc = s.phc ∧ (s.endOp n).tga = s.tga ∧ (s.endOp n).vdr = s.vdr ∧ (s.endOp n).lfs = s.lfs ∧
    (s.endOp n).fmg = s.fmg ∧ (s.endOp n).trb = s.trb ∧ (s.endOp n).freeCount = s.freeCount := by
  unfold State.endOp
  all_goals (try dsimp only)
  all_goals ((repeat' split) <;> simp -implicitDefEqProofs)

@[simp] theorem State.abandonSweep_keeps (s : State) :
    s.abandonSweep.pending = s.pending ∧ s.abandonSweep.now = s.now ∧ s.abandonSweep.smc = s.smc ∧
    s.abandonSweep.clp = s.clp ∧ s.abandonSweep.tbm = s.tbm ∧ s.abandonSweep.ckt = s.ckt ∧
    s.abandonSweep.asc = s.asc ∧ s.abandonSweep.ceu = s.ceu ∧ s.abandonSweep.phc = s.phc ∧
    s.abandonSweep.tga = s.tga ∧ s.abandonSweep.vdr = s.vdr ∧ s.abandonSweep.lfs = s.lfs ∧
    s.abandonSweep.fmg = s.fmg ∧ s.abandonSweep.trb = s.trb ∧ s.abandonSweep.freeCount = s.freeCount := by
  unfold State.abandonSweep
  all_goals (try dsimp only)
  all_goals ((repeat' split) <;> simp -implicitDefEqProofs)

@[simp] theorem State.endSave_keeps (s : State) (r : Region) (gen : Gen) (complete : Bool) :
    (s.endSave r gen complete).pending = s.pending ∧ (s.endSave r gen complete).now = s.now ∧
    (s.endSave r gen complete).smc = s.smc ∧ (s.endSave r gen complete).clp = s.clp ∧
    (s.endSave r gen complete).tbm = s.tbm ∧ (s.endSave r gen complete).ckt = s.ckt ∧
    (s.endSave r gen complete).asc = s.asc ∧ (s.endSave r gen complete).ceu = s.ceu ∧
    (s.endSave r gen complete).phc = s.phc ∧ (s.endSave r gen complete).tga = s.tga ∧
    (s.endSave r gen complete).vdr = s.vdr ∧ (s.endSave r gen complete).lfs = s.lfs ∧
    (s.endSave r gen complete).fmg = s.fmg ∧ (s.endSave r gen complete).trb = s.trb ∧
    (s.endSave r gen complete).freeCount = s.freeCount := by
  unfold State.endSave
  all_goals (try dsimp only)
  all_goals ((repeat' split) <;> simp -implicitDefEqProofs)

@[simp] theorem State.completeSave_keeps (s : State) (r : Region) (gen : Gen) :
    (s.completeSave r gen).pending = s.pending ∧ (s.completeSave r gen).now = s.now ∧
    (s.completeSave r gen).smc = s.smc ∧ (s.completeSave r gen).clp = s.clp ∧ (s.completeSave r gen).ckt = s.ckt ∧
    (s.completeSave r gen).asc = s.asc ∧ (s.completeSave r gen).ceu = s.ceu ∧ (s.completeSave r gen).phc = s.phc ∧
    (s.completeSave r gen).tga = s.tga ∧ (s.completeSave r gen).vdr = s.vdr ∧ (s.completeSave r gen).lfs = s.lfs ∧
    (s.completeSave r gen).fmg = s.fmg ∧ (s.completeSave r gen).trb = s.trb ∧
    (s.completeSave r gen).freeCount = s.freeCount := by
  unfold State.completeSave
  all_goals (try dsimp only)
  all_goals ((repeat' split) <;> simp -implicitDefEqProofs)

@[simp] theorem State.nextSavePage_keeps (s : State) (r : Region) (n : Nat) :
    (s.nextSavePage r n).pending = s.pending ∧ (s.nextSavePage r n).now = s.now ∧
    (s.nextSavePage r n).handovers = s.handovers ∧ (s.nextSavePage r n).smc = s.smc ∧
    (s.nextSavePage r n).clp = s.clp ∧ (s.nextSavePage r n).tbm = s.tbm ∧ (s.nextSavePage r n).ckt = s.ckt ∧
    (s.nextSavePage r n).asc = s.asc ∧ (s.nextSavePage r n).ceu = s.ceu ∧ (s.nextSavePage r n).phc = s.phc ∧
    (s.nextSavePage r n).tga = s.tga ∧ (s.nextSavePage r n).vdr = s.vdr ∧ (s.nextSavePage r n).lfs = s.lfs ∧
    (s.nextSavePage r n).fmg = s.fmg ∧ (s.nextSavePage r n).trb = s.trb ∧ (s.nextSavePage r n).freeCount = s.freeCount := by
  unfold State.nextSavePage
  all_goals (try dsimp only)
  all_goals ((repeat' split) <;> simp -implicitDefEqProofs)

@[simp] theorem State.endPage_keeps (s : State) (r : Region) (gen : Gen) (image : TableImage) :
    (s.endPage r gen image).pending = s.pending ∧ (s.endPage r gen image).now = s.now ∧
    (s.endPage r gen image).smc = s.smc ∧ (s.endPage r gen image).clp = s.clp ∧ (s.endPage r gen image).ckt = s.ckt ∧
    (s.endPage r gen image).asc = s.asc ∧ (s.endPage r gen image).ceu = s.ceu ∧ (s.endPage r gen image).phc = s.phc ∧
    (s.endPage r gen image).tga = s.tga ∧ (s.endPage r gen image).vdr = s.vdr ∧ (s.endPage r gen image).lfs = s.lfs ∧
    (s.endPage r gen image).fmg = s.fmg ∧ (s.endPage r gen image).trb = s.trb ∧
    (s.endPage r gen image).freeCount = s.freeCount := by
  unfold State.endPage
  all_goals (try dsimp only)
  all_goals ((repeat' split) <;> simp -implicitDefEqProofs)

@[simp] theorem State.sweepDamaged_keeps (s : State) (n : Nat) :
    (s.sweepDamaged n).pending = s.pending ∧ (s.sweepDamaged n).now = s.now ∧ (s.sweepDamaged n).smc = s.smc ∧
    (s.sweepDamaged n).clp = s.clp ∧ (s.sweepDamaged n).tbm = s.tbm ∧ (s.sweepDamaged n).ckt = s.ckt ∧
    (s.sweepDamaged n).asc = s.asc ∧ (s.sweepDamaged n).ceu = s.ceu ∧ (s.sweepDamaged n).phc = s.phc ∧
    (s.sweepDamaged n).tga = s.tga ∧ (s.sweepDamaged n).vdr = s.vdr ∧ (s.sweepDamaged n).lfs = s.lfs ∧
    (s.sweepDamaged n).fmg = s.fmg ∧ (s.sweepDamaged n).trb = s.trb ∧ (s.sweepDamaged n).freeCount = s.freeCount := by
  unfold State.sweepDamaged
  all_goals (try dsimp only)
  all_goals ((repeat' split) <;> simp -implicitDefEqProofs)

@[simp] theorem State.sweepOn_keeps (s : State) (n : Nat) :
    (s.sweepOn n).pending = s.pending ∧ (s.sweepOn n).now = s.now ∧ (s.sweepOn n).smc = s.smc ∧
    (s.sweepOn n).clp = s.clp ∧ (s.sweepOn n).tbm = s.tbm ∧ (s.sweepOn n).ckt = s.ckt ∧ (s.sweepOn n).asc = s.asc ∧
    (s.sweepOn n).ceu = s.ceu ∧ (s.sweepOn n).phc = s.phc ∧ (s.sweepOn n).tga = s.tga ∧ (s.sweepOn n).vdr = s.vdr ∧
    (s.sweepOn n).lfs = s.lfs ∧ (s.sweepOn n).fmg = s.fmg ∧ (s.sweepOn n).trb = s.trb ∧
    (s.sweepOn n).freeCount = s.freeCount := by
  unfold State.sweepOn
  all_goals (try dsimp only)
  all_goals ((repeat' split) <;> simp -implicitDefEqProofs)

@[simp] theorem State.cstTakesSupply_keeps (s : State) (st : SupplyState) :
    (s.cstTakesSupply st).pending = s.pending ∧ (s.cstTakesSupply st).now = s.now ∧
    (s.cstTakesSupply st).handovers = s.handovers ∧ (s.cstTakesSupply st).smc = s.smc ∧
    (s.cstTakesSupply st).clp = s.clp ∧ (s.cstTakesSupply st).tbm = s.tbm ∧ (s.cstTakesSupply st).ckt = s.ckt ∧
    (s.cstTakesSupply st).asc = s.asc ∧ (s.cstTakesSupply st).ceu = s.ceu ∧ (s.cstTakesSupply st).phc = s.phc ∧
    (s.cstTakesSupply st).tga = s.tga ∧ (s.cstTakesSupply st).vdr = s.vdr ∧ (s.cstTakesSupply st).lfs = s.lfs ∧
    (s.cstTakesSupply st).fmg = s.fmg ∧ (s.cstTakesSupply st).trb = s.trb ∧
    (s.cstTakesSupply st).freeCount = s.freeCount := by
  unfold State.cstTakesSupply
  all_goals (try dsimp only)
  all_goals ((repeat' split) <;> simp -implicitDefEqProofs)

@[simp] theorem State.resumeOp_keeps (s : State) :
    s.resumeOp.pending = s.pending ∧ s.resumeOp.now = s.now ∧ s.resumeOp.handovers = s.handovers ∧
    s.resumeOp.smc = s.smc ∧ s.resumeOp.clp = s.clp ∧ s.resumeOp.tbm = s.tbm ∧ s.resumeOp.ckt = s.ckt ∧
    s.resumeOp.asc = s.asc ∧ s.resumeOp.ceu = s.ceu ∧ s.resumeOp.phc = s.phc ∧ s.resumeOp.tga = s.tga ∧
    s.resumeOp.vdr = s.vdr ∧ s.resumeOp.lfs = s.lfs ∧ s.resumeOp.fmg = s.fmg ∧ s.resumeOp.trb = s.trb ∧
    s.resumeOp.freeCount = s.freeCount := by
  unfold State.resumeOp
  all_goals (try dsimp only)
  all_goals ((repeat' split) <;> simp -implicitDefEqProofs)

@[simp] theorem State.cutOffPage_keeps (s : State) (r : Region) (n : Nat) :
    (s.cutOffPage r n).pending = s.pending ∧ (s.cutOffPage r n).now = s.now ∧
    (s.cutOffPage r n).handovers = s.handovers ∧ (s.cutOffPage r n).smc = s.smc ∧ (s.cutOffPage r n).clp = s.clp ∧
    (s.cutOffPage r n).tbm = s.tbm ∧ (s.cutOffPage r n).ckt = s.ckt ∧ (s.cutOffPage r n).asc = s.asc ∧
    (s.cutOffPage r n).ceu = s.ceu ∧ (s.cutOffPage r n).phc = s.phc ∧ (s.cutOffPage r n).tga = s.tga ∧
    (s.cutOffPage r n).vdr = s.vdr ∧ (s.cutOffPage r n).lfs = s.lfs ∧ (s.cutOffPage r n).fmg = s.fmg ∧
    (s.cutOffPage r n).trb = s.trb := by
  unfold State.cutOffPage
  all_goals (try dsimp only)
  all_goals ((repeat' split) <;> simp -implicitDefEqProofs)

@[simp] theorem State.cutOffSave_keeps (s : State) :
    s.cutOffSave.pending = s.pending ∧ s.cutOffSave.now = s.now ∧ s.cutOffSave.handovers = s.handovers ∧
    s.cutOffSave.smc = s.smc ∧ s.cutOffSave.clp = s.clp ∧ s.cutOffSave.tbm = s.tbm ∧ s.cutOffSave.ckt = s.ckt ∧
    s.cutOffSave.asc = s.asc ∧ s.cutOffSave.ceu = s.ceu ∧ s.cutOffSave.phc = s.phc ∧ s.cutOffSave.tga = s.tga ∧
    s.cutOffSave.vdr = s.vdr ∧ s.cutOffSave.lfs = s.lfs ∧ s.cutOffSave.fmg = s.fmg ∧ s.cutOffSave.trb = s.trb := by
  unfold State.cutOffSave
  all_goals (try dsimp only)
  all_goals ((repeat' split) <;> simp -implicitDefEqProofs)

@[simp] theorem State.resetStore_keeps (s : State) :
    s.resetStore.pending = s.pending ∧ s.resetStore.now = s.now ∧ s.resetStore.handovers = s.handovers ∧
    s.resetStore.smc = s.smc ∧ s.resetStore.clp = s.clp ∧ s.resetStore.tbm = s.tbm ∧ s.resetStore.ckt = s.ckt ∧
    s.resetStore.asc = s.asc ∧ s.resetStore.ceu = s.ceu ∧ s.resetStore.phc = s.phc ∧ s.resetStore.tga = s.tga ∧
    s.resetStore.vdr = s.vdr ∧ s.resetStore.lfs = s.lfs ∧ s.resetStore.fmg = s.fmg ∧ s.resetStore.trb = s.trb := by
  unfold State.resetStore
  all_goals (try dsimp only)
  all_goals ((repeat' split) <;> simp -implicitDefEqProofs)

@[simp] theorem State.startSave_keeps (s : State) (r : Region) (image : TableImage) :
    (s.startSave r image).pending = s.pending ∧ (s.startSave r image).now = s.now ∧
    (s.startSave r image).handovers = s.handovers ∧ (s.startSave r image).smc = s.smc ∧
    (s.startSave r image).clp = s.clp ∧ (s.startSave r image).tbm = s.tbm ∧ (s.startSave r image).ckt = s.ckt ∧
    (s.startSave r image).asc = s.asc ∧ (s.startSave r image).ceu = s.ceu ∧ (s.startSave r image).phc = s.phc ∧
    (s.startSave r image).tga = s.tga ∧ (s.startSave r image).vdr = s.vdr ∧ (s.startSave r image).lfs = s.lfs ∧
    (s.startSave r image).fmg = s.fmg ∧ (s.startSave r image).trb = s.trb ∧
    (s.startSave r image).freeCount = s.freeCount := by
  unfold State.startSave
  all_goals (try dsimp only)
  all_goals ((repeat' split) <;> simp -implicitDefEqProofs)

@[simp] theorem State.doSave_keeps (s : State) (fields : List Field) :
    (s.doSave fields).pending = s.pending ∧ (s.doSave fields).now = s.now ∧ (s.doSave fields).smc = s.smc ∧
    (s.doSave fields).tbm = s.tbm ∧ (s.doSave fields).ckt = s.ckt ∧ (s.doSave fields).asc = s.asc ∧
    (s.doSave fields).ceu = s.ceu ∧ (s.doSave fields).phc = s.phc ∧ (s.doSave fields).tga = s.tga ∧
    (s.doSave fields).vdr = s.vdr ∧ (s.doSave fields).lfs = s.lfs ∧ (s.doSave fields).fmg = s.fmg ∧
    (s.doSave fields).trb = s.trb ∧ (s.doSave fields).freeCount = s.freeCount := by
  unfold State.doSave
  all_goals (try dsimp only)
  all_goals ((repeat' split) <;> simp -implicitDefEqProofs)

@[simp] theorem State.doSwep_keeps (s : State) (fields : List Field) :
    (s.doSwep fields).pending = s.pending ∧ (s.doSwep fields).now = s.now ∧
    (s.doSwep fields).handovers = s.handovers ∧ (s.doSwep fields).smc = s.smc ∧ (s.doSwep fields).tbm = s.tbm ∧
    (s.doSwep fields).ckt = s.ckt ∧ (s.doSwep fields).asc = s.asc ∧ (s.doSwep fields).ceu = s.ceu ∧
    (s.doSwep fields).phc = s.phc ∧ (s.doSwep fields).tga = s.tga ∧ (s.doSwep fields).vdr = s.vdr ∧
    (s.doSwep fields).lfs = s.lfs ∧ (s.doSwep fields).fmg = s.fmg ∧ (s.doSwep fields).trb = s.trb ∧
    (s.doSwep fields).freeCount = s.freeCount := by
  unfold State.doSwep
  all_goals (try dsimp only)
  all_goals ((repeat' split) <;> simp -implicitDefEqProofs)

@[simp] theorem State.doAbrt_keeps (s : State) (fields : List Field) :
    (s.doAbrt fields).pending = s.pending ∧ (s.doAbrt fields).now = s.now ∧ (s.doAbrt fields).smc = s.smc ∧
    (s.doAbrt fields).tbm = s.tbm ∧ (s.doAbrt fields).ckt = s.ckt ∧ (s.doAbrt fields).asc = s.asc ∧
    (s.doAbrt fields).ceu = s.ceu ∧ (s.doAbrt fields).phc = s.phc ∧ (s.doAbrt fields).tga = s.tga ∧
    (s.doAbrt fields).vdr = s.vdr ∧ (s.doAbrt fields).lfs = s.lfs ∧ (s.doAbrt fields).fmg = s.fmg ∧
    (s.doAbrt fields).trb = s.trb := by
  unfold State.doAbrt
  all_goals (try dsimp only)
  all_goals ((repeat' split) <;> simp -implicitDefEqProofs)

@[simp] theorem State.doPage_keeps (s : State) (fields : List Field) :
    (s.doPage fields).pending = s.pending ∧ (s.doPage fields).now = s.now ∧
    (s.doPage fields).handovers = s.handovers ∧ (s.doPage fields).smc = s.smc ∧ (s.doPage fields).tbm = s.tbm ∧
    (s.doPage fields).ckt = s.ckt ∧ (s.doPage fields).asc = s.asc ∧ (s.doPage fields).ceu = s.ceu ∧
    (s.doPage fields).phc = s.phc ∧ (s.doPage fields).tga = s.tga ∧ (s.doPage fields).vdr = s.vdr ∧
    (s.doPage fields).lfs = s.lfs ∧ (s.doPage fields).fmg = s.fmg ∧ (s.doPage fields).trb = s.trb ∧
    (s.doPage fields).cst = s.cst ∧ (s.doPage fields).freeCount = s.freeCount := by
  unfold State.doPage
  all_goals (try dsimp only)
  all_goals ((repeat' split) <;> simp -implicitDefEqProofs)

@[simp] theorem State.doStst_keeps (s : State) (fields : List Field) :
    (s.doStst fields).pending = s.pending ∧ (s.doStst fields).now = s.now ∧
    (s.doStst fields).handovers = s.handovers ∧ (s.doStst fields).smc = s.smc ∧ (s.doStst fields).tbm = s.tbm ∧
    (s.doStst fields).ckt = s.ckt ∧ (s.doStst fields).asc = s.asc ∧ (s.doStst fields).ceu = s.ceu ∧
    (s.doStst fields).phc = s.phc ∧ (s.doStst fields).tga = s.tga ∧ (s.doStst fields).vdr = s.vdr ∧
    (s.doStst fields).lfs = s.lfs ∧ (s.doStst fields).fmg = s.fmg ∧ (s.doStst fields).trb = s.trb ∧
    (s.doStst fields).cst = s.cst ∧ (s.doStst fields).freeCount = s.freeCount := by
  unfold State.doStst
  all_goals (try dsimp only)
  all_goals ((repeat' split) <;> simp -implicitDefEqProofs)

@[simp] theorem State.doLock_keeps (s : State) (fields : List Field) (armed : Bool) :
    (s.doLock fields armed).pending = s.pending ∧ (s.doLock fields armed).now = s.now ∧
    (s.doLock fields armed).handovers = s.handovers ∧ (s.doLock fields armed).smc = s.smc ∧
    (s.doLock fields armed).tbm = s.tbm ∧ (s.doLock fields armed).ckt = s.ckt ∧ (s.doLock fields armed).asc = s.asc ∧
    (s.doLock fields armed).ceu = s.ceu ∧ (s.doLock fields armed).phc = s.phc ∧ (s.doLock fields armed).tga = s.tga ∧
    (s.doLock fields armed).vdr = s.vdr ∧ (s.doLock fields armed).lfs = s.lfs ∧ (s.doLock fields armed).fmg = s.fmg ∧
    (s.doLock fields armed).trb = s.trb ∧ (s.doLock fields armed).freeCount = s.freeCount := by
  unfold State.doLock
  all_goals (try dsimp only)
  all_goals ((repeat' split) <;> simp -implicitDefEqProofs)

@[simp] theorem State.doArms_keeps (s : State) (fields : List Field) :
    (s.doArms fields).pending = s.pending ∧ (s.doArms fields).now = s.now ∧
    (s.doArms fields).handovers = s.handovers ∧ (s.doArms fields).smc = s.smc ∧ (s.doArms fields).tbm = s.tbm ∧
    (s.doArms fields).ckt = s.ckt ∧ (s.doArms fields).asc = s.asc ∧ (s.doArms fields).ceu = s.ceu ∧
    (s.doArms fields).phc = s.phc ∧ (s.doArms fields).tga = s.tga ∧ (s.doArms fields).vdr = s.vdr ∧
    (s.doArms fields).lfs = s.lfs ∧ (s.doArms fields).fmg = s.fmg ∧ (s.doArms fields).trb = s.trb ∧
    (s.doArms fields).cst = s.cst ∧ (s.doArms fields).freeCount = s.freeCount := by
  unfold State.doArms
  all_goals (try dsimp only)
  all_goals ((repeat' split) <;> simp -implicitDefEqProofs)

@[simp] theorem State.doNmsk_keeps (s : State) (fields : List Field) :
    (s.doNmsk fields).pending = s.pending ∧ (s.doNmsk fields).now = s.now ∧
    (s.doNmsk fields).handovers = s.handovers ∧ (s.doNmsk fields).smc = s.smc ∧ (s.doNmsk fields).tbm = s.tbm ∧
    (s.doNmsk fields).ckt = s.ckt ∧ (s.doNmsk fields).asc = s.asc ∧ (s.doNmsk fields).ceu = s.ceu ∧
    (s.doNmsk fields).phc = s.phc ∧ (s.doNmsk fields).tga = s.tga ∧ (s.doNmsk fields).vdr = s.vdr ∧
    (s.doNmsk fields).lfs = s.lfs ∧ (s.doNmsk fields).fmg = s.fmg ∧ (s.doNmsk fields).trb = s.trb ∧
    (s.doNmsk fields).cst = s.cst ∧ (s.doNmsk fields).freeCount = s.freeCount := by
  unfold State.doNmsk
  all_goals (try dsimp only)
  all_goals ((repeat' split) <;> simp -implicitDefEqProofs)

@[simp] theorem State.doStat_keeps (s : State) (fields : List Field) :
    (s.doStat fields).pending = s.pending ∧ (s.doStat fields).now = s.now ∧
    (s.doStat fields).handovers = s.handovers ∧ (s.doStat fields).smc = s.smc ∧ (s.doStat fields).tbm = s.tbm ∧
    (s.doStat fields).ckt = s.ckt ∧ (s.doStat fields).asc = s.asc ∧ (s.doStat fields).ceu = s.ceu ∧
    (s.doStat fields).phc = s.phc ∧ (s.doStat fields).tga = s.tga ∧ (s.doStat fields).vdr = s.vdr ∧
    (s.doStat fields).lfs = s.lfs ∧ (s.doStat fields).fmg = s.fmg ∧ (s.doStat fields).trb = s.trb ∧
    (s.doStat fields).cst = s.cst ∧ (s.doStat fields).freeCount = s.freeCount := by
  unfold State.doStat
  all_goals (try dsimp only)
  all_goals ((repeat' split) <;> simp -implicitDefEqProofs)

@[simp] theorem State.doIdnt_keeps (s : State) (fields : List Field) :
    (s.doIdnt fields).pending = s.pending ∧ (s.doIdnt fields).now = s.now ∧
    (s.doIdnt fields).handovers = s.handovers ∧ (s.doIdnt fields).smc = s.smc ∧ (s.doIdnt fields).tbm = s.tbm ∧
    (s.doIdnt fields).ckt = s.ckt ∧ (s.doIdnt fields).asc = s.asc ∧ (s.doIdnt fields).ceu = s.ceu ∧
    (s.doIdnt fields).phc = s.phc ∧ (s.doIdnt fields).tga = s.tga ∧ (s.doIdnt fields).vdr = s.vdr ∧
    (s.doIdnt fields).lfs = s.lfs ∧ (s.doIdnt fields).fmg = s.fmg ∧ (s.doIdnt fields).trb = s.trb ∧
    (s.doIdnt fields).cst = s.cst ∧ (s.doIdnt fields).freeCount = s.freeCount := by
  unfold State.doIdnt
  all_goals (try dsimp only)
  all_goals ((repeat' split) <;> simp -implicitDefEqProofs)

@[simp] theorem State.supplyLow_keeps (s : State) :
    s.supplyLow.pending = s.pending ∧ s.supplyLow.now = s.now ∧ s.supplyLow.clp = s.clp ∧ s.supplyLow.tbm = s.tbm ∧
    s.supplyLow.ckt = s.ckt ∧ s.supplyLow.asc = s.asc ∧ s.supplyLow.ceu = s.ceu ∧ s.supplyLow.phc = s.phc ∧
    s.supplyLow.tga = s.tga ∧ s.supplyLow.vdr = s.vdr ∧ s.supplyLow.lfs = s.lfs ∧ s.supplyLow.fmg = s.fmg ∧
    s.supplyLow.trb = s.trb ∧ s.supplyLow.cst = s.cst ∧ s.supplyLow.freeCount = s.freeCount := by
  unfold State.supplyLow
  all_goals (try dsimp only)
  all_goals ((repeat' split) <;> simp -implicitDefEqProofs)

@[simp] theorem State.supplyBack_keeps (s : State) :
    s.supplyBack.pending = s.pending ∧ s.supplyBack.now = s.now ∧ s.supplyBack.clp = s.clp ∧
    s.supplyBack.tbm = s.tbm ∧ s.supplyBack.ckt = s.ckt ∧ s.supplyBack.asc = s.asc ∧ s.supplyBack.ceu = s.ceu ∧
    s.supplyBack.phc = s.phc ∧ s.supplyBack.tga = s.tga ∧ s.supplyBack.vdr = s.vdr ∧ s.supplyBack.lfs = s.lfs ∧
    s.supplyBack.fmg = s.fmg ∧ s.supplyBack.trb = s.trb ∧ s.supplyBack.cst = s.cst ∧
    s.supplyBack.freeCount = s.freeCount := by
  unfold State.supplyBack
  all_goals (try dsimp only)
  all_goals ((repeat' split) <;> simp -implicitDefEqProofs)

@[simp] theorem State.handSupply_keeps (s : State) (st : SupplyState) :
    (s.handSupply st).pending = s.pending ∧ (s.handSupply st).now = s.now ∧ (s.handSupply st).smc = s.smc ∧
    (s.handSupply st).clp = s.clp ∧ (s.handSupply st).tbm = s.tbm ∧ (s.handSupply st).ckt = s.ckt ∧
    (s.handSupply st).asc = s.asc ∧ (s.handSupply st).ceu = s.ceu ∧ (s.handSupply st).phc = s.phc ∧
    (s.handSupply st).tga = s.tga ∧ (s.handSupply st).vdr = s.vdr ∧ (s.handSupply st).lfs = s.lfs ∧
    (s.handSupply st).fmg = s.fmg ∧ (s.handSupply st).trb = s.trb ∧ (s.handSupply st).cst = s.cst ∧
    (s.handSupply st).freeCount = s.freeCount := by
  unfold State.handSupply
  all_goals (try dsimp only)
  all_goals ((repeat' split) <;> simp -implicitDefEqProofs)

@[simp] theorem State.changeSupply_keeps (s : State) (new : SupplyState) :
    (s.changeSupply new).pending = s.pending ∧ (s.changeSupply new).now = s.now ∧ (s.changeSupply new).clp = s.clp ∧
    (s.changeSupply new).tbm = s.tbm ∧ (s.changeSupply new).ckt = s.ckt ∧ (s.changeSupply new).asc = s.asc ∧
    (s.changeSupply new).ceu = s.ceu ∧ (s.changeSupply new).phc = s.phc ∧ (s.changeSupply new).tga = s.tga ∧
    (s.changeSupply new).vdr = s.vdr ∧ (s.changeSupply new).lfs = s.lfs ∧ (s.changeSupply new).fmg = s.fmg ∧
    (s.changeSupply new).trb = s.trb ∧ (s.changeSupply new).cst = s.cst ∧ (s.changeSupply new).freeCount = s.freeCount := by
  unfold State.changeSupply
  all_goals (try dsimp only)
  all_goals ((repeat' split) <;> simp -implicitDefEqProofs)

@[simp] theorem State.resetBlocks_keeps (s : State) (cause : ResetCause) :
    (s.resetBlocks cause).pending = s.pending ∧ (s.resetBlocks cause).now = s.now ∧ (s.resetBlocks cause).smc = s.smc := by
  unfold State.resetBlocks
  all_goals (try dsimp only)
  all_goals ((repeat' split) <;> simp -implicitDefEqProofs)

@[simp] theorem State.beginReset_keeps (s : State) (cause : ResetCause) :
    (s.beginReset cause).pending = s.pending ∧ (s.beginReset cause).now = s.now := by
  unfold State.beginReset
  all_goals (try dsimp only)
  all_goals ((repeat' split) <;> simp -implicitDefEqProofs)

@[simp] theorem State.releaseReset_keeps (s : State) :
    s.releaseReset.pending = s.pending ∧ s.releaseReset.now = s.now ∧ s.releaseReset.clp = s.clp ∧
    s.releaseReset.tbm = s.tbm ∧ s.releaseReset.ckt = s.ckt ∧ s.releaseReset.asc = s.asc ∧
    s.releaseReset.ceu = s.ceu ∧ s.releaseReset.phc = s.phc ∧ s.releaseReset.tga = s.tga ∧
    s.releaseReset.vdr = s.vdr ∧ s.releaseReset.trb = s.trb ∧ s.releaseReset.cst = s.cst ∧
    s.releaseReset.freeCount = s.freeCount := by
  unfold State.releaseReset
  all_goals (try dsimp only)
  all_goals ((repeat' split) <;> simp -implicitDefEqProofs)

@[simp] theorem State.startUp_keeps (s : State) (guardOn : Bool) :
    (s.startUp guardOn).pending = s.pending ∧ (s.startUp guardOn).now = s.now ∧ (s.startUp guardOn).clp = s.clp ∧
    (s.startUp guardOn).ckt = s.ckt ∧ (s.startUp guardOn).asc = s.asc ∧ (s.startUp guardOn).ceu = s.ceu ∧
    (s.startUp guardOn).phc = s.phc ∧ (s.startUp guardOn).tga = s.tga ∧ (s.startUp guardOn).vdr = s.vdr ∧
    (s.startUp guardOn).lfs = s.lfs ∧ (s.startUp guardOn).trb = s.trb ∧ (s.startUp guardOn).freeCount = s.freeCount := by
  unfold State.startUp
  all_goals (try dsimp only)
  all_goals ((repeat' split) <;> simp -implicitDefEqProofs)

@[simp] theorem State.setMode_keeps (s : State) (m : Mode) :
    (s.setMode m).pending = s.pending ∧ (s.setMode m).now = s.now ∧ (s.setMode m).clp = s.clp ∧
    (s.setMode m).tbm = s.tbm ∧ (s.setMode m).ckt = s.ckt ∧ (s.setMode m).asc = s.asc ∧ (s.setMode m).ceu = s.ceu ∧
    (s.setMode m).phc = s.phc ∧ (s.setMode m).tga = s.tga ∧ (s.setMode m).vdr = s.vdr ∧ (s.setMode m).lfs = s.lfs ∧
    (s.setMode m).fmg = s.fmg ∧ (s.setMode m).trb = s.trb ∧ (s.setMode m).cst = s.cst ∧
    (s.setMode m).freeCount = s.freeCount := by
  unfold State.setMode
  all_goals (try dsimp only)
  all_goals ((repeat' split) <;> simp -implicitDefEqProofs)

@[simp] theorem State.ascEnterRun_keeps (s : State) :
    s.ascEnterRun.pending = s.pending ∧ s.ascEnterRun.now = s.now ∧ s.ascEnterRun.handovers = s.handovers ∧
    s.ascEnterRun.smc = s.smc ∧ s.ascEnterRun.clp = s.clp ∧ s.ascEnterRun.tbm = s.tbm ∧ s.ascEnterRun.ckt = s.ckt ∧
    s.ascEnterRun.ceu = s.ceu ∧ s.ascEnterRun.phc = s.phc ∧ s.ascEnterRun.tga = s.tga ∧ s.ascEnterRun.vdr = s.vdr ∧
    s.ascEnterRun.lfs = s.lfs ∧ s.ascEnterRun.fmg = s.fmg ∧ s.ascEnterRun.trb = s.trb ∧ s.ascEnterRun.cst = s.cst ∧
    s.ascEnterRun.freeCount = s.freeCount := by
  unfold State.ascEnterRun
  all_goals (try dsimp only)
  all_goals ((repeat' split) <;> simp -implicitDefEqProofs)

@[simp] theorem State.enterRun_keeps (s : State) :
    s.enterRun.pending = s.pending ∧ s.enterRun.now = s.now ∧ s.enterRun.clp = s.clp ∧ s.enterRun.trb = s.trb ∧
    s.enterRun.cst = s.cst ∧ s.enterRun.freeCount = s.freeCount := by
  unfold State.enterRun
  all_goals (try dsimp only)
  all_goals ((repeat' split) <;> simp -implicitDefEqProofs)

@[simp] theorem State.leaveRun_keeps (s : State) (seen : LoadSeen) :
    (s.leaveRun seen).pending = s.pending ∧ (s.leaveRun seen).now = s.now ∧ (s.leaveRun seen).clp = s.clp ∧
    (s.leaveRun seen).tbm = s.tbm ∧ (s.leaveRun seen).ckt = s.ckt ∧
    (s.leaveRun seen).fmg = s.fmg ∧ (s.leaveRun seen).trb = s.trb ∧ (s.leaveRun seen).cst = s.cst ∧
    (s.leaveRun seen).freeCount = s.freeCount := by
  unfold State.leaveRun
  all_goals (try dsimp only)
  all_goals ((repeat' split) <;> simp -implicitDefEqProofs)

@[simp] theorem State.dropValidation_keeps (s : State) :
    s.dropValidation.pending = s.pending ∧ s.dropValidation.now = s.now ∧ s.dropValidation.handovers = s.handovers ∧
    s.dropValidation.smc = s.smc ∧ s.dropValidation.clp = s.clp ∧ s.dropValidation.ckt = s.ckt ∧
    s.dropValidation.asc = s.asc ∧ s.dropValidation.ceu = s.ceu ∧ s.dropValidation.phc = s.phc ∧
    s.dropValidation.tga = s.tga ∧ s.dropValidation.vdr = s.vdr ∧ s.dropValidation.lfs = s.lfs ∧
    s.dropValidation.fmg = s.fmg ∧ s.dropValidation.trb = s.trb ∧ s.dropValidation.cst = s.cst ∧
    s.dropValidation.freeCount = s.freeCount := by
  unfold State.dropValidation
  all_goals (try dsimp only)
  all_goals ((repeat' split) <;> simp -implicitDefEqProofs)

@[simp] theorem State.doModeRun_keeps (s : State) (fields : List Field) :
    (s.doModeRun fields).pending = s.pending ∧ (s.doModeRun fields).now = s.now ∧ (s.doModeRun fields).trb = s.trb ∧
    (s.doModeRun fields).cst = s.cst ∧ (s.doModeRun fields).freeCount = s.freeCount := by
  unfold State.doModeRun
  all_goals (try dsimp only)
  all_goals ((repeat' split) <;> simp -implicitDefEqProofs)

@[simp] theorem State.doModeStandby_keeps (s : State) (fields : List Field) (seen : LoadSeen) :
    (s.doModeStandby fields seen).pending = s.pending ∧ (s.doModeStandby fields seen).now = s.now ∧
    (s.doModeStandby fields seen).ckt = s.ckt ∧
    (s.doModeStandby fields seen).fmg = s.fmg ∧ (s.doModeStandby fields seen).trb = s.trb ∧
    (s.doModeStandby fields seen).cst = s.cst ∧ (s.doModeStandby fields seen).freeCount = s.freeCount := by
  unfold State.doModeStandby
  all_goals (try dsimp only)
  all_goals ((repeat' split) <;> simp -implicitDefEqProofs)

@[simp] theorem State.doRset_keeps (s : State) (fields : List Field) (armed : Bool) :
    (s.doRset fields armed).pending = s.pending ∧ (s.doRset fields armed).now = s.now ∧
    (s.doRset fields armed).handovers = s.handovers ∧ (s.doRset fields armed).tbm = s.tbm ∧
    (s.doRset fields armed).ckt = s.ckt ∧ (s.doRset fields armed).asc = s.asc ∧ (s.doRset fields armed).ceu = s.ceu ∧
    (s.doRset fields armed).phc = s.phc ∧ (s.doRset fields armed).tga = s.tga ∧ (s.doRset fields armed).vdr = s.vdr ∧
    (s.doRset fields armed).lfs = s.lfs ∧ (s.doRset fields armed).fmg = s.fmg ∧ (s.doRset fields armed).trb = s.trb ∧
    (s.doRset fields armed).cst = s.cst ∧ (s.doRset fields armed).freeCount = s.freeCount := by
  unfold State.doRset
  all_goals (try dsimp only)
  all_goals ((repeat' split) <;> simp -implicitDefEqProofs)

end Sys2Proof.Machine
end

