-- ==== Sys2Proof/Laws/Layout.lean ====
section
/-! SUPPORT. The searches of layout validation (R7 to R12): what the first channel, unit, descent,
    spacing and clash are. -/

set_option linter.unusedSimpArgs false
set_option linter.unusedVariables false

namespace Sys2Proof.Machine

/-- What holds of all channels holds of the four. -/
theorem allChans_cases (p : Chan → Prop) : (∀ c, p c) ↔ p .IN1 ∧ p .EX1 ∧ p .IN2 ∧ p .EX2 := by
  constructor
  · intro h; exact ⟨h _, h _, h _, h _⟩
  · rintro ⟨a, b, c, d⟩ x; cases x <;> assumption

/-- The first channel of which `p` holds. -/
def firstChan (p : Chan → Prop) (ch : Chan) : Prop := p ch ∧ ∀ c, chanNum c < chanNum ch → ¬ p c

/-- The first unit of which `p` holds. -/
def firstUnit (p : LiftUnit → Prop) (u : LiftUnit) : Prop := p u ∧ ∀ v, unitNum v < unitNum u → ¬ p v

/-- Searching the channels finds the first. -/
theorem find_chan_eq (p : Chan → Bool) (P : Chan → Prop) (h : ∀ c, p c = true ↔ P c) (ch : Chan) :
    allChans.find? p = some ch ↔ firstChan P ch := by
  have hP : P = fun c => p c = true := by funext c; exact propext (h c).symm
  subst hP
  simp only [allChans, List.find?, firstChan]
  have := fun c => allChans_cases (fun x => chanNum x < chanNum c → ¬ p x = true)
  rw [this ch]
  cases h1 : p .IN1 <;> cases h2 : p .EX1 <;> cases h3 : p .IN2 <;> cases h4 : p .EX2 <;> cases ch <;> simp [h1, h2,
      h3, h4, chanNum]

/-- Searching the units finds the first. -/
theorem find_unit_eq (p : LiftUnit → Bool) (P : LiftUnit → Prop) (h : ∀ c, p c = true ↔ P c) (u : LiftUnit) :
    allUnits.find? p = some u ↔ firstUnit P u := by
  have hP : P = fun c => p c = true := by funext c; exact propext (h c).symm
  subst hP
  simp only [allUnits, List.find?, firstUnit]
  have : ∀ c, (∀ x, unitNum x < unitNum c → ¬ p x = true) ↔ (unitNum .L1 < unitNum c → ¬ p .L1 = true) ∧
      (unitNum .L2 < unitNum c → ¬ p .L2 = true) := by
    intro c; constructor
    · intro h; exact ⟨h _, h _⟩
    · rintro ⟨a, b⟩ x; cases x <;> assumption
  rw [this u]
  cases h1 : p .L1 <;> cases h2 : p .L2 <;> cases u <;> simp [h1, h2, unitNum]

/-- Searching the channels for an answer finds the first channel that has one. -/
theorem findSome_chan_eq {β} (f : Chan → Option β) (b : β) : allChans.findSome? f = some b ↔ ∃ ch, firstChan
    (fun c => f c ≠ none) ch ∧ f ch = some b := by
  constructor
  · intro h
    simp only [allChans, List.findSome?] at h
    cases h1 : f .IN1 <;> simp only [h1] at h
    · cases h2 : f .EX1 <;> simp only [h2] at h
      · cases h3 : f .IN2 <;> simp only [h3] at h
        · cases h4 : f .EX2 <;> simp only [h4] at h
          · cases h
          · exact ⟨.EX2, ⟨by simp [h4], by intro c hc; cases c <;> simp [chanNum, h1, h2, h3] at *⟩,
              by rw [h4]; exact h⟩
        · exact ⟨.IN2, ⟨by simp [h3], by intro c hc; cases c <;> simp [chanNum, h1, h2, h3] at *⟩, by rw [h3]; exact h⟩
      · exact ⟨.EX1, ⟨by simp [h2], by intro c hc; cases c <;> simp [chanNum, h1, h2] at *⟩, by rw [h2]; exact h⟩
    · exact ⟨.IN1, ⟨by simp [h1], by intro c hc; cases c <;> simp [chanNum, h1] at *⟩, by rw [h1]; exact h⟩
  · rintro ⟨ch, ⟨_, h⟩, hb⟩
    have hh : ∀ c, chanNum c < chanNum ch → f c = none := fun c hc => by simpa using h c hc
    cases ch
    · simp [allChans, List.findSome?, hb]
    · simp [allChans, List.findSome?, hb, hh .IN1 (by decide)]
    · simp [allChans, List.findSome?, hb, hh .IN1 (by decide), hh .EX1 (by decide)]
    · simp [allChans, List.findSome?, hb, hh .IN1 (by decide), hh .EX1 (by decide), hh .IN2 (by decide)]

/-- Searching a filtered list. -/
theorem findSome_filter {α β} (l : List α) (p : α → Bool) (f : α → Option β) :
    (l.filter p).findSome? f = l.findSome? fun a => if p a then f a else none := by
  induction l with
  | nil => rfl
  | cons a l ih => by_cases h : p a <;> simp [List.filter, h, List.findSome?, ih]

/-- Searching the units for an answer finds the first unit that has one. -/
theorem findSome_unit_eq {β} (f : LiftUnit → Option β) (b : β) : allUnits.findSome? f = some b ↔ ∃ ch, firstUnit
    (fun c => f c ≠ none) ch ∧ f ch = some b := by
  constructor
  · intro h
    simp only [allUnits, List.findSome?] at h
    cases h1 : f .L1 <;> simp only [h1] at h
    · cases h2 : f .L2 <;> simp only [h2] at h
      · cases h
      · exact ⟨.L2, ⟨by simp [h2], by intro c hc; cases c <;> simp [unitNum, h1] at *⟩, by rw [h2]; exact h⟩
    · exact ⟨.L1, ⟨by simp [h1], by intro c hc; cases c <;> simp [unitNum, h1] at *⟩, by rw [h1]; exact h⟩
  · rintro ⟨ch, ⟨_, h⟩, hb⟩
    have hh : ∀ c, unitNum c < unitNum ch → f c = none := fun c hc => by simpa using h c hc
    cases ch
    · simp [allUnits, List.findSome?, hb]
    · simp [allUnits, List.findSome?, hb, hh .L1 (by decide)]

/-- The first edge that is not later than the one before it (R9). -/
theorem firstDescent_eq (l : List EdgeItem) (n k : Nat) : firstDescent n l = some k ↔
    (∃ a b, n + 1 ≤ k ∧ l[k - n - 1]? = some a ∧ l[k - n]? = some b ∧ b.angle ≤ a.angle) ∧
    ∀ j < k, ¬ ∃ a b, n + 1 ≤ j ∧ l[j - n - 1]? = some a ∧ l[j - n]? = some b ∧ b.angle ≤ a.angle := by
  induction l generalizing n with
  | nil => simp [firstDescent]
  | cons x l ih =>
    cases l with
    | nil =>
      simp [firstDescent]
      intro a h1 h2 b h3
      have : k - n = 0 ∨ 1 ≤ k - n := by omega
      rcases this with h | h
      · omega
      · rw [List.getElem?_eq_none (by simp; omega)] at h3; cases h3
    | cons y rest =>
      unfold firstDescent
      split
      · rename_i h
        constructor
        · intro e; cases e
          refine ⟨⟨x, y, by omega, ?_, ?_, h⟩, ?_⟩
          · have : n + 1 - n - 1 = 0 := by omega
            rw [this]; rfl
          · have : n + 1 - n = 1 := by omega
            rw [this]; rfl
          · rintro j hj ⟨a, b, hj2, _⟩; omega
        · rintro ⟨⟨a, b, h1, h2, h3, h4⟩, h5⟩
          by_contra hne
          have : n + 1 < k := by
            rcases Nat.lt_or_ge (n+1) k with h | h
            · exact h
            · exfalso; apply hne; congr 1; omega
          apply h5 (n+1) this
          refine ⟨x, y, by omega, ?_, ?_, h⟩
          · have : n + 1 - n - 1 = 0 := by omega
            rw [this]; rfl
          · have : n + 1 - n = 1 := by omega
            rw [this]; rfl
      · rename_i h
        rw [ih (n + 1)]
        have shift : ∀ j, (∃ a b, n + 1 + 1 ≤ j ∧ (y :: rest)[j - (n + 1) - 1]? = some a ∧ (y :: rest)[j -
            (n + 1)]? = some b ∧ b.angle ≤ a.angle) ↔
            (∃ a b, n + 1 ≤ j ∧ (x :: y :: rest)[j - n - 1]? = some a ∧ (x :: y :: rest)[j - n]? = some b ∧
                b.angle ≤ a.angle) := by
          intro j
          constructor
          · rintro ⟨a, b, h1, h2, h3, h4⟩
            refine ⟨a, b, by omega, ?_, ?_, h4⟩
            · have : j - n - 1 = (j - (n+1) - 1) + 1 := by omega
              rw [this]; simpa using h2
            · have : j - n = (j - (n+1)) + 1 := by omega
              rw [this]; simpa using h3
          · rintro ⟨a, b, h1, h2, h3, h4⟩
            rcases Nat.lt_or_ge (n+1) j with hj | hj
            · refine ⟨a, b, by omega, ?_, ?_, h4⟩
              · have : j - n - 1 = (j - (n+1) - 1) + 1 := by omega
                rw [this] at h2; simpa using h2
              · have : j - n = (j - (n+1)) + 1 := by omega
                rw [this] at h3; simpa using h3
            · have hj : j = n + 1 := by omega
              subst hj
              have e1 : n + 1 - n - 1 = 0 := by omega
              have e2 : n + 1 - n = 1 := by omega
              rw [e1] at h2; rw [e2] at h3
              simp at h2 h3; subst h2 h3; exact absurd h4 h
        simp only [shift]

/-- The spacing after an edge: to the next one, from the last to the first of the next cycle (R9). -/
theorem spacings_get (f : Nat) (l : List EdgeItem) (i : Nat) (d : Nat) : (spacings f l)[i]? = some d ↔
    ∃ a, l[i]? = some a ∧ ((∃ b, l[i+1]? = some b ∧ d = b.angle - a.angle) ∨ (l[i+1]? = none ∧
        d = f + cycleAu - a.angle)) := by
  induction l generalizing i with
  | nil => simp [spacings]
  | cons x l ih =>
    cases l with
    | nil =>
      cases i with
      | zero => simp [spacings]; constructor <;> (intro h; exact h.symm)
      | succ i => simp [spacings]
    | cons y rest =>
      cases i with
      | zero => simp [spacings]; constructor <;> (intro h; exact h.symm)
      | succ i =>
        simp only [spacings, List.getElem?_cons_succ]
        rw [ih]; simp

/-- The first place of which `p` holds. -/
theorem findIdx_eq {α} (l : List α) (p : α → Bool) (i : Nat) : l.findIdx? p = some i ↔ (∃ a, l[i]? = some a ∧
    p a = true) ∧ ∀ j < i, ∀ a, l[j]? = some a → p a = false := by
  rw [List.findIdx?_eq_some_iff_getElem]
  constructor
  · rintro ⟨h, h1, h2⟩
    refine ⟨⟨l[i], by simp [h], h1⟩, fun j hj a ha => ?_⟩
    have := h2 j hj
    rw [List.getElem?_eq_getElem (by omega)] at ha; cases ha; simpa using this
  · rintro ⟨⟨a, h1, h2⟩, h3⟩
    obtain ⟨h, rfl⟩ := List.getElem?_eq_some_iff.1 h1
    refine ⟨h, h2, fun j hj => ?_⟩
    simpa using h3 j hj l[j] (by simp)

/-- The first owner of a line that a later owner also has, and the first such (R10). -/
theorem firstClash_eq (l : List (Nat × LineABCD)) (hl : l.Pairwise fun a b => a.1 < b.1) (x : LineABCD) (a b : Nat) :
    firstClash l = some (x, a, b) ↔ a < b ∧ (a, x) ∈ l ∧ (b, x) ∈ l ∧ (∀ c, a < c → c < b → (c, x) ∉ l) ∧
      ∀ y c d, c < a → c < d → (c, y) ∈ l → (d, y) ∉ l := by
  induction l with
  | nil => simp [firstClash]
  | cons p rest ih =>
    obtain ⟨n, z⟩ := p
    rw [List.pairwise_cons] at hl
    have ih := ih hl.2
    have hlt : ∀ m y, (m, y) ∈ rest → n < m := fun m y h => hl.1 (m, y) h
    unfold firstClash
    cases hf : rest.find? (fun p => p.2 == z) with
    | none =>
      simp only []
      rw [ih]
      have hno : ∀ m, (m, z) ∉ rest := by
        intro m hm; have := List.find?_eq_none.1 hf (m, z) hm; simp at this
      constructor
      · rintro ⟨h1, h2, h3, h4, h5⟩
        refine ⟨h1, by simp [h2], by simp [h3], ?_, ?_⟩
        · intro c hc hc2 hm
          rcases List.mem_cons.1 hm with h | h
          · cases h; exact hno _ h2
          · exact h4 c hc hc2 h
        · intro y c d hc hd hm hm2
          rcases List.mem_cons.1 hm with h | h
          · cases h
            rcases List.mem_cons.1 hm2 with h | h
            · cases h; omega
            · exact hno _ h
          · rcases List.mem_cons.1 hm2 with h' | h'
            · cases h'; have := hlt _ _ h; omega
            · exact h5 y c d hc hd h h'
      · rintro ⟨h1, h2, h3, h4, h5⟩
        rcases List.mem_cons.1 h2 with h | h
        · cases h
          rcases List.mem_cons.1 h3 with h | h
          · cases h; omega
          · exact absurd h (hno _)
        · rcases List.mem_cons.1 h3 with h' | h'
          · cases h'; exact absurd h (hno _)
          · refine ⟨h1, h, h', ?_, ?_⟩
            · intro c hc hc2 hm; exact h4 c hc hc2 (by simp [hm])
            · intro y c d hc hd hm hm2; exact h5 y c d hc hd (by simp [hm]) (by simp [hm2])
    | some q =>
      simp only []
      obtain ⟨m, y⟩ := q
      obtain ⟨hq, as, bs, hab, hbefore⟩ := List.find?_eq_some_iff_append.1 hf
      have hy : y = z := by simpa using hq
      subst hy
      have hm : (m, y) ∈ rest := by rw [hab]; simp
      constructor
      · intro h
        injection h with h; injection h with h1 h2; injection h2 with h2 h3
        subst h1 h2 h3
        refine ⟨hlt _ _ hm, by simp, by simp [hm], ?_, ?_⟩
        · intro c hc hc2 hmm
          rcases List.mem_cons.1 hmm with h | h
          · cases h; omega
          · rw [hab] at h
            rcases List.mem_append.1 h with h | h
            · have := hbefore _ h; simp at this
            · rcases List.mem_cons.1 h with h | h
              · cases h; omega
              · have h6 := hl.2; rw [hab, List.pairwise_append] at h6
                have := List.rel_of_pairwise_cons h6.2.1 h; simp at this; omega
        · intro w c d hc hd hmm hmm2
          rcases List.mem_cons.1 hmm with h | h
          · cases h; omega
          · have := hlt _ _ h; omega
      · rintro ⟨h1, h2, h3, h4, h5⟩
        have e1 : a = n := by
          by_contra hne
          rcases List.mem_cons.1 h2 with h | h
          · cases h; exact hne rfl
          · have := hlt _ _ h
            exact h5 y n m this (hlt _ _ hm) (by simp) (by simp [hm])
        subst e1
        have e2 : x = y := by
          rcases List.mem_cons.1 h2 with h | h
          · cases h; rfl
          · have := hlt _ _ h; omega
        subst e2
        have e3 : b = m := by
          rcases Nat.lt_trichotomy b m with h | h | h
          · exfalso
            rcases List.mem_cons.1 h3 with hb | hb
            · cases hb; omega
            · rw [hab] at hb
              rcases List.mem_append.1 hb with hb | hb
              · have := hbefore _ hb; simp at this
              · rcases List.mem_cons.1 hb with hb | hb
                · cases hb; omega
                · have h6 := hl.2; rw [hab, List.pairwise_append] at h6
                  have := List.rel_of_pairwise_cons h6.2.1 hb; simp at this; omega
          · exact h
          · exact absurd (by simp [hm]) (h4 m (hlt _ _ hm) h)
        subst e3; rfl

/-- A channel is bound where both its lines are there. -/
theorem BindItem.bound_iff (b : BindItem) : b.bound = true ↔ b.cam ≠ none ∧ b.driver ≠ none := by
  unfold BindItem.bound; cases b.cam <;> cases b.driver <;> simp

/-- A unit is bound where both its lines are there. -/
theorem LiftItem.bound_iff (i : LiftItem) : i.bound = true ↔ i.driver ≠ none ∧ i.sense ≠ none := by
  unfold LiftItem.bound; cases i.driver <;> cases i.sense <;> simp

end Sys2Proof.Machine
end

