-- ==== Sys2Proof/Laws/Ops.lean ====
section
/-! SUPPORT. What taking a handover, performing a request, answering and sending can do: the lemmas that proofs cite in
place of unfolding them, and for each command that takes a handover the one equation that says what it makes of it. -/

set_option linter.unusedSimpArgs false

namespace Sys2Proof.Machine

/-! ### Taking a handover -/

/-- The first handover of its lane is taken, where no handover of another lane is wanted. -/
theorem takeFrom_first {α : Type} (want : Handover → Option α) (h : Handover) (a : α) (post : List Handover)
    (hw : want h = some a) (hl : ∀ x, x.lane ≠ h.lane → want x = none) (pre : List Handover) (blocked : List Lane)
    (hp : ∀ x ∈ pre, x.lane ≠ h.lane) (hb : h.lane ∉ blocked) :
    takeFrom want blocked (pre ++ h :: post) = some (a, pre ++ post) := by
  induction pre generalizing blocked with
  | nil => simp [takeFrom, hb, hw]
  | cons x pre ih =>
    have hx : x.lane ≠ h.lane := hp x (by simp)
    have ht := ih (x.lane :: blocked) (fun y hy => hp y (by simp [hy])) (by simp [hb, Ne.symm hx])
    simp [takeFrom, hl x hx, ht]

/-- Nothing is taken of a lane that is blocked, where no handover of another lane is wanted. -/
theorem takeFrom_blocked {α : Type} (want : Handover → Option α) (lane : Lane)
    (hl : ∀ x : Handover, x.lane ≠ lane → want x = none) (l : List Handover) (blocked : List Lane) (hb : lane ∈ blocked) :
    takeFrom want blocked l = none := by
  induction l generalizing blocked with
  | nil => rfl
  | cons x l ih =>
    have hx : (if blocked.contains x.lane then none else want x) = none := by
      by_cases h : x.lane = lane
      · simp [h, hb]
      · simp [hl x h]
    unfold takeFrom; rw [hx]; simp [ih (x.lane :: blocked) (by simp [hb])]

/-- Where the first handover of the wanted lane is held back, the command finds nothing to take. -/
theorem State.taking_of_heldBack {α : Type} {s : State} {h : Handover} {want : Handover → Option α}
    {act : α → State → State} (pre post : List Handover) (e : s.handovers = pre ++ h :: post)
    (hp : ∀ x ∈ pre, x.lane ≠ h.lane) (hb : s.heldBack h = true) (hl : ∀ x, x.lane ≠ h.lane → want x = none) :
    s.taking want act = s := by
  have key : ∀ (l : List Handover) (blocked : List Lane), (∀ x ∈ l, x.lane ≠ h.lane) →
      takeFrom (fun x => if s.heldBack x then none else want x) blocked (l ++ h :: post) = none := by
    intro l
    induction l with
    | nil =>
      intro blocked _
      have := takeFrom_blocked (fun x => if s.heldBack x then none else want x) h.lane (fun x hx => by simp [hl x hx]) post
        (h.lane :: blocked) (by simp)
      simp [takeFrom, hb, this]
    | cons x l ih =>
      intro blocked hx
      have := ih (x.lane :: blocked) fun y hy => hx y (by simp [hy])
      simp [takeFrom, hl x (hx x (by simp)), this]
  simp [State.taking, State.take, e, key pre [] hp]

/-- Where everything the command would take waits, it finds nothing to take. -/
theorem State.taking_of_all_held {α : Type} {s : State} {want : Handover → Option α} {act : α → State → State}
    (h : ∀ x ∈ s.handovers, want x = none ∨ s.heldBack x = true) : s.taking want act = s := by
  have key : ∀ (l : List Handover) (blocked : List Lane), (∀ x ∈ l, want x = none ∨ s.heldBack x = true) →
      takeFrom (fun x => if s.heldBack x then none else want x) blocked l = none := by
    intro l
    induction l with
    | nil => intros; rfl
    | cons x l ih =>
      intro blocked hx
      have := ih (x.lane :: blocked) fun y hy => hx y (by simp [hy])
      rcases hx x (by simp) with hw | hw <;> simp [takeFrom, hw, this]
  simp [State.taking, State.take, key s.handovers [] h]

/-- A command that takes a handover offered to it does its work on the state without it. -/
theorem State.taking_of_offers {α : Type} {s t : State} {h : Handover} {want : Handover → Option α} {a : α}
    {act : α → State → State} (o : s.offers h t) (hw : want h = some a)
    (hl : ∀ x, x.lane ≠ h.lane → want x = none) : s.taking want act = act a t := by
  obtain ⟨pre, post, e, hp, hb, rfl⟩ := o
  simp [State.taking, State.take, e,
    takeFrom_first (fun x => if s.heldBack x then none else want x) h a post (by simp [hb, hw])
      (fun x hx => by simp [hl x hx]) pre [] hp (by simp)]

/-- A command that takes a handover and drops stale ones handed out before it does its work on the state without them:
`pre` is what was handed out before the handover. -/
theorem State.takingOver_of_before {α : Type} {s : State} {h : Handover} {want : Handover → Option α} {a : α}
    {stale : Handover → Bool} {act : α → State → State} (pre post : List Handover) (e : s.handovers = pre ++ h :: post)
    (hp : ∀ x ∈ pre, x.lane ≠ h.lane) (hb : s.heldBack h = false) (hw : want h = some a)
    (hl : ∀ x, x.lane ≠ h.lane → want x = none) :
    s.takingOver want stale act = act a { s with handovers := pre.filter (fun x => !stale x) ++ post } := by
  have ht : s.handovers.takeWhile (fun x => (want x).isNone) = pre := by
    rw [e, List.takeWhile_append_of_pos (fun x hx => by simp [hl x (hp x hx)])]
    simp [hw]
  have hd : s.handovers.drop (pre.length + 1) = post := by rw [e]; simp
  unfold State.takingOver
  rw [State.taking_of_offers (a := a) ⟨pre, post, e, hp, hb, rfl⟩ hw hl, ht, hd]

/-- Such a command either finds none and leaves the state, or does its work on the state with fewer handovers. -/
theorem State.takingOver_cases {α : Type} (s : State) (want : Handover → Option α) (stale : Handover → Bool)
    (act : α → State → State) :
    s.takingOver want stale act = s ∨ ∃ a l, s.takingOver want stale act = act a { s with handovers := l } := by
  unfold State.takingOver State.taking State.take
  cases takeFrom (fun h => if s.heldBack h then none else want h) [] s.handovers with
  | none => exact Or.inl rfl
  | some r => exact Or.inr ⟨r.1, _, rfl⟩

/-- A command that takes a handover either finds none and leaves the state, or does its work on the state with one
handover fewer. -/
theorem State.taking_cases {α : Type} (s : State) (want : Handover → Option α) (act : α → State → State) :
    s.taking want act = s ∨ ∃ a l, s.taking want act = act a { s with handovers := l } := by
  unfold State.taking State.take
  cases takeFrom (fun h => if s.heldBack h then none else want h) [] s.handovers with
  | none => exact Or.inl rfl
  | some r => exact Or.inr ⟨r.1, r.2, rfl⟩

/-- What every handover's work keeps, taking keeps, if it does not look at the handovers. -/
theorem State.taking_keeps {α β : Type} (p : State → β) (s : State) (want : Handover → Option α)
    (act : α → State → State) (hp : ∀ s l, p { s with handovers := l } = p s) (ha : ∀ a s, p (act a s) = p s) :
    p (s.taking want act) = p s := by
  rcases s.taking_cases want act with h | ⟨a, l, h⟩ <;> simp [h, ha, hp]

/-- A property that every handover's work keeps, taking keeps, if it does not look at the handovers. -/
theorem State.taking_inv {α : Type} (P : State → Prop) (s : State) (want : Handover → Option α)
    (act : α → State → State) (hp : ∀ s l, P s → P { s with handovers := l }) (ha : ∀ a s, P s → P (act a s))
    (hs : P s) : P (s.taking want act) := by
  rcases s.taking_cases want act with h | ⟨a, l, h⟩ <;> rw [h]
  · exact hs
  · exact ha a _ (hp s l hs)

/-! ### Performing a request -/

/-- A request that the part is free to perform is performed on the state as it begins. -/
theorem State.request_of_begins {s t : State} {k : Keyword} {fields : List Field} (act : State → State)
    (h : s.begins k fields t) : s.request k fields act = act t := by
  obtain ⟨hd, rfl⟩ := h
  simp [State.request, hd, State.begun]

/-- A request is performed on the state as it begins, or not at all. -/
theorem State.request_cases (s : State) (k : Keyword) (fields : List Field) (act : State → State) :
    s.request k fields act = s ∨ s.request k fields act = act (s.begun k) := by
  unfold State.request State.begun
  split
  · exact Or.inr rfl
  · exact Or.inl rfl

/-- What the request keeps, if it does not look at the port, performing keeps. -/
theorem State.request_keeps {β : Type} (p : State → β) (s : State) (k : Keyword) (fields : List Field)
    (act : State → State) (hp : ∀ s f, p (s.updClp f) = p s) (ha : ∀ s, p (act s) = p s) :
    p (s.request k fields act) = p s := by
  rcases s.request_cases k fields act with h | h <;> simp [h, ha, hp, State.begun]

/-- A property that the request keeps, performing keeps, if beginning a request keeps it. -/
theorem State.request_inv (P : State → Prop) (s : State) (k : Keyword) (fields : List Field) (act : State → State)
    (hb : ∀ s, P s → P (s.begun k)) (ha : ∀ s, P s → P (act s)) (hs : P s) : P (s.request k fields act) := by
  rcases s.request_cases k fields act with h | h <;> rw [h]
  · exact hs
  · exact ha _ (hb s hs)

/-- A change made for each element of a list keeps what each change keeps. -/
theorem forEach_inv {α : Type} (P : State → Prop) (l : List α) (f : State → α → State)
    (h : ∀ s a, P s → P (f s a)) (s : State) (hs : P s) : P (forEach l f s) := by
  unfold forEach
  induction l generalizing s with
  | nil => exact hs
  | cons a l ih => exact ih _ (h s a hs)

/-- The simplest offer: the handover stands at the front. -/
theorem State.offers_front (s : State) (h : Handover) (rest : List Handover) (e : s.handovers = h :: rest)
    (hb : s.heldBack h = false) : s.offers h { s with handovers := rest } := ⟨[], rest, by simp [e], by simp, hb, by simp⟩

/-- Whether a request begins can be evaluated. -/
theorem State.begins_of (s : State) (k : Keyword) (fields : List Field) (h : s.dispatches k fields = true) :
    s.begins k fields (s.begun k) := ⟨h, rfl⟩

/-! ### The port -/

/-- Sending the next line touches only the line in progress, the replies and the queue, and neither list grows. -/
theorem Clp.pump_spec (c : Clp) :
    ∃ sending replies queue, c.pump = { c with sending := sending, replies := replies, queue := queue } ∧
      replies.length ≤ c.replies.length ∧ queue.length ≤ c.queue.length := by
  unfold Clp.pump
  repeat' split
  all_goals first
    | exact ⟨_, _, _, rfl, le_rfl, le_rfl⟩
    | (refine ⟨_, _, _, rfl, ?_, ?_⟩ <;> simp_all)

/-- With nothing in progress and no line waiting before it, a reply begins at once (R182). -/
theorem Clp.answer_idle (c : Clp) (k : LineKey) (st : Status) (l : List Field) (h : c.sending = none)
    (hr : c.replies = []) : (c.answer k st l).sending = some (.reply ⟨.reply, k, .word st.token :: l⟩) := by
  simp [Clp.answer, Clp.pump, h, hr]

/-! ### Programmed pages -/

/-- What stands before the check of a page is 124 bytes (R161). -/
theorem pageBody_length (id index : Nat) (gen : Gen) (payload : List Byte) :
    (pageBody id index gen payload).length = 124 := by
  simp only [pageBody, bytes16, List.length_append, List.length_cons, List.length_nil, List.length_replicate,
    List.length_take]
  omega

/-- A programmed page passes its check (R161). -/
theorem Page.build_passes (id index : Nat) (gen : Gen) (image : TableImage) :
    (Page.build id index gen image).passes = true := by
  have h := pageBody_length id index gen (Config.encodePayload image index)
  simp only [Page.passes, Page.build, beq_iff_eq]
  rw [List.drop_left' h, List.take_left' h]

/-- A page programmed for its place in a region is good there (R162). -/
theorem Page.build_good (r : Region) (index : Nat) (gen : Gen) (image : TableImage) :
    (Page.build (regionId r) index gen image).good r index = true := by
  simp only [Page.good, Page.build_passes, Bool.true_and, Bool.and_eq_true, beq_iff_eq]
  exact ⟨rfl, rfl⟩

/-- An erased page is good in no region (R162). -/
theorem Page.erased_good (r : Region) (index : Nat) : Page.erased.good r index = false := by
  have h : (Page.erased.byte 0 == BitVec.ofNat 8 (regionId r)) = false := by cases r <;> rfl
  simp [Page.good, h]

/-- Its header carries the generation (R161). -/
theorem Page.build_gen (id index : Nat) (gen : Gen) (image : TableImage) :
    (Page.build id index gen image).gen = gen := by
  simp only [Page.gen, Page.byte, Page.build, pageBody, bytes16, List.cons_append, List.nil_append,
    List.getD_cons_succ, List.getD_cons_zero]
  apply BitVec.eq_of_getLsbD_eq
  intro i hi
  simp only [BitVec.getLsbD_or, BitVec.getLsbD_shiftLeft, BitVec.getLsbD_setWidth, BitVec.getLsbD_ushiftRight]
  by_cases h : i < 8
  · simp [h, show i < 16 by omega]
  · simp [h, hi, show i - 8 < 8 by omega, show i - 8 < 16 by omega, show 8 + (i - 8) = i by omega]

/-- Pages that are all erased make a region BLANK (R162). -/
theorem evaluatePages_erased (r : Region) (l : List Page) (h : ∀ p ∈ l, p = .erased) :
    evaluatePages r l = ⟨.blank, 0⟩ := by
  have g : goodGens r l = [] := by
    simp only [goodGens, List.filterMap_eq_nil_iff]
    intro a ha
    obtain ⟨i, hi, rfl⟩ := List.mem_mapIdx.mp ha
    have := h _ (List.getElem_mem hi)
    simp [this, Page.erased_good]
  have a : l.all Page.isErased = true := by
    simp only [List.all_eq_true]
    intro p hp
    rw [h p hp]; rfl
  simp only [evaluatePages, g, a, if_true]

/-! ### What each command makes of the handover offered to it -/


theorem execReferenceReport_of_offers {s t : State} (seen lap : Bool) (ho : s.offers (.referenceReport seen lap) t) :
    execReferenceReport s = .next (t.takeReport seen lap) := by
  unfold execReferenceReport
  rw [State.taking_of_offers (a := (seen, lap)) ho (by simp [wantReferenceReport])
    (fun x hx => by cases x <;> simp_all [wantReferenceReport, Handover.lane])]

theorem execAscLockGained_of_offers {s t : State} (ho : s.offers (.ascLock true) t) :
    execAscLockGained s = .next (t.buildList) := by
  unfold execAscLockGained
  rw [State.taking_of_offers (a := ()) ho (by simp [wantAscLock])
    (fun x hx => by cases x <;> simp_all [wantAscLock, Handover.lane])]

theorem execAscLockLost_of_offers {s t : State} (ho : s.offers (.ascLock false) t) :
    execAscLockLost s = .next (t.emptyList) := by
  unfold execAscLockLost
  rw [State.taking_of_offers (a := ()) ho (by simp [wantAscLock])
    (fun x hx => by cases x <;> simp_all [wantAscLock, Handover.lane])]

theorem execCeuEdgeClose_of_offers {s t : State} (ch : Chan) (k a : Nat) (c : Word32)
    (ho : s.offers (.ceuEdgeClose ch k a c) t) :
    execCeuEdgeClose s = .next (t.closeWindow ch k c) := by
  unfold execCeuEdgeClose
  rw [State.taking_of_offers (a := (ch, k, c)) ho (by simp [wantEdgeClose])
    (fun x hx => by cases x <;> simp_all [wantEdgeClose, Handover.lane])]

/-- An edge is late just where the EDGE_CLOSE that ends its occurrence is the last one of its window taken. -/
theorem State.edgeLate_iff {s : State} {stamp n : Word32} (hn : s.cycleAt stamp = some n) (ch : Chan)
    (k a windowEnd : Nat) : s.edgeLate ch k a windowEnd stamp = true ↔
      ((s.ceu.chans.get ch).window k).ended = some (closingCycle n a windowEnd) := by
  simp [State.edgeLate, hn]

/-- The clock gives an edge a cycle just where it gives it an angle. -/
theorem State.cycleAt_isSome (s : State) (t : Word32) : (s.cycleAt t).isSome = (s.angleAt t).isSome := by
  simp [State.cycleAt, State.angleAt]

theorem execCeuCycleStart_of_offers {s t : State} (a : Nat) (c : Word32)
    (ho : s.offers (.ceuCycleStart a c) t) :
    execCeuCycleStart s = .next (t.ceuCycleStart) := by
  unfold execCeuCycleStart
  rw [State.taking_of_offers (a := c) ho (by simp [wantCeuCycle])
    (fun x hx => by cases x <;> simp_all [wantCeuCycle, Handover.lane])]

theorem execCeuLockGained_of_offers {s t : State} (ho : s.offers (.ceuLock true) t) :
    execCeuLockGained s = .next (t.ceuLockGained) := by
  unfold execCeuLockGained
  rw [State.taking_of_offers (a := ()) ho (by simp [wantCeuLock])
    (fun x hx => by cases x <;> simp_all [wantCeuLock, Handover.lane])]

theorem execCeuLockLost_of_before {s : State} (pre post : List Handover)
    (e : s.handovers = pre ++ .ceuLock false :: post) (hp : ∀ x ∈ pre, x.lane ≠ .ceuLock) :
    execCeuLockLost s = .next
      (State.ceuLockLost { s with handovers := pre.filter (fun h => h.lane != .ceuSchedule) ++ post }) := by
  unfold execCeuLockLost
  rw [State.takingOver_of_before (a := ()) pre post e hp rfl (by simp [wantCeuLock])
    (fun x hx => by cases x <;> simp_all [wantCeuLock, Handover.lane])]
  rfl

theorem execPhcMatch_of_offers {s t : State} (ch : Chan) (k : Nat) (p : Int) (x c : Word32) (ho : s.offers (.phcMatch ch k p x c) t) :
    execPhcMatch ch s = .next (t.phcTakesMatch ch c) := by
  unfold execPhcMatch
  rw [State.taking_of_offers (a := c) ho (by simp [wantMatch])
    (fun x hx => by cases x <;> simp_all [wantMatch, Handover.lane])]

theorem execPhcMeasurementMissing_of_offers {s t : State} (ch : Chan) (k : Nat) (c : Word32) (ho : s.offers (.phcMissing ch k c) t) :
    execPhcMeasurementMissing ch s = .next (t.addHold ch .measure) := by
  unfold execPhcMeasurementMissing
  rw [State.taking_of_offers (a := ()) ho (by simp [wantMissing])
    (fun x hx => by cases x <;> simp_all [wantMissing, Handover.lane])]

theorem execPhcLockLost_of_offers {s t : State} (ch : Chan) (ho : s.offers (.phcLockLost ch) t) :
    execPhcLockLost ch s = .next (t.parkIfDriving ch .lock) := by
  unfold execPhcLockLost
  rw [State.taking_of_offers (a := ()) ho (by simp [wantPhcLockLost])
    (fun x hx => by cases x <;> simp_all [wantPhcLockLost, Handover.lane])]

theorem execPhcStartNotification_of_offers {s t : State} (ch : Chan) (ho : s.offers (.phcStart ch) t) :
    execPhcStartNotification ch s = .next (t.endTest ch .abandon) := by
  unfold execPhcStartNotification
  rw [State.taking_of_offers (a := ()) ho (by simp [wantPhcStart])
    (fun x hx => by cases x <;> simp_all [wantPhcStart, Handover.lane])]

theorem execPhcClaimPlaced_of_offers {s t : State} (ch : Chan) (ho : s.offers (.phcClaim ch true) t) :
    execPhcClaimPlaced ch s = .next (t.takesClaim ch) := by
  unfold execPhcClaimPlaced
  rw [State.taking_of_offers (a := ()) ho (by simp [wantClaim])
    (fun x hx => by cases x <;> simp_all [wantClaim, Handover.lane])]

theorem execPhcClaimReleased_of_offers {s t : State} (ch : Chan) (ho : s.offers (.phcClaim ch false) t) :
    execPhcClaimReleased ch s = .next (t.causeGone ch .claim) := by
  unfold execPhcClaimReleased
  rw [State.taking_of_offers (a := ()) ho (by simp [wantClaim])
    (fun x hx => by cases x <;> simp_all [wantClaim, Handover.lane])]

theorem execPhcSupplyChange_of_offers {s t : State} (ch : Chan) (st : SupplyState) (ho : s.offers (.phcSupply ch st) t) :
    execPhcSupplyChange ch s = .next (t.takesSupply ch st) := by
  unfold execPhcSupplyChange
  rw [State.taking_of_offers (a := st) ho (by simp [wantPhcSupply])
    (fun x hx => by cases x <;> simp_all [wantPhcSupply, Handover.lane])]

theorem execPhcResponseChange_of_offers {s t : State} (ch : Chan) (a : PhaserAction) (ho : s.offers (.phcResponse ch a) t) :
    execPhcResponseChange ch s = .next (t.takesResponse ch a) := by
  unfold execPhcResponseChange
  rw [State.taking_of_offers (a := a) ho (by simp [wantPhcResponse])
    (fun x hx => by cases x <;> simp_all [wantPhcResponse, Handover.lane])]

theorem execPhcSourceChange_of_offers {s t : State} (ch : Chan) (x : Source) (ho : s.offers (.phcSource ch x) t) :
    execPhcSourceChange ch s = .next (t.takesSource ch x) := by
  unfold execPhcSourceChange
  rw [State.taking_of_offers (a := x) ho (by simp [wantPhcSource])
    (fun x hx => by cases x <;> simp_all [wantPhcSource, Handover.lane])]

theorem execPhcDriverFault_of_offers {s t : State} (ch : Chan) (c : Bool) (ho : s.offers (.phcDriverFault ch c) t) :
    execPhcDriverFault ch s = .next (if c then t.shortFault ch else t.driverFault ch) := by
  unfold execPhcDriverFault
  rw [State.taking_of_offers (a := c) ho (by simp [wantDriverFault])
    (fun x hx => by cases x <;> simp_all [wantDriverFault, Handover.lane])]

theorem execPhcClass1Report_of_offers {s t : State} (ch : Chan) (ho : s.offers (.phcClass1 ch) t) :
    execPhcClass1Report ch s = .next (t.class1 ch) := by
  unfold execPhcClass1Report
  rw [State.taking_of_offers (a := false) ho (by simp [wantClass1])
    (fun x hx => by cases x <;> simp_all [wantClass1, Handover.lane])]
  rfl

theorem execPhcDriverClear_of_offers {s t : State} (ch : Chan) (ho : s.offers (.phcDriverClear ch) t) :
    execPhcDriverClear ch s = .next (t.driverCleared ch) := by
  unfold execPhcDriverClear
  rw [State.taking_of_offers (a := ()) ho (by simp [wantPhcClear])
    (fun x hx => by cases x <;> simp_all [wantPhcClear, Handover.lane])]

theorem execPhcOpptOil_of_offers {s t : State} (k : Nat) (ho : s.offers (.phcOil k) t) :
    execPhcOpptOil s = .next (t.watchOil k) := by
  unfold execPhcOpptOil
  rw [State.taking_of_offers (a := k) ho (by simp [wantOil])
    (fun x hx => by cases x <;> simp_all [wantOil, Handover.lane])]

theorem execPhcOpptChanged_of_offers {s t : State} (ho : s.offers (.phcOpptChanged) t) :
    execPhcOpptChanged s = .next (forEach allChans State.evaluate t) := by
  unfold execPhcOpptChanged
  rw [State.taking_of_offers (a := ()) ho (by simp [wantOpptChanged])
    (fun x hx => by cases x <;> simp_all [wantOpptChanged, Handover.lane])]

theorem execTgaCycleStart_of_offers {s t : State} (a : Nat) (c : Word32)
    (ho : s.offers (.tgaCycleStart a c) t) :
    execTgaCycleStart s = .next (t.tgaCycle) := by
  unfold execTgaCycleStart
  rw [State.taking_of_offers (a := c) ho (by simp [wantTgaCycle])
    (fun x hx => by cases x <;> simp_all [wantTgaCycle, Handover.lane])]

theorem execTgaResponseChange_of_offers {s t : State} (ch : Chan) (a : PhaserAction) (ho : s.offers (.tgaResponse ch a) t) :
    execTgaResponseChange ch s = .next (t.tgaTakesResponse ch a) := by
  unfold execTgaResponseChange
  rw [State.taking_of_offers (a := a) ho (by simp [wantTgaResponse])
    (fun x hx => by cases x <;> simp_all [wantTgaResponse, Handover.lane])]

theorem execTrbCycleStart_of_offers {s t : State} (a : Nat) (c : Word32)
    (ho : s.offers (.trbCycleStart a c) t) :
    execTrbCycleStart s = .next ((t.closeSlot false).openSlot c) := by
  unfold execTrbCycleStart
  rw [State.taking_of_offers (a := c) ho (by simp [wantTrbCycle])
    (fun x hx => by cases x <;> simp_all [wantTrbCycle, Handover.lane])]

theorem execTrbEdgeRecord_of_offers {s t : State} (r : EdgeRecord) (ho : s.offers (.trbEdge r) t) :
    execTrbEdgeRecord s = .next (t.offerEdge r) := by
  unfold execTrbEdgeRecord
  rw [State.taking_of_offers (a := r) ho (by simp [wantEdge])
    (fun x hx => by cases x <;> simp_all [wantEdge, Handover.lane])]

/-- What a slot makes of edge records offered one after another. -/
theorem TraceSlot.foldl_offer (es : List EdgeRecord) (x : TraceSlot) : es.foldl TraceSlot.offer x = { x with
    edges := x.edges ++ es.take (40 - x.edges.length)
    offered := if x.offered < 255 then min 255 (x.offered + es.length) else x.offered
    truncated := x.truncated || decide (es ≠ [] ∧ 40 < x.edges.length + es.length) } := by
  induction es generalizing x with
  | nil => cases x; simp; omega
  | cons e es ih =>
    have hb : ∀ n m : Nat, (if (if n < 255 then n + 1 else n) < 255 then min 255 ((if n < 255 then n + 1 else n) + m)
        else if n < 255 then n + 1 else n) = if n < 255 then min 255 (n + (m + 1)) else n := by
      intro n m; repeat' split
      all_goals omega
    rw [List.foldl_cons, ih]
    unfold TraceSlot.offer bump
    by_cases h : x.edges.length < 40
    · obtain ⟨n, hn⟩ : ∃ n, 40 - x.edges.length = n + 1 := ⟨39 - x.edges.length, by omega⟩
      simp only [h, if_true, TraceSlot.mk.injEq]
      simp only [List.length_append, List.length_cons, List.length_nil, List.append_assoc, List.cons_append,
        List.nil_append, hn, List.take_succ_cons, hb, ne_eq, reduceCtorEq, not_false_eq_true, true_and, and_true]
      refine ⟨by congr 3; omega, ?_⟩
      congr 1
      cases es <;> simp <;> omega
    · have h0 : 40 - x.edges.length = 0 := by omega
      have h1 : 40 < x.edges.length + (es.length + 1) := by omega
      simp only [h, if_false, TraceSlot.mk.injEq]
      simp [h0, h1, hb]

/-- Handed edge records go into the FILLING slot, which stands after `front`; with none FILLING nothing changes. -/
theorem State.offerHanded_eq (s : State) :
    ((∀ x ∈ s.trb.slots, x.state ≠ .filling) → s.offerHanded = s) ∧
    ∀ front x back, s.trb.slots = front ++ x :: back → x.state = .filling → (∀ y ∈ front, y.state ≠ .filling) →
      s.offerHanded = { s with
        handovers := s.handovers.filter fun h => (wantEdge h).isNone
        trb := { s.trb with
          slots := front ++ (s.handovers.filterMap wantEdge).foldl TraceSlot.offer x :: back } } := by
  constructor
  · intro hx
    have : s.trb.slots.findIdx? (fun x => x.state == SlotState.filling) = none := by
      rw [List.findIdx?_eq_none_iff]; simpa using hx
    simp [State.offerHanded, Trb.first, this]
  · intro front x back hs hf hfr
    have hi : s.trb.slots.findIdx? (fun x => x.state == SlotState.filling) = some front.length := by
      rw [hs, List.findIdx?_append, List.findIdx?_eq_none_iff.2 (by simpa using hfr)]
      simp [hf, List.findIdx?_cons]
    have hg : s.trb.slot front.length = x := by simp [Trb.slot, hs]
    unfold State.offerHanded
    simp only [Trb.first, hi, hg]
    simp [State.setSlot, State.updTrb, hs]

theorem execTrbLockLost_of_before {s : State} (pre post : List Handover)
    (e : s.handovers = pre ++ .trbLockLost :: post) (hp : ∀ x ∈ pre, x.lane ≠ .trbLock) :
    execTrbLockLost s = .next
      (State.closeSlot (State.offerHanded
        { s with handovers := pre.filter (fun h => !(wantTrbCycle h).isSome) ++ post }) true) := by
  unfold execTrbLockLost
  rw [State.takingOver_of_before (a := ()) pre post e hp rfl (by simp [wantTrbLockLost])
    (fun x hx => by cases x <;> simp_all [wantTrbLockLost, Handover.lane])]

theorem execTriggerPush_of_offers {s t : State} (c : TraceCause) (ho : s.offers (.trbPush c) t) :
    execTriggerPush s = .next (t.push c) := by
  unfold execTriggerPush
  rw [State.taking_of_offers (a := c) ho (by simp [wantPush])
    (fun x hx => by cases x <;> simp_all [wantPush, Handover.lane])]

theorem execLfsLiftDecide_of_offers {s t : State} (u : LiftUnit) (a : Nat) (c : Word32)
    (ho : s.offers (.liftEntry (.liftDecide u) a c) t) :
    execLfsLiftDecide u s = .next (t.liftDecide u c) := by
  unfold execLfsLiftDecide
  rw [State.taking_of_offers (a := c) ho (by simp [wantLift])
    (fun x hx => by cases x <;> simp_all [wantLift, Handover.lane])]

theorem execLfsLiftOpen_of_offers {s t : State} (u : LiftUnit) (a : Nat) (c : Word32)
    (ho : s.offers (.liftEntry (.liftOpen u) a c) t) :
    execLfsLiftOpen u s = .next (t.liftOpen u) := by
  unfold execLfsLiftOpen
  rw [State.taking_of_offers (a := c) ho (by simp [wantLift])
    (fun x hx => by cases x <;> simp_all [wantLift, Handover.lane])]

theorem execLfsLiftClose_of_offers {s t : State} (u : LiftUnit) (a : Nat) (c : Word32)
    (ho : s.offers (.liftEntry (.liftClose u) a c) t) :
    execLfsLiftClose u s = .next (t.liftClose u c) := by
  unfold execLfsLiftClose
  rw [State.taking_of_offers (a := c) ho (by simp [wantLift])
    (fun x hx => by cases x <;> simp_all [wantLift, Handover.lane])]

theorem execSenseChange_of_offers {s t : State} (u : LiftUnit) (h : Bool) (ho : s.offers (.senseChange u h) t) :
    execSenseChange u s = .next (t.takesSense u h) := by
  unfold execSenseChange
  rw [State.taking_of_offers (a := h) ho (by simp [wantSense])
    (fun x hx => by cases x <;> simp_all [wantSense, Handover.lane])]

theorem execLfsLockLost_of_before {s : State} (u : LiftUnit) (pre post : List Handover)
    (e : s.handovers = pre ++ .lfsLockLost u :: post) (hp : ∀ x ∈ pre, x.lane ≠ .lfsCrank u) :
    execLfsLockLost u s = .next
      (State.liftLockLost { s with handovers := pre.filter (fun h => !h.entryOf u) ++ post } u) := by
  unfold execLfsLockLost
  rw [State.takingOver_of_before (a := ()) pre post e hp rfl (by simp [wantLfsLockLost])
    (fun x hx => by cases x <;> simp_all [wantLfsLockLost, Handover.lane])]

theorem execLfsStartNotification_of_offers {s t : State} (u : LiftUnit) (ho : s.offers (.lfsStart u) t) :
    execLfsStartNotification u s = .next (t.endLiftTest u .abandon) := by
  unfold execLfsStartNotification
  rw [State.taking_of_offers (a := ()) ho (by simp [wantLfsStart])
    (fun x hx => by cases x <;> simp_all [wantLfsStart, Handover.lane])]

theorem execLfsResponseChange_of_offers {s t : State} (u : LiftUnit) (low : Bool) (ho : s.offers (.lfsResponse u low) t) :
    execLfsResponseChange u s = .next ((if low then t.endLiftTest u .response else t)) := by
  unfold execLfsResponseChange
  rw [State.taking_of_offers (a := low) ho (by simp [wantLfsResponse])
    (fun x hx => by cases x <;> simp_all [wantLfsResponse, Handover.lane])]

theorem execStuckAction_of_offers {s t : State} (u : LiftUnit) (ho : s.offers (.stuckAction u) t) :
    execStuckAction u s = .next (t.stickUnit u) := by
  unfold execStuckAction
  rw [State.taking_of_offers (a := ()) ho (by simp [wantStuck])
    (fun x hx => by cases x <;> simp_all [wantStuck, Handover.lane])]

theorem execUnitClear_of_offers {s t : State} (u : LiftUnit) (ho : s.offers (.unitClear u) t) :
    execUnitClear u s = .next (t.clearUnit u) := by
  unfold execUnitClear
  rw [State.taking_of_offers (a := ()) ho (by simp [wantUnitClear])
    (fun x hx => by cases x <;> simp_all [wantUnitClear, Handover.lane])]

theorem execVdrEnableEvaluation_of_before {s : State} (x : Out) (cur : Bool) (pre post : List Handover)
    (e : s.handovers = pre ++ .enableEvaluation x :: post) (hp : ∀ y ∈ pre, y.lane ≠ .enable x) :
    execVdrEnableEvaluation x cur s = .next (State.evalOut
      { s with handovers := pre.filter (fun h => !(!s.outEnabled x && h.drives x)) ++ post } x cur) := by
  unfold execVdrEnableEvaluation
  rw [State.takingOver_of_before (a := ()) pre post e hp rfl (by simp [wantEnable])
    (fun x hx => by cases x <;> simp_all [wantEnable, Handover.lane])]

/-- A duty write waits only while its output is DISABLED and an enable evaluation of it is on its way. -/
theorem State.heldBack_dutyWrite (s : State) (o : LineABCD) (d : Nat) (i : Bool) :
    s.heldBack (.dutyWrite o d i) = true ↔
      (s.vdr.ocv.get o).enabled = false ∧ .enableEvaluation (.ocv o) ∈ s.handovers := by
  simp [State.heldBack]

/-- A solenoid request waits only while its output is DISABLED and an enable evaluation of it is on its way. -/
theorem State.heldBack_solenoid (s : State) (o : LineAB) (on : Bool) :
    s.heldBack (.solenoid o on) = true ↔
      (s.vdr.ls.get o).enabled = false ∧ .enableEvaluation (.ls o) ∈ s.handovers := by
  simp [State.heldBack]

/-- An immediate write to an output is on its way. -/
theorem State.writeAtOnce_iff (s : State) (o : LineABCD) : s.writeAtOnce o = true ↔ ∃ d, .dutyWrite o d true ∈ s.handovers := by
  unfold State.writeAtOnce
  rw [List.any_eq_true]
  constructor
  · rintro ⟨h, hm, hw⟩
    cases h <;> simp at hw
    obtain ⟨rfl, rfl⟩ := hw
    exact ⟨_, hm⟩
  · rintro ⟨d, hm⟩
    exact ⟨_, hm, by simp⟩

/-- At an ENABLED output an evaluation drops nothing. -/
theorem execVdrEnableEvaluation_of_enabled {s t : State} (x : Out) (cur : Bool) (ho : s.offers (.enableEvaluation x) t)
    (he : s.outEnabled x = true) : execVdrEnableEvaluation x cur s = .next (t.evalOut x cur) := by
  obtain ⟨pre, post, e, hp, -, rfl⟩ := ho
  simp [execVdrEnableEvaluation_of_before x cur pre post e hp, he]

theorem execNormalWrite_of_offers {s t : State} (o : LineABCD) (d : Nat) (ho : s.offers (.dutyWrite o d false) t) :
    execNormalWrite o s = .next (t.normalWrite o d) := by
  unfold execNormalWrite
  rw [State.taking_of_offers (a := d) ho (by simp [wantDuty])
    (fun x hx => by cases x <;> simp_all [wantDuty, Handover.lane])]

theorem execImmediateWrite_of_offers {s t : State} (o : LineABCD) (d : Nat) (cur : Bool) (ho : s.offers (.dutyWrite o d true) t) :
    execImmediateWrite o cur s = .next (t.immediateWrite o d cur) := by
  unfold execImmediateWrite
  rw [State.taking_of_offers (a := d) ho (by simp [wantDuty])
    (fun x hx => by cases x <;> simp_all [wantDuty, Handover.lane])]

theorem execEnergize_of_offers {s t : State} (o : LineAB) (ho : s.offers (.solenoid o true) t) :
    execEnergize o s = .next (t.energizeLs o) := by
  unfold execEnergize
  rw [State.taking_of_offers (a := ()) ho (by simp [wantSolenoid])
    (fun x hx => by cases x <;> simp_all [wantSolenoid, Handover.lane])]

theorem execDeEnergize_of_offers {s t : State} (o : LineAB) (cur : Bool) (ho : s.offers (.solenoid o false) t) :
    execDeEnergize o cur s = .next (t.cutLs o cur) := by
  unfold execDeEnergize
  rw [State.taking_of_offers (a := ()) ho (by simp [wantSolenoid])
    (fun x hx => by cases x <;> simp_all [wantSolenoid, Handover.lane])]

theorem execVdrDriverClear_of_offers {s t : State} (x : Out) (ho : s.offers (.vdrDriverClear x) t) :
    execVdrDriverClear x s = .next (t.untrip x) := by
  unfold execVdrDriverClear
  rw [State.taking_of_offers (a := ()) ho (by simp [wantVdrClear])
    (fun x hx => by cases x <;> simp_all [wantVdrClear, Handover.lane])]

theorem execFaultPresent_of_take {s t : State} (id : FaultId) (o : s.take (wantReport id .present) = some ((), t)) :
    execFaultPresent id s = .next (t.takePresent id) := by
  simp [execFaultPresent, State.taking, o]

theorem execFaultGone_of_take {s t : State} (id : FaultId) (o : s.take (wantReport id .gone) = some ((), t)) :
    execFaultGone id s = .next (t.takeGone id) := by
  simp [execFaultGone, State.taking, o]

theorem execFaultEvent_of_take {s t : State} (id : FaultId) (o : s.take (wantReport id .event) = some ((), t)) :
    execFaultEvent id s = .next (t.takeEvent id) := by
  simp [execFaultEvent, State.taking, o]

theorem execFmgLockoutChange_of_offers {s t : State} (ho : s.offers (.lockoutChange) t) :
    execFmgLockoutChange s = .next (t.evalFlt) := by
  unfold execFmgLockoutChange
  rw [State.taking_of_offers (a := ()) ho (by simp [wantLockoutChange])
    (fun x hx => by cases x <;> simp_all [wantLockoutChange, Handover.lane])]

theorem execCstSupplyChange_of_offers {s t : State} (st : SupplyState) (ho : s.offers (.cstSupply st) t) :
    execCstSupplyChange s = .next (t.cstTakesSupply st) := by
  unfold execCstSupplyChange
  rw [State.taking_of_offers (a := st) ho (by simp [wantCstSupply])
    (fun x hx => by cases x <;> simp_all [wantCstSupply, Handover.lane])]

theorem execNoticeHandedIn_of_offers {s t : State} (b : Block) (n : Notice) (ho : s.offers (.notice b n) t) :
    execNoticeHandedIn b s = .next (t.updClp fun c => c.takeNotice n) := by
  unfold execNoticeHandedIn
  rw [State.taking_of_offers (a := n) ho (by simp [wantNotice])
    (fun x hx => by cases x <;> simp_all [wantNotice, Handover.lane])]

end Sys2Proof.Machine
end

