-- ==== Sys2Proof/Laws/Passing.lean ====
section
/-! SUPPORT. The passing of angles (R34 to R36, R47 to R49, R54): the order of the list, what firing hands over,
    what the
clock's going on makes of the state,
    when the second wrong half in a row ends the lock. The last theorem says once all that
State.passAngles can do. -/

set_option linter.unusedSimpArgs false
set_option linter.unusedVariables false

namespace Sys2Proof.Machine

/-! ### The passing of angles -/

/-- Inserting adds the entry. -/
theorem insertEntry_perm (e : Entry) (l : List Entry) : (insertEntry e l).Perm (e :: l) := by
  induction l with
  | nil => exact List.Perm.refl _
  | cons x l ih =>
    unfold insertEntry
    split
    · exact List.Perm.refl _
    · exact (List.Perm.cons x ih).trans (List.Perm.swap e x l)

/-- Sorting reorders. -/
theorem sortEntries_perm (l : List Entry) : (sortEntries l).Perm l := by
  induction l with
  | nil => exact List.Perm.refl _
  | cons x l ih => exact (insertEntry_perm x _).trans (List.Perm.cons x ih)

/-- The order by which the list is sorted is the order of R43. -/
theorem Entry.upTo_before {a b : Entry} (h : a.upTo b = true) : a.before b := by
  unfold Entry.upTo at h; unfold Entry.before
  repeat' split at h
  all_goals simp only [ne_eq, decide_eq_true_eq, not_not] at *; omega

/-- Of two entries one stands before the other. -/
theorem Entry.before_of_not_upTo {a b : Entry} (h : ¬ a.upTo b = true) : b.before a := by
  unfold Entry.upTo at h; unfold Entry.before
  repeat' split at h
  all_goals simp only [ne_eq, decide_eq_true_eq, not_not] at *; omega

/-- The order is transitive. -/
theorem Entry.before_trans {a b c : Entry} (h : a.before b) (g : b.before c) : a.before c := by
  unfold Entry.before at *; omega

/-- Inserting keeps the order. -/
theorem insertEntry_ordered (e : Entry) (l : List Entry) (h : orderedList l) : orderedList (insertEntry e l) := by
  induction l with
  | nil => simp [insertEntry, orderedList]
  | cons x l ih =>
    unfold orderedList at h ih ⊢
    rw [List.pairwise_cons] at h
    unfold insertEntry
    split
    · rename_i hu
      rw [List.pairwise_cons]
      refine ⟨fun y hy => ?_, by rw [List.pairwise_cons]; exact h⟩
      rcases List.mem_cons.1 hy with rfl | hy
      · exact Entry.upTo_before hu
      · exact Entry.before_trans (Entry.upTo_before hu) (h.1 y hy)
    · rename_i hu
      rw [List.pairwise_cons]
      refine ⟨fun y hy => ?_, ih h.2⟩
      rcases List.mem_cons.1 ((insertEntry_perm e l).mem_iff.1 hy) with rfl | hy
      · exact Entry.before_of_not_upTo hu
      · exact h.1 y hy

/-- A sorted list is in order. -/
theorem sortEntries_ordered (l : List Entry) : orderedList (sortEntries l) := by
  induction l with
  | nil => simp [sortEntries, orderedList]
  | cons x l ih => exact insertEntry_ordered x _ ih

/-- Firing with nothing held back fires every entry due. -/
theorem State.fireDue_zero (s : State) (v : Nat) : s.fireDue v 0 =
    { s with
      handovers := s.handovers ++ (duesOf s.asc.entries v).flatMap (Entry.handovers s.ckt.cycles)
      asc := { s.asc with entries := firedTo s.asc.entries v } } := by
  have e : s.due v = duesOf s.asc.entries v := rfl
  unfold State.fireDue
  simp only [Nat.sub_zero, List.take_length, e]
  have : s.asc.entries.map (fun e => if
      (duesOf s.asc.entries v).contains e then { e with fired := true } else e) = firedTo s.asc.entries v := by
    apply List.map_congr_left
    intro x hx
    have : (duesOf s.asc.entries v).contains x = (!x.fired && decide (x.angle ≤ v)) := by
      rw [Bool.eq_iff_iff]; simp [duesOf, hx]
    rw [this]
  rw [this]

/-- What firing hands over, some of the last entries held back. -/
theorem State.fireDue_eq (s : State) (v hold : Nat) : ∃ es, s.fireDue v hold =
    { s with
      handovers := s.handovers ++
        (((duesOf s.asc.entries v).map (Entry.handovers s.ckt.cycles)).take
            ((duesOf s.asc.entries v).length - hold)).flatten
      asc := { s.asc with entries := es } } ∧ (hold = 0 → es = firedTo s.asc.entries v) ∧ (s.asc.entries = [] →
          es = []) := by
  cases hold with
  | zero =>
    refine ⟨_, ?_, fun _ => rfl, fun h => by simp [firedTo, h]⟩
    rw [State.fireDue_zero, List.flatMap_def, Nat.sub_zero, List.take_of_length_le (by simp)]
  | succ n =>
    refine ⟨(s.fireDue v (n + 1)).asc.entries, ?_, fun h => by omega, ?_⟩
    · rw [← List.map_take, ← List.flatMap_def]; rfl
    · intro h; unfold State.fireDue; simp [h]

/-- What is left of a list around `x` when its last `hold` are dropped. -/
theorem take_split {α} (a b : List α) (x : α) (hold : Nat) :
    (hold ≤ b.length → (a ++ x :: b).take ((a ++ x :: b).length - hold) = a ++ x :: b.take (b.length - hold)) ∧
    (b.length < hold → (a ++ x :: b).take ((a ++ x :: b).length - hold) = a.take (a.length - (hold - b.length - 1))) := by
        
        
  constructor
  · intro h
    have : (a ++ x :: b).length - hold = a.length + (1 + (b.length - hold)) := by simp; omega
    rw [this, List.take_append]; simp
    have : 1 + (b.length - hold) = (b.length - hold) + 1 := by omega
    rw [this, List.take_succ_cons, List.take_of_length_le (by omega)]
  · intro h
    have : (a ++ x :: b).length - hold = a.length - (hold - b.length - 1) := by simp; omega
    rw [this]
    rw [List.take_append_of_le_length (by omega)]

/-- The clock goes on: what the entries and the cycle make of it. -/
theorem State.advance_clockWent (q : State) (v n w : Nat) (new : AngleClock) (ceu : Ceu) (report : List Handover)
    (left : Nat) (hc : ceu.chans = q.ceu.chans) (hn : q.ckt.clock = some new)
    (hw : q.ckt.state = .cycleLocked → new.value cycleAu = w) (s : State)
    (hs : { s with ckt := { s.ckt with clock := some new } } =
      { q with ceu := ceu, handovers := q.handovers ++ report }) :
    q.clockWent (s.advance v n new left) v n w ceu report left := by
  have hm : s.moveClock v n new = { q with
      ckt := { q.ckt with lap := q.ckt.lap ^^ oddLaps v n }, ceu := ceu, handovers := q.handovers ++ report } := by
    have h1 : s.moveClock v n new = { ({ s with ckt := { s.ckt with clock := some new } } : State) with ckt := {
        ({ s with ckt := { s.ckt with clock := some new } } : State).ckt with lap :=
        ({ s with ckt := { s.ckt with clock := some new } } : State).ckt.lap ^^ oddLaps v n } } := rfl
    rw [h1, hs]
  have hl : decide (((v + n) / 5760 - v / 5760) % 2 = 1) = oddLaps v n := rfl
  unfold State.clockWent
  rw [hl]
  dsimp only
  constructor
  · intro h
    have : (s.moveClock v n new).ckt.state ≠ .cycleLocked := by rw [hm]; exact h
    unfold State.advance
    dsimp only
    rw [if_pos this, hm]
  · intro h
    have hh : ¬ (s.moveClock v n new).ckt.state ≠ .cycleLocked := by rw [hm]; simp [h]
    have hw := hw h
    unfold State.advance
    dsimp only
    rw [if_neg hh, hm, hw]
    by_cases hv : v + n < cycleAu
    · rw [if_pos hv]
      obtain ⟨es, he, he0, _⟩ := State.fireDue_eq { q with
        ckt := { q.ckt with lap := q.ckt.lap ^^ oddLaps v n }, ceu := ceu, handovers := q.handovers ++ report } w left
      refine ⟨es, q.ckt.cycles, (duesOf q.asc.entries w).map (Entry.handovers q.ckt.cycles), ?_, ?_, ?_⟩
      · rw [he]; simp
      · intro _; exact ⟨rfl, rfl, he0⟩
      · intro h; exfalso; simp only [cycleAu] at hv; omega
    · rw [if_neg hv]
      have hf0 := State.fireDue_zero { q with
        ckt := { q.ckt with lap := q.ckt.lap ^^ oddLaps v n }, ceu := ceu, handovers := q.handovers ++ report } cycleAu
      rw [hf0]
      generalize hb : (State.fireCycleStart (State.countCycle _)) = begun
      by_cases he : q.asc.entries = []
      · have hq : ({ q.asc with entries := [] } : Asc) = q.asc := by rw [← he]
        have hbe : begun = { q with
            ckt := { q.ckt with lap := q.ckt.lap ^^ oddLaps v n, cycles := q.ckt.cycles + 1 }, ceu := ceu
            handovers := q.handovers ++ report } := by
          rw [← hb]; simp [State.fireCycleStart, State.countCycle, he, duesOf, firedTo, hq]
        refine ⟨[], q.ckt.cycles + 1, [], ?_, fun h => absurd h hv, fun _ => ⟨rfl, fun _ => ⟨rfl, rfl⟩,
            fun h => absurd he h⟩⟩
        have hd : ∀ x, (begun.due x).length = 0 := by intro x; rw [hbe]; simp [State.due, he]
        have hs1 : ∀ (z : State), z.asc.entries = [] → ∀ a b, z.fireDue a b = z := by
          intro z hz a b
          have hq : ({ z.asc with entries := [] } : Asc) = z.asc := by rw [← hz]
          unfold State.fireDue State.due
          simp [hz, hq]
        split
        · rw [hs1 _ (by rw [hbe]; exact he), hbe]; simp [hq]
        · rw [hs1 _ (by exact he)]; simp [State.countCycle, hq]
      · obtain ⟨l, hlp, hlo, hbe⟩ : ∃ l : List Entry,
            l.Perm (q.asc.plan.map fun p => ⟨q.placedAngle p, p.kind, decide (p.kind = .cycleStart)⟩) ∧ orderedList l ∧
            begun = { q with
              ckt := { q.ckt with lap := q.ckt.lap ^^ oddLaps v n, cycles := q.ckt.cycles + 1 }, ceu := ceu
              asc := { q.asc with entries := l }
              handovers := q.handovers ++ report ++
                (duesOf q.asc.entries 11520).flatMap (Entry.handovers q.ckt.cycles) ++
                [.tgaCycleStart 0 (q.ckt.cycles + 1), .trbCycleStart 0 (q.ckt.cycles + 1),
                  .ceuCycleStart 0 (q.ckt.cycles + 1)] } := by
          refine ⟨sortEntries (q.asc.plan.map fun p => ⟨q.placedAngle p, p.kind, decide (p.kind = .cycleStart)⟩),
            sortEntries_perm _, sortEntries_ordered _, ?_⟩
          rw [← hb]
          have hne : (firedTo q.asc.entries cycleAu).isEmpty = false := by simp [firedTo, he]
          have hk : ∀ k : EntryKind, (k == .cycleStart) = decide (k = .cycleStart) := by intro k; rfl
          have hpl : ∀ z : State, z.ceu.chans = q.ceu.chans → ∀ p, z.placedAngle p = q.placedAngle p := by
            intro z hz p; unfold State.placedAngle State.placementPhase; rw [hz]
          simp only [State.fireCycleStart, State.countCycle, hne, Bool.false_eq_true, if_false, State.placeAll, hk]
          refine congrArg (fun es => ({ q with
              ckt := { q.ckt with lap := q.ckt.lap ^^ oddLaps v n, cycles := q.ckt.cycles + 1 }, ceu := ceu
              asc := { q.asc with entries := es }
              handovers := q.handovers ++ report ++
                (duesOf q.asc.entries 11520).flatMap (Entry.handovers q.ckt.cycles) ++
                [.tgaCycleStart 0 (q.ckt.cycles + 1), .trbCycleStart 0 (q.ckt.cycles + 1),
                  .ceuCycleStart 0 (q.ckt.cycles + 1)] } : State)) ?_
          exact congrArg sortEntries (List.map_congr_left fun p _ =>
            congrArg (fun a => Entry.mk a p.kind (decide (p.kind = .cycleStart))) (hpl _ hc p))
        have hdue : ∀ x, begun.due x = duesOf l x := by intro x; rw [hbe]; rfl
        rw [hdue]
        have ht := take_split ((duesOf q.asc.entries 11520).map (Entry.handovers q.ckt.cycles))
          ((duesOf l w).map (Entry.handovers (q.ckt.cycles + 1)))
          ([.tgaCycleStart 0 (q.ckt.cycles + 1), .trbCycleStart 0 (q.ckt.cycles + 1), .ceuCycleStart 0
              (q.ckt.cycles + 1)]) left
        simp only [List.length_map] at ht
        split
        · rename_i hle
          obtain ⟨es, hes, he0, _⟩ := begun.fireDue_eq w left
          refine ⟨es, q.ckt.cycles + 1, _, ?_, fun h => absurd h hv, fun _ => ⟨rfl, fun h => absurd h he, fun _ => ⟨l,
              hlp, hlo, rfl, ?_⟩⟩⟩
          · rw [hes]
            simp only [List.length_append, List.length_cons, List.length_map] at ht ⊢
            rw [ht.1 hle, hbe]
            simp [List.flatMap_def]
          · intro h; rw [he0 h, hbe]
        · rename_i hle
          obtain ⟨es, hes, he0, _⟩ := State.fireDue_eq { q with
            ckt := { q.ckt with lap := q.ckt.lap ^^ oddLaps v n }, ceu := ceu,
                handovers := q.handovers ++ report } 11520
            (left - (duesOf l w).length - 1)
          refine ⟨es, q.ckt.cycles + 1, _, ?_, fun h => absurd h hv, fun _ => ⟨rfl, fun h => absurd h he, fun _ => ⟨l,
              hlp, hlo, rfl, ?_⟩⟩⟩
          · have : cycleAu = 11520 := rfl
            rw [this, hes]
            simp only [List.length_append, List.length_cons, List.length_map] at ht ⊢
            rw [ht.2 (by omega)]
            simp [State.countCycle]
          · intro h; omega

/-- What the clock's going on makes of the tracker's record in CYCLE_LOCKED: the clock, the lap, and one cycle more where it
passes cycle angle 0 (R34). -/
theorem State.advance_ckt (s : State) (v n hold : Nat) (new : AngleClock) (hs : s.ckt.state = .cycleLocked) :
    (s.advance v n new hold).ckt = { s.ckt with
      clock := some new
      lap := s.ckt.lap ^^ oddLaps v n
      cycles := if v + n < cycleAu then s.ckt.cycles else s.ckt.cycles + 1 } := by
  have hm : (s.moveClock v n new).ckt.state = .cycleLocked := hs
  simp only [State.advance, hm, ne_eq, not_true_eq_false, if_false]
  split
  · simp [State.moveClock]
  · split <;> simp [State.moveClock, State.countCycle]

/-- The passages of angle 0 up to an angle `n` further on, by those up to `a` and whether 0 lies in between. -/
theorem passages_add (a n m : Nat) (hm : 0 < m) (hn : n ≤ m) :
    (a + n) / m = a / m + if a % m + n < m then 0 else 1 := by
  have h : (a + n) / m = a / m + (a % m + n) / m := by
    rw [← Nat.mul_add_div hm, ← Nat.add_assoc, Nat.div_add_mod]
  have hlt := Nat.mod_lt a hm
  rw [h, Nat.add_left_cancel_iff]
  split
  · exact Nat.div_eq_of_lt ‹_›
  · exact Nat.div_eq_of_lt_le (by omega) (by omega)

/-- The cycle of an edge does not hang on how far the clock has been moved between teeth: it may lie ahead of the clock or
behind it (R35, R38, R60). -/
theorem State.advance_cycleAt (s : State) (c : AngleClock) (n hold : Nat) (t : Word32) (hs : s.ckt.state = .cycleLocked)
    (hc : s.ckt.clock = some c) (hn : n ≤ cycleAu) :
    (s.advance (c.value cycleAu) n { c with reached := c.reached + n } hold).cycleAt t = s.cycleAt t := by
  have hk := s.advance_ckt (c.value cycleAu) n hold { c with reached := c.reached + n } hs
  have hp := passages_add (c.anchor.angle + c.reached) n cycleAu (by decide) hn
  have hnow : (s.advance (c.value cycleAu) n { c with reached := c.reached + n } hold).now = s.now := by simp
  have latest : (if c.value cycleAu + n < cycleAu then s.ckt.cycles else s.ckt.cycles + 1) -
      BitVec.ofNat 32 ((c.anchor.angle + (c.reached + n)) / cycleAu) =
      s.ckt.cycles - BitVec.ofNat 32 ((c.anchor.angle + c.reached) / cycleAu) := by
    rw [← Nat.add_assoc, hp, AngleClock.value]
    split
    · simp
    · rw [BitVec.ofNat_add]
      exact add_sub_add_right_eq_sub _ _ _
  simp only [State.cycleAt, State.clockCircle, State.since, State.timeBase, hk, hnow, hs, hc, Option.map_some, if_true,
    latest]

/-- Where the end of the reference window lies ahead. -/
theorem State.reportDue_eq (s : State) (v n d : Nat) : s.reportDue v n = some d ↔
    1 ≤ d ∧ d ≤ n ∧ d ≤ 5760 ∧ s.tbm.inForce.reportAngle = some ((v + d) % 5760) := by
  cases h : s.tbm.inForce.reportAngle with
  | none => simp [State.reportDue, h]
  | some w =>
    have hw : w < 5760 := by
      unfold Layout.reportAngle at h
      obtain ⟨r, _, rfl⟩ := Option.map_eq_some_iff.1 h
      exact Nat.mod_lt _ (by decide)
    have hx : ∃ x, x = (w + 5760 - v % 5760 % 5760) % 5760 ∧
        s.reportDue v n = if (if x = 0 then 5760 else x) ≤ n then some (if x = 0 then 5760 else x) else none :=
      ⟨_, rfl, by unfold State.reportDue; rw [h]; rfl⟩
    obtain ⟨x, hx, hr⟩ := hx
    rw [hr, Option.some.injEq]
    split <;> split <;> simp only [Option.some.injEq, reduceCtorEq, false_iff] <;> omega

/-- Reporting CAM_MISSING leaves the tracker's record. -/
theorem State.reportMissing_ckt (s : State) (k : ReportKind) : (s.reportMissing k).ckt = s.ckt := by
  unfold State.reportMissing; split <;> rfl

/-- What the tracker makes of a report that is the second wrong half in a row, or not. -/
theorem State.takeReport_ends (s : State) (seen lap : Bool) (hs : s.ckt.state = .cycleLocked) :
    ((s.takeReport seen lap).ckt.state = .crankLocked ↔
      s.ckt.awaySeen = true ∧ seen = false ∧ 1 ≤ s.ckt.wrongHalf ∧
        (decide (5760 ≤ s.clockValue.getD 0) ^^ (s.ckt.lap ^^ lap)) = s.tbm.inForce.homeHalf.getD false) ∧
    ((s.takeReport seen lap).ckt.state = .crankLocked → ∀ c, s.ckt.clock = some c → ∃ c' : AngleClock,
      c'.value 5760 = c.value 11520 % 5760 ∧ s.takeReport seen lap = State.sends
        { s with ckt := { s.ckt with
          state := .crankLocked, clock := some c', halfCandidate := none, notSeen := 0, awaySeen := false,
              wrongHalf := 0 } }
        ([.report .ckt .syncSlip .event, .ascLock false, .ceuLock false] ++ allChans.map Handover.phcLockLost ++
          allUnits.map Handover.lfsLockLost ++
          [.trbLockLost, .notice .ckt (.syn .crankLocked .cycleLocked .halfSlip s.ckt.rpm s.ckt.cycles)])) := by
  unfold State.takeReport
  dsimp only
  rw [hs]
  dsimp only
  have hsa : ∀ b, (s.seenAgain b).ckt.state = .cycleLocked ∧ (s.seenAgain b).ckt.awaySeen = s.ckt.awaySeen ∧
      (s.seenAgain b).ckt.wrongHalf = s.ckt.wrongHalf ∧
      (s.seenAgain b).clockValue = s.clockValue := by
    intro b; unfold State.seenAgain; split
    · refine ⟨?_, ?_, ?_, ?_⟩ <;> simp [State.clockValue, State.clockCircle, State.reportMissing_ckt, State.updCkt, hs]
    · exact ⟨hs, rfl, rfl, rfl⟩
  generalize hhome : s.tbm.inForce.homeHalf.getD false = home
  generalize hon : (s.ckt.lap ^^ lap) = on
  unfold State.cycleReport
  dsimp only
  obtain ⟨a1, a2, a3, a4⟩ := hsa seen
  rw [a2, a3, a4]
  have hrev : revAu = 5760 := rfl
  rw [hrev]
  by_cases hh : (decide (5760 ≤ s.clockValue.getD 0) ^^ on) = home
  · have : ((decide (5760 ≤ s.clockValue.getD 0) ^^ on) != home) = false := by rw [hh]; simp
    rw [this]
    simp only [Bool.false_eq_true, if_false, hh, and_true]
    cases seen with
    | true =>
      simp [State.updCkt, a1]
    | false =>
      have e0 : s.seenAgain false = s := by simp [State.seenAgain]
      rw [e0]
      cases hw : s.ckt.awaySeen with
      | false => simp [State.updCkt, hs]
      | true =>
        simp only [Bool.not_false, Bool.and_true, if_true, true_and]
        by_cases h1 : 1 ≤ s.ckt.wrongHalf
        · have h2 : 2 ≤ s.ckt.wrongHalf + 1 := by omega
          rw [if_pos h2]
          refine ⟨by simp [h1, State.halfSlip, State.updCkt, State.report, State.hand, State.notifyLockLost,
              State.synNotice, State.notice, forEach, allChans, allUnits], fun _ c hc => ?_⟩
          refine ⟨c.relabel (c.value cycleAu % revAu) revAu, ?_, ?_⟩
          · simp only [AngleClock.relabel, AngleClock.value, revAu, cycleAu]; omega
          · simp [State.halfSlip, State.updCkt, State.report, State.hand, State.notifyLockLost, State.synNotice,
              State.notice, forEach, allChans, allUnits, State.sends, hc]
        · have h2 : ¬ 2 ≤ s.ckt.wrongHalf + 1 := by omega
          rw [if_neg h2]
          simp [State.updCkt, hs, h1]
  · have : ((decide (5760 ≤ s.clockValue.getD 0) ^^ on) != home) = true := bne_iff_ne.2 hh
    rw [this]
    refine ⟨⟨fun h => ?_, fun h => absurd h.2.2.2 hh⟩, fun h => ?_⟩ <;> simp [State.updCkt, a1] at h

/-- What the passing of angles makes of the state. -/
theorem State.passAngles_passesTo (s : State) (v n w hold : Nat) (new : AngleClock)
    (hv : s.ckt.state = .cycleLocked → new.value cycleAu = w) (hw : s.ckt.state = .cycleLocked → 1 ≤ n → w =
        (v + n) % 11520) :
    State.passesTo { s with ckt := { s.ckt with clock := some new } } (s.passAngles v n new hold) v n w hold := by
  unfold State.passesTo
  dsimp only
  have hq : s.tbm.inForce.homeHalf = none ↔ s.tbm.inForce.reportAngle = none := by
    unfold Layout.homeHalf Layout.reportAngle; cases s.tbm.inForce.reference <;> simp
  constructor
  · intro hno
    have hr : s.reportDue v n = none := by
      cases h : s.reportDue v n with
      | none => rfl
      | some d => exact absurd ((State.reportDue_eq s v n d).1 h) (hno d)
    unfold State.passAngles; rw [hr]
    exact State.advance_clockWent { s with ckt := { s.ckt with clock := some new } } v n w new s.ceu [] 0 rfl rfl hv s (by simp)
  · intro d hd
    have hr : s.reportDue v n = some d := (State.reportDue_eq s v n d).2 hd
    have hl : ∀ m, decide (((v + m) / 5760 - v / 5760) % 2 = 1) = oddLaps v m := fun _ => rfl
    simp only [hl]
    obtain ⟨hh, hhome⟩ : ∃ h, s.tbm.inForce.homeHalf = some h := by
      cases h : s.tbm.inForce.homeHalf with
      | none => rw [hq.1 h] at hd; simp at hd
      | some b => exact ⟨b, rfl⟩
    have hz := State.advance_clockWent { s with ckt := { s.ckt with clock := some new } } v n w new { s.ceu with refSeen := false, reportSent := true }
      [.referenceReport s.ceu.refSeen (s.ckt.lap ^^ oddLaps v d)] 0 rfl rfl hv
      (({ s with ceu := { s.ceu with refSeen := false, reportSent := true } } : State).hand (.referenceReport s.ceu.refSeen
          (s.ckt.lap ^^ oddLaps v d)))
      (by simp [State.hand])
    have hk := State.advance_clockWent { s with ckt := { s.ckt with clock := some new } } v n w new { s.ceu with refSeen := false, reportSent := true }
      [] hold rfl rfl hv { s with ceu := { s.ceu with refSeen := false, reportSent := true } } (by simp)
    have hin : s.reportInFlight = true ↔ ∃ seen lap, Handover.referenceReport seen lap ∈ s.handovers := by
      unfold State.reportInFlight; rw [List.any_eq_true]
      constructor
      · rintro ⟨x, hx, h⟩; cases x <;> simp [wantReferenceReport] at h
        exact ⟨_, _, hx⟩
      · rintro ⟨a, b, h⟩; exact ⟨_, h, rfl⟩
    have hends : s.ckt.state = .cycleLocked →
        (((State.advance { s with ceu := { s.ceu with refSeen := false, reportSent := true } } v n new hold).takeReport s.ceu.refSeen
            (s.ckt.lap ^^ oddLaps v d)).ckt.state = .crankLocked ↔
         s.ckt.awaySeen = true ∧ s.ceu.refSeen = false ∧ 1 ≤ s.ckt.wrongHalf ∧ s.tbm.inForce.homeHalf = some (decide
             (5760 ≤ (v + d) % 11520))) := by
      intro hs
      obtain ⟨es, cy, f, hu, _⟩ := hk.2 hs
      rw [hu]
      rw [(State.takeReport_ends _ _ _ (by exact hs)).1]
      simp only [hhome, Option.getD_some]
      have hcv : ({ s with
          ckt := { s.ckt with clock := some new, lap := s.ckt.lap ^^ oddLaps v n, cycles := cy }
          ceu := { s.ceu with refSeen := false, reportSent := true }
          asc := { s.asc with entries := es }
          handovers := s.handovers ++ [] ++ (f.take (f.length - hold)).flatten } : State).clockValue = some w := by
        simp [State.clockValue, State.clockCircle, hs, hv hs]
      have hx : (decide (5760 ≤ w) ^^ ((s.ckt.lap ^^ oddLaps v n) ^^ (s.ckt.lap ^^ oddLaps v d))) = decide (5760 ≤
          (v + d) % 11520) := by
        rw [hw hs (by omega)]
        have e : ((s.ckt.lap ^^ oddLaps v n) ^^ (s.ckt.lap ^^ oddLaps v d)) = (oddLaps v n ^^ oddLaps v d) := by
          cases s.ckt.lap <;> cases oddLaps v n <;> cases oddLaps v d <;> rfl
        rw [e]
        unfold oddLaps revAu
        have p1 : decide (5760 ≤ (v + n) % 11520) = decide ((v + n) / 5760 % 2 = 1) := by congr 1; ext; omega
        have p2 : decide (5760 ≤ (v + d) % 11520) = decide ((v + d) / 5760 % 2 = 1) := by congr 1; ext; omega
        have o1 : v / 5760 ≤ (v + n) / 5760 := Nat.div_le_div_right (by omega)
        have o2 : v / 5760 ≤ (v + d) / 5760 := Nat.div_le_div_right (by omega)
        rw [p1, p2]
        generalize (v + n) / 5760 = a at *
        generalize (v + d) / 5760 = b at *
        generalize v / 5760 = c at *
        rcases Nat.mod_two_eq_zero_or_one a with ha | ha <;> rcases Nat.mod_two_eq_zero_or_one b with hb | hb <;>
          rcases Nat.mod_two_eq_zero_or_one c with hc | hc <;>
          simp [ha, hb, hc, show (a - c) % 2 = (a + c) % 2 by omega, show (b - c) % 2 = (b + c) % 2 by omega,
              Nat.add_mod]
      generalize hg : State.clockValue _ = cv
      have : cv = some w := by rw [← hg]; exact hcv
      subst this
      simp only [hl, Option.getD_some, Option.some.injEq]
      rw [hx]
      constructor
      · rintro ⟨a, b, c, e⟩; exact ⟨a, b, c, e.symm⟩
      · rintro ⟨a, b, c, e⟩; exact ⟨a, b, c, e.symm⟩
    unfold State.passAngles
    rw [hr]
    dsimp only
    constructor
    · intro h
      rw [if_neg]
      · exact hz
      · intro hc
        simp only [Bool.and_eq_true, decide_eq_true_eq, beq_iff_eq, Bool.not_eq_true'] at hc
        obtain ⟨⟨⟨h1, h2⟩, h3⟩, h4⟩ := hc
        rcases h with h | h
        · omega
        · obtain ⟨a, b, c, e⟩ := (hends h2).1 h3
          exact h ⟨h2, a, b, c, e, fun seen lap hm => by
            have h5 : s.reportInFlight = false := h4
            rw [hin.2 ⟨seen, lap, hm⟩] at h5; cases h5⟩
    · rintro h ⟨h2, a, b, c, e, hf⟩
      have h3 := (hends h2).2 ⟨a, b, c, e⟩
      have h4 : s.reportInFlight = false := by
        cases hr : s.reportInFlight with
        | false => rfl
        | true => obtain ⟨x, y, hm⟩ := hin.1 hr; exact absurd hm (hf x y)
      have h5 : State.reportInFlight { s with ceu := { s.ceu with refSeen := false, reportSent := true } } = false := h4
      rw [if_pos (by simp [h, h2, h3, h5])]
      obtain ⟨es, cy, f, hu, _⟩ := hk.2 h2
      have hcl : (State.advance { s with ceu := { s.ceu with refSeen := false, reportSent := true } } v n new hold).ckt.clock = some new := by rw [hu]
      have hst : (State.advance { s with ceu := { s.ceu with refSeen := false, reportSent := true } } v n new hold).ckt.state = .cycleLocked := by rw [hu]; exact h2
      obtain ⟨c', hc', ht⟩ := (State.takeReport_ends _ s.ceu.refSeen (s.ckt.lap ^^ oddLaps v d) hst).2 h3 new hcl
      exact ⟨_, new, c', hk, hcl, hc', ht⟩
/-- What setting the clock to a tooth makes of the state (R36, R37). -/
theorem State.clockToTooth_passesTo (q0 : State) (w : Wheel) (n : Nat) (t : Word32) (hold : Nat) (c : AngleClock)
    (h : q0.ckt.clock = some c) (hs : q0.ckt.state = .crankLocked ∨ q0.ckt.state = .cycleLocked) :
    let circle := if q0.ckt.state = .cycleLocked then 11520 else 5760
    let tooth := (c.anchor.angle + c.anchor.span) % circle
    State.passesTo { q0 with ckt := { q0.ckt with clock := some ⟨q0.ckt.anchorAt w n t tooth, some c.anchor, 0⟩ } }
      (q0.clockToTooth w n t hold) ((c.anchor.angle + c.reached) % circle) (c.anchor.span - c.reached) tooth hold := by
  intro circle tooth
  have hc : q0.clockCircle = circle := by simp [State.clockCircle, circle, cycleAu, revAu]
  unfold State.clockToTooth
  rw [h]
  dsimp only
  rw [hc]
  have := State.passAngles_passesTo q0 ((c.anchor.angle + c.reached) % circle) (c.anchor.span - c.reached) tooth hold
      ⟨q0.ckt.anchorAt w n t tooth, some c.anchor, 0⟩ ?_ ?_
  · exact this
  · intro h; simp [AngleClock.value, Ckt.anchorAt, tooth, circle, h, cycleAu]
  · intro h h1; simp only [tooth, circle, h, if_true]; omega

/-- What the clock's running on makes of the state. -/
theorem State.run_runsTo (s : State) (n hold : Nat) : s.runsTo (s.run n hold) n hold := by
  constructor
  · rintro rfl; unfold State.run; split <;> simp_all
  · intro hn c hc
    obtain ⟨m, rfl⟩ := Nat.exists_eq_succ_of_ne_zero hn
    have hcirc : s.clockCircle = if s.ckt.state = .cycleLocked then 11520 else 5760 := by
      simp [State.clockCircle, cycleAu, revAu]
    have e : s.run (m + 1) hold = s.passAngles (c.value s.clockCircle) (m + 1)
        { c with reached := c.reached + (m + 1) } hold := by
      unfold State.run; rw [hc]
    rw [Nat.succ_eq_add_one, e, hcirc]
    refine State.passAngles_passesTo s _ (m + 1) _ hold _ (fun h => ?_) (fun h _ => ?_)
    · simp only [AngleClock.value, h, if_true, cycleAu]; omega
    · simp only [h, if_true, AngleClock.value]

/-- What the reaching of angles makes of the state: the angles before that of a reference report, that angle, the rest. -/
theorem State.runAngles_runsTo (s : State) (c : AngleClock) (n hold : Nat) (hc : s.ckt.clock = some c) :
    let v := (c.anchor.angle + c.reached) % if s.ckt.state = .cycleLocked then 11520 else 5760
    let closes (d : Nat) : Prop := 1 ≤ d ∧ d ≤ n ∧ d ≤ 5760 ∧ s.tbm.inForce.reportAngle = some ((v + d) % 5760)
    ((∀ d, ¬ closes d) → s.runsTo (s.runAngles n hold) n 0) ∧
    ∀ d, closes d → ∃ a b, s.runsTo a (d - 1) 0 ∧ a.runsTo b 1 hold ∧ b.runsTo (s.runAngles n hold) (n - d) 0 := by
  intro v closes
  have hv : s.clockValue = some v := by
    simp only [State.clockValue, hc, Option.map_some, AngleClock.value, State.clockCircle, cycleAu, revAu, v]
  constructor
  · intro hno
    have hr : s.reportDue v n = none := by
      cases h : s.reportDue v n with
      | none => rfl
      | some d => exact absurd ((State.reportDue_eq s v n d).1 h) (hno d)
    have e : s.runAngles n hold = s.run n 0 := by unfold State.runAngles; rw [hv, Option.bind_some, hr]
    rw [e]; exact s.run_runsTo n 0
  · intro d hd
    have hr : s.reportDue v n = some d := (State.reportDue_eq s v n d).2 hd
    have e : s.runAngles n hold = ((s.run (d - 1) 0).run 1 hold).run (n - d) 0 := by
      unfold State.runAngles; rw [hv, Option.bind_some, hr]
    rw [e]
    exact ⟨_, _, s.run_runsTo _ _, State.run_runsTo _ _ _, State.run_runsTo _ _ _⟩

/-- The time after its anchor's at which the clock comes to `k` au past it: the first at which R35's formula gives `k`. -/
theorem Anchor.reachTime_first (a : Anchor) (k : Nat) (h : 0 < a.span) :
    k * a.expected ≤ a.reachTime k * a.span ∧ ∀ m, k * a.expected ≤ m * a.span → a.reachTime k ≤ m := by
  have e : a.reachTime k = (k * a.expected + (a.span - 1)) / a.span := by
    unfold Anchor.reachTime quotient; rw [if_neg (by omega)]
  rw [e]
  constructor
  · have := Nat.div_add_mod (k * a.expected + (a.span - 1)) a.span
    have hm := Nat.mod_lt (k * a.expected + (a.span - 1)) h
    rw [Nat.mul_comm] at this
    omega
  · intro m hm
    rw [Nat.div_le_iff_le_mul_add_pred h, Nat.mul_comm a.span m]
    omega

end Sys2Proof.Machine
end

