-- ==== Sys2Proof/Laws/Reading.lean ====
section
/-! SUPPORT. What the readers of received lines and of the fields of requests accept: one lemma for each that gives the
shape it reads, or the status that refuses what it does not. -/

namespace Sys2Proof.Machine

/-! ### Lines (R178, R180) -/

/-- A hexadecimal digit is read exactly where it is one, of either case. -/
theorem hexDigit?_eq_some_iff (c : Byte) (n : Nat) : hexDigit? c = some n ↔
    n < 10 ∧ c.toNat = 48 + n ∨ 10 ≤ n ∧ n < 16 ∧ (c.toNat = 55 + n ∨ c.toNat = 87 + n) := by
  unfold hexDigit?
  simp only [BitVec.le_def]
  simp only [BitVec.toNat_ofNat, Nat.reducePow, Nat.reduceMod]
  split
  · simp only [Option.some.injEq]; omega
  · split
    · simp only [Option.some.injEq]; omega
    · split
      · simp only [Option.some.injEq]; omega
      · simp only [reduceCtorEq, false_iff]; omega

/-- A line splits exactly where its lead character is '>' and a '*' with two hexadecimal digits ends it. -/
theorem splitLine_eq_some_iff (c body : List Byte) (sum : Byte) : splitLine c = some (body, sum) ↔
    ∃ (hi lo : Byte) (h l : Nat), hexDigit? hi = some h ∧ hexDigit? lo = some l ∧
      c = 0x3E#8 :: body ++ [0x2A#8, hi, lo] ∧ sum = BitVec.ofNat 8 (16 * h + l) := by
  constructor
  · intro e
    unfold splitLine at e
    cases c with
    | nil => cases e
    | cons lead rest =>
      dsimp only at e
      split at e
      · rename_i lo hi star b hl hr
        split at e
        · rename_i h l hs hh hlo
          simp only [Option.some.injEq, Prod.mk.injEq] at e
          refine ⟨hi, lo, h, l, hh, hlo, ?_, e.2.symm⟩
          have hr' := congrArg List.reverse hr
          rw [List.reverse_reverse] at hr'
          have h1 : lead = 0x3E#8 := by simpa using hl
          have h2 : star = 0x2A#8 := by simpa using hs
          rw [h1, hr', h2, ← e.1]; simp
        · cases e
      · cases e
  · rintro ⟨hi, lo, h, l, hh, hl, rfl, rfl⟩
    simp [splitLine, hh, hl]

/-! ### NMSK (R183) -/

/-- Pairs read from the fields of an NMSK are spelled by them, and no name comes twice. -/
theorem maskPairs?_spec : ∀ (fields : List Field) (pairs : List (NoticeKind × Bool)),
    maskPairs? fields = some pairs ↔
      fields = pairs.flatMap (fun p => [.word (match p.1 with
        | .flt => Token.FLT
        | .syn => .SYN
        | .chs => .CHS
        | .lft => .LFT
        | .trc => .TRC
        | .sto => .STO
        | .mod => .MOD
        | .rdy => .RDY), .word (if p.2 then .ON else .OFF)]) ∧ (pairs.map fun p => p.1).Nodup
  | [], pairs => by
    cases pairs with
    | nil => simp [maskPairs?]
    | cons p q => simp [maskPairs?]
  | [f], pairs => by
    cases pairs with
    | nil => simp [maskPairs?]
    | cons p q => simp [maskPairs?]
  | n :: b :: rest, pairs => by
    have ih := maskPairs?_spec rest
    have hn : ∀ k, noticeName? n = some k ↔ n = .word (match k with
        | .flt => Token.FLT
        | .syn => .SYN
        | .chs => .CHS
        | .lft => .LFT
        | .trc => .TRC
        | .sto => .STO
        | .mod => .MOD
        | .rdy => .RDY) := by
      intro k
      constructor
      · intro h
        unfold noticeName? at h
        split at h <;> first | (cases h; rfl) | cases h
      · rintro rfl; cases k <;> rfl
    have hb : ∀ k, onOff? b = some k ↔ b = .word (if k then .ON else .OFF) := by
      intro k
      constructor
      · intro h
        unfold onOff? at h
        split at h <;> first | (cases h; rfl) | cases h
      · rintro rfl; cases k <;> rfl
    constructor
    · intro e
      unfold maskPairs? at e
      simp only [Option.bind_eq_bind, Option.bind_eq_some_iff] at e
      obtain ⟨k, hk, v, hv, ps, hps, e⟩ := e
      split at e
      · cases e
      · rename_i hx
        cases e
        obtain ⟨h1, h2⟩ := (ih ps).1 hps
        refine ⟨?_, ?_⟩
        · rw [(hn k).1 hk, (hb v).1 hv, h1]; rfl
        · simp only [List.map_cons, List.nodup_cons]
          refine ⟨?_, h2⟩
          intro hm
          apply hx
          simp only [List.mem_map] at hm
          obtain ⟨p, hp, rfl⟩ := hm
          exact List.any_eq_true.2 ⟨p, hp, by simp⟩
    · rintro ⟨e, hd⟩
      cases pairs with
      | nil => cases e
      | cons p q =>
        obtain ⟨k, v⟩ := p
        simp only [List.flatMap_cons, List.cons_append, List.nil_append, List.cons.injEq] at e
        obtain ⟨e1, e2, e3⟩ := e
        simp only [List.map_cons, List.nodup_cons] at hd
        unfold maskPairs?
        simp only [Option.bind_eq_bind, Option.bind_eq_some_iff]
        refine ⟨k, (hn k).2 e1, v, (hb v).2 e2, q, (ih q).2 ⟨e3, hd.2⟩, ?_⟩
        rw [if_neg]
        intro hx
        obtain ⟨p, hp, hpk⟩ := List.any_eq_true.1 hx
        exact hd.1 (List.mem_map.2 ⟨p, hp, by simpa using hpk⟩)

/-! ### OPPT (R95) -/

/-- The fields of an OPPT given by their values. -/
def opptLine (load temp kpa : Int) (t1 t2 t3 t4 : Option Int) (lift : Option Bool) : List Field :=
  let target (x : Option Int) : Field := x.elim .absent .num
  [.num load, .num temp, .num kpa, target t1, target t2, target t3, target t4,
    lift.elim .absent fun h => .word (if h then .H else .L)]

theorem isNum_iff (f : Field) : isNum f = true ↔ ∃ v, f = .num v := by cases f <;> simp [isNum]

theorem liftRequest?_eq_some_iff (f : Field) (l : Option Bool) :
    liftRequest? f = some l ↔ f = l.elim .absent fun h => .word (if h then .H else .L) := by
  constructor
  · intro h
    unfold liftRequest? at h
    split at h <;> first | (cases h; rfl) | cases h
  · rintro rfl
    match l with
    | none => rfl
    | some true => rfl
    | some false => rfl

/-- An OPPT passes its first check exactly where its fields are decimal values, targets decimal or absent, and a lift
request or none. -/
theorem opptFormat_iff (fields : List Field) : opptFormat fields = true ↔
    ∃ load temp kpa t1 t2 t3 t4 lift, fields = opptLine load temp kpa t1 t2 t3 t4 lift := by
  constructor
  · intro h
    unfold opptFormat at h
    split at h
    · rename_i load temp kpa t1 t2 t3 t4 lift
      simp only [List.all_cons, List.all_nil, Bool.and_eq_true, Bool.or_eq_true, beq_iff_eq, isNum_iff, and_true] at h
      obtain ⟨⟨⟨⟨a, rfl⟩, ⟨b, rfl⟩, c, rfl⟩, h1, h2, h3, h4⟩, hl⟩ := h
      obtain ⟨l, hl⟩ := Option.isSome_iff_exists.1 hl
      rw [(liftRequest?_eq_some_iff lift l).1 hl]
      have ht : ∀ f : Field, (f = .absent ∨ ∃ v, f = .num v) → ∃ x : Option Int, f = x.elim .absent .num := by
        rintro f (rfl | ⟨v, rfl⟩)
        · exact ⟨none, rfl⟩
        · exact ⟨some v, rfl⟩
      obtain ⟨x1, rfl⟩ := ht _ h1
      obtain ⟨x2, rfl⟩ := ht _ h2
      obtain ⟨x3, rfl⟩ := ht _ h3
      obtain ⟨x4, rfl⟩ := ht _ h4
      exact ⟨a, b, c, x1, x2, x3, x4, l, rfl⟩
    · cases h
  · rintro ⟨load, temp, kpa, t1, t2, t3, t4, lift, rfl⟩
    have ht : ∀ x : Option Int, (x.elim Field.absent Field.num == .absent || isNum (x.elim .absent .num)) = true := by
      rintro (_ | x) <;> rfl
    simp only [opptLine, opptFormat, List.all_cons, List.all_nil, ht]
    rw [(liftRequest?_eq_some_iff _ lift).2 rfl]
    rfl

theorem target?_of_beyond (n : Int) (h : n < 0 ∨ 960 < n) : target? (.num n) = none := by
  have e : target? (.num n) = (within? 0 960 (.num n)).map some := rfl
  rw [e, within?, if_neg (by omega)]; rfl

theorem target?_of_within (x : Option Int) (h : ∀ n, x = some n → 0 ≤ n ∧ n ≤ 960) :
    target? (x.elim .absent .num) = some (x.map Int.toNat) := by
  match x with
  | none => rfl
  | some n =>
    have e : target? ((some n).elim .absent .num) = (within? 0 960 (.num n)).map some := rfl
    have := h n rfl
    rw [e, within?, if_pos (by omega)]; rfl

/-- An OPPT whose fields read but whose values do not all lie in their ranges gives no operating point. -/
theorem opptRecord?_of_beyond (load temp kpa : Int) (t1 t2 t3 t4 : Option Int) (lift : Option Bool)
    (h : load < 0 ∨ 1000 < load ∨ temp < -40 ∨ 150 < temp ∨ kpa < 0 ∨ 1000 < kpa ∨
      ∃ x n, x ∈ [t1, t2, t3, t4] ∧ x = some n ∧ (n < 0 ∨ 960 < n)) :
    opptRecord? (opptLine load temp kpa t1 t2 t3 t4 lift) = none := by
  by_contra hne
  obtain ⟨o, ho⟩ := Option.ne_none_iff_exists'.1 hne
  have e : opptRecord? (opptLine load temp kpa t1 t2 t3 t4 lift) = (within? 0 1000 (.num load)).bind fun l =>
      (intWithin? (-40) 150 (.num temp)).bind fun t => (within? 0 1000 (.num kpa)).bind fun k =>
      (target? (t1.elim .absent .num)).bind fun a => (target? (t2.elim .absent .num)).bind fun b =>
      (target? (t3.elim .absent .num)).bind fun c => (target? (t4.elim .absent .num)).bind fun d =>
      (liftRequest? (lift.elim .absent fun h => .word (if h then .H else .L))).bind fun r =>
        some ⟨l, t, k, ⟨a, b, c, d⟩, r⟩ := rfl
  rw [e] at ho
  simp only [Option.bind_eq_some_iff] at ho
  obtain ⟨l, hl, b, hb, k, hk, x1, h1, x2, h2, x3, h3, x4, h4, -⟩ := ho
  simp only [within?, intWithin?] at hl hb hk
  split at hl
  · split at hb
    · split at hk
      · rcases h with h | h | h | h | h | h | ⟨x, n, hx, rfl, hn⟩
        any_goals omega
        simp only [List.mem_cons, List.not_mem_nil, or_false] at hx
        rcases hx with rfl | rfl | rfl | rfl
        · exact absurd (h1.symm.trans (target?_of_beyond n hn)) (by simp)
        · exact absurd (h2.symm.trans (target?_of_beyond n hn)) (by simp)
        · exact absurd (h3.symm.trans (target?_of_beyond n hn)) (by simp)
        · exact absurd (h4.symm.trans (target?_of_beyond n hn)) (by simp)
      · cases hk
    · cases hb
  · cases hl

/-- An OPPT with every value in its range gives the operating point of those values. -/
theorem opptRecord?_of_within (load temp kpa : Int) (t1 t2 t3 t4 : Option Int) (lift : Option Bool)
    (hl : 0 ≤ load ∧ load ≤ 1000) (ht : -40 ≤ temp ∧ temp ≤ 150) (hk : 0 ≤ kpa ∧ kpa ≤ 1000)
    (hx : ∀ x ∈ [t1, t2, t3, t4], ∀ n, x = some n → 0 ≤ n ∧ n ≤ 960) :
    opptRecord? (opptLine load temp kpa t1 t2 t3 t4 lift) = some ⟨load.toNat, temp, kpa.toNat,
      ⟨t1.map Int.toNat, t2.map Int.toNat, t3.map Int.toNat, t4.map Int.toNat⟩, lift⟩ := by
  simp only [opptRecord?, opptLine, within?, intWithin?]
  rw [if_pos (by omega), if_pos (by omega), if_pos (by omega), target?_of_within t1 (hx t1 (by simp)),
    target?_of_within t2 (hx t2 (by simp)), target?_of_within t3 (hx t3 (by simp)),
    target?_of_within t4 (hx t4 (by simp)), (liftRequest?_eq_some_iff _ lift).2 rfl]
  rfl

/-! ### FLTR, FLTC and RSPW (R146, R150, R151) -/

theorem kind?_eq_some_iff (f : Field) (k : FaultKind) : kind? f = some k ↔ f = .word (kindWord k) := by
  constructor
  · intro h
    unfold kind? at h
    split at h
    · rename_i t
      have := List.find?_some h
      simp only [beq_iff_eq] at this
      rw [this]
    · cases h
  · rintro rfl; cases k <;> rfl

theorem mem_allOuts (o : Out) : o ∈ allOuts := by
  rcases o with x | x <;> cases x <;> decide

theorem isInstance_iff (i : Field) :
    isInstance i = true ↔ i = .absent ∨ (∃ v, i = .num v) ∨ ∃ out, i = .word (outWord out) := by
  cases i with
  | word t =>
    have ha := mem_allOuts
    simp only [isInstance, List.any_eq_true, beq_iff_eq, reduceCtorEq, false_or, exists_false, Field.word.injEq]
    exact ⟨fun ⟨o, _, h⟩ => ⟨o, h.symm⟩, fun ⟨o, h⟩ => ⟨o, ha o, h.symm⟩⟩
  | _ => simp [isInstance]

theorem mem_kindRecords (k : FaultKind) (id : FaultId) : id ∈ kindRecords k ↔ faultKind id = k := by
  constructor
  · intro h
    cases k <;> simp only [kindRecords, List.mem_map, List.mem_singleton] at h
    all_goals (obtain ⟨_, -, rfl⟩ := h; rfl)
  · rintro rfl
    have hc : ∀ c, c ∈ allChans := by intro c; cases c <;> decide
    have hu : ∀ c, c ∈ allUnits := by intro c; cases c <;> decide
    have ho := mem_allOuts
    cases id <;> simp [kindRecords, faultKind, hc, hu, ho]

/-- One record of a kind for one instance. -/
theorem faultInstance_inj (a b : FaultId) (hk : faultKind a = faultKind b)
    (hi : faultInstance a = faultInstance b) : a = b := by
  have hc : ∀ x y : Chan, chanNum x = chanNum y → x = y := by intro x y; cases x <;> cases y <;> decide
  have hu : ∀ x y : LiftUnit, unitNum x = unitNum y → x = y := by intro x y; cases x <;> cases y <;> decide
  have ho : ∀ x y : Out, outWord x = outWord y → x = y := by
    intro x y h
    rcases x with x | x <;> rcases y with y | y <;> cases x <;> cases y <;> first | rfl | cases h
  cases a <;> cases b <;> simp only [faultKind, reduceCtorEq] at hk <;>
    simp only [faultInstance, nat, Field.num.injEq, Field.word.injEq, Int.natCast_inj] at hi
  all_goals first | rfl | rw [hc _ _ hi] | rw [hu _ _ hi] | rw [ho _ _ hi]

/-- What the fields of FLTR and FLTC name, and the statuses that refuse them. -/
theorem namedRecords_kind (k : FaultKind) : namedRecords [.word (kindWord k)] = .ok (kindRecords k) := by
  simp only [namedRecords, (kind?_eq_some_iff _ k).2 rfl]

theorem namedRecords_no_kind (fields : List Field) (h : ∀ k rest, fields ≠ .word (kindWord k) :: rest) :
    namedRecords fields = .error .format := by
  have hk : ∀ f rest, fields = f :: rest → kind? f = none := by
    intro f rest e
    cases hf : kind? f with
    | none => rfl
    | some k => exact absurd (by rw [e, (kind?_eq_some_iff f k).1 hf]) (h k rest)
  match fields with
  | [] => rfl
  | [f] => simp only [namedRecords, hk f [] rfl]
  | [f, i] => simp only [namedRecords, hk f [i] rfl]
  | _ :: _ :: _ :: _ => rfl

theorem namedRecords_no_instance (k : FaultKind) (i : Field) (rest : List Field)
    (h : rest ≠ [] ∨ isInstance i = false) :
    namedRecords (.word (kindWord k) :: i :: rest) = .error .format := by
  match rest with
  | [] =>
    have hi : isInstance i = false := by rcases h with h | h; exact absurd rfl h; exact h
    simp only [namedRecords, (kind?_eq_some_iff _ k).2 rfl, hi]
  | _ :: _ => rfl

theorem namedRecords_foreign (k : FaultKind) (i : Field) (hi : isInstance i = true)
    (h : ∀ id, faultKind id = k → faultInstance id ≠ i) : namedRecords [.word (kindWord k), i] = .error .range := by
  have hf : (kindRecords k).find? (fun id => faultInstance id == i) = none := by
    rw [List.find?_eq_none]
    intro id hid
    simpa using h id ((mem_kindRecords k id).1 hid)
  simp only [namedRecords, (kind?_eq_some_iff _ k).2 rfl, hi, hf]

theorem namedRecords_instance (id : FaultId) (hi : isInstance (faultInstance id) = true) :
    namedRecords [.word (kindWord (faultKind id)), faultInstance id] = .ok [id] := by
  have hf : (kindRecords (faultKind id)).find? (fun x => faultInstance x == faultInstance id) = some id := by
    cases e : (kindRecords (faultKind id)).find? (fun x => faultInstance x == faultInstance id) with
    | none =>
      rw [List.find?_eq_none] at e
      exact absurd (by simp) (e id ((mem_kindRecords _ id).2 rfl))
    | some x =>
      have h1 := (mem_kindRecords _ x).1 (List.mem_of_find?_eq_some e)
      have h2 := List.find?_some e
      rw [faultInstance_inj x id h1 (by simpa using h2)]
  simp only [namedRecords, (kind?_eq_some_iff _ _).2 rfl, hi, hf]

/-- An RSPW is read exactly where its fields are a kind and the seven fields of a record, with any debounce. -/
theorem readResponse_eq_some_iff (fields : List Field) (k : FaultKind) (r : ResponseRec) (d : Int) :
    readResponse fields = some (k, r, d) ↔ r.debounce = 0 ∧ fields = [.word (kindWord k), .word (actionWord r.phaser),
      .word (if r.phaserAll then .ALL else .OWN), .word (if r.liftLow then .LOW else .NONE),
      .word (if r.liftAll then .ALL else .OWN), .num d, yesNo r.capture, yesNo r.notify] := by
  constructor
  · intro h
    unfold readResponse at h
    split at h
    · simp only [Option.bind_eq_bind, Option.bind_eq_some_iff] at h
      obtain ⟨k', hk, pa, hpa, ps, hps, la, hla, ls, hls, d', hd, c, hc, n, hn, e⟩ := h
      cases e
      refine ⟨rfl, ?_⟩
      rw [(kind?_eq_some_iff _ _).1 hk]
      unfold action? at hpa
      unfold scopeAll? at hps hls
      unfold liftLow? at hla
      unfold int? at hd
      unfold yesNo? at hc hn
      split at hpa <;> cases hpa <;> split at hps <;> cases hps <;> split at hla <;> cases hla <;>
        split at hls <;> cases hls <;>
        split at hd <;> cases hd <;> split at hc <;> cases hc <;> split at hn <;> cases hn <;> rfl
    · cases h
  · rintro ⟨hr, rfl⟩
    obtain ⟨p, pa, l, la, db, c, n⟩ := r
    subst hr
    simp only [readResponse, (kind?_eq_some_iff _ k).2 rfl]
    cases p <;> cases pa <;> cases l <;> cases la <;> cases c <;> cases n <;> rfl

/-! ### LAYW (R4) -/

/-- A value within a range is a decimal value. -/
theorem within?_shape {lo hi : Nat} {f : Field} {n : Nat} (h : within? lo hi f = some n) :
    ∃ v : Int, f = .num v ∧ v = n := by
  cases f <;> simp [within?] at h
  rename_i v
  exact ⟨v, rfl, by omega⟩

/-- A channel is read from its number. -/
theorem chan?_shape {f : Field} {c : Chan} (h : chan? f = some c) : f = .num (chanNum c) := by
  unfold chan? at h
  cases hf : within? 1 4 f with
  | none => simp [hf] at h
  | some n =>
    obtain ⟨v, rfl, hv⟩ := within?_shape hf
    simp [hf] at h
    simp [within?] at hf
    have hn : n = 1 ∨ n = 2 ∨ n = 3 ∨ n = 4 := by omega
    rcases hn with rfl | rfl | rfl | rfl <;> simp [chanOf] at h <;> subst h <;> subst hv <;> rfl

/-- A unit is read from its number. -/
theorem unit?_shape {f : Field} {c : LiftUnit} (h : unit? f = some c) : f = .num (unitNum c) := by
  unfold unit? at h
  cases hf : within? 1 2 f with
  | none => simp [hf] at h
  | some n =>
    obtain ⟨v, rfl, hv⟩ := within?_shape hf
    simp [hf] at h
    simp [within?] at hf
    have hn : n = 1 ∨ n = 2 := by omega
    rcases hn with rfl | rfl <;> simp [unitOf] at h <;> subst h <;> subst hv <;> rfl

/-- A value that may be absent is a decimal value or absent. -/
theorem withinOr?_shape {lo hi d : Nat} {f : Field} {n : Nat} (h : withinOr? lo hi d f = some n) :
    ∃ v : Option Int, f = v.elim .absent .num := by
  unfold withinOr? at h
  split at h
  · exact ⟨none, by simp_all⟩
  · obtain ⟨v, hv, _⟩ := within?_shape h; exact ⟨some v, hv⟩

/-- An angle that may be absent is a decimal value or absent. -/
theorem liftAngle?_shape {f : Field} {n : Option Nat} (h : liftAngle? f = some n) :
    ∃ v : Option Int, f = v.elim .absent .num := by
  unfold liftAngle? at h
  split at h
  · exact ⟨none, by simp_all⟩
  · cases hf : within? 0 11519 f with
    | none => simp [hf] at h
    | some m => obtain ⟨v, hv, _⟩ := within?_shape hf; exact ⟨some v, hv⟩

/-- A line A to D is read from its letter. -/
theorem abcd?_shape {f : Field} {o : LineABCD} (h : abcd? f = some o) : f = .word (abcdWord o) := by
  unfold abcd? at h; split at h <;> simp at h <;> subst h <;> rfl

/-- A binding to a line A to D is read from its letter or 0. -/
theorem abcdOr0?_shape {f : Field} {o : Option LineABCD} (h : abcdOr0? f = some o) : f = orZero abcdWord o := by
  unfold abcdOr0? at h
  split at h
  · split at h <;> simp at h
    subst h; simp_all [orZero, nat]
  · cases hf : abcd? f with
    | none => simp [hf] at h
    | some x => simp [hf] at h; subst h; exact abcd?_shape hf

/-- A binding to a line A or B is read from its letter or 0. -/
theorem abOr0?_shape {f : Field} {o : Option LineAB} (h : abOr0? f = some o) : f = orZero abWord o := by
  unfold abOr0? at h
  split at h <;> simp at h
  · obtain ⟨rfl, h⟩ := h; subst h; rfl
  · subst h; rfl
  · subst h; rfl

/-- The pairs of an EDGE item are decimal values each with a polarity. -/
theorem edgePairs?_shape {fs : List Field} {es : List EdgeItem} (h : edgePairs? fs = some es) :
    ∃ l : List (Int × Polarity), fs = l.flatMap (fun e => [.num e.1, .word (polWord e.2)]) := by
  induction fs using edgePairs?.induct generalizing es with
  | case1 a p rest ih =>
    simp [edgePairs?, Option.bind_eq_bind, Option.bind_eq_some_iff] at h
    obtain ⟨a', ha, p', hp, r, hr, -⟩ := h
    obtain ⟨v, rfl, -⟩ := within?_shape ha
    obtain ⟨l, rfl⟩ := ih hr
    refine ⟨(v, p') :: l, ?_⟩
    unfold pol? at hp; split at hp <;> simp at hp <;> subst hp <;> simp [polWord]
  | case2 => exact ⟨[], rfl⟩
  | case3 => simp [edgePairs?] at h

end Sys2Proof.Machine
end

