-- ==== Sys2Proof/WellFormed.lean ====
section
/-! DEFINITION. Which commands can occur on the part's lines and in its blocks: the levels an operand can take, the
fields a request line can carry. A meaning is total: it does not rest on these checks. -/

namespace Sys2Proof

/-- The greatest supply VBAT withstands, 28 V, in tenths of a volt (00, Pins and electrical limits). -/
def maxVolts : Nat := 280

/-- The longest erase and programming of one page, 12 ms, in units of 0.5 µs (R161; log 28). -/
def maxPageTime : Nat := 24000

/-- The longest check of one page in a sweep, 0.5 ms, in units of 0.5 µs (R169; log 28). -/
def maxCheckTime : Nat := 1000

/-- The most entries the Angle Schedule holds (R43). -/
def maxEntries : Nat := 32

/-- A request cannot carry a run of hexadecimal digits: those stand in PAGE replies only (R178). Any other run of
characters in a field is printable and holds no space (R178). -/
def Field.inRequest : Field → Bool
  | .hex _ => false
  | .other codes => codes.all fun c => decide (0x21#8 ≤ c) && decide (c ≤ 0x7E#8)
  | _ => true

/-- The fields of a request line (R178). -/
def fieldsOk (fields : List Field) : Bool := fields.all Field.inRequest

/-- The first field of a request that two rows of the table share (R92, R137, R175, R180). -/
def firstWord (fields : List Field) (t : Token) : Bool := fields.head? == some (.word t)

/-- The checks on a command's operands. -/
def Instr.wellFormed : Instr → Bool
  | .powerOn _ volts => decide (volts ≤ maxVolts)
  | .supplyCrossing _ volts => decide (volts ≤ maxVolts)
  | .crkEdge _ hold => decide (hold ≤ maxEntries)
  | .angleClockReach au hold => decide (1 ≤ au) && decide (hold ≤ maxEntries)
  | .savePageEnd dt => decide (dt ≤ maxPageTime)
  | .sweepPageCheck dt => decide (dt ≤ maxCheckTime)
  | .stat f | .arms f | .nmsk f | .idnt f | .rset f | .layr f | .layw f | .tunr f | .tunw f | .oppt f | .mapr f
  | .mapw f | .clrl f | .rspr f | .rspw f | .fltr f | .fltc f | .trct f | .trcr f | .trcf f | .swep f | .abrt f
  | .page f | .lock f => fieldsOk f
  | .modeRun f => fieldsOk f && !(f == [.word .STANDBY])
  | .modeStandby f _ => fieldsOk f && !(f == [.word .RUN])
  | .testCh f => fieldsOk f && !firstWord f .LIFT
  | .testLift f => fieldsOk f && !firstWord f .CH
  | .save _ f | .stst _ f => fieldsOk f
  | _ => true

end Sys2Proof
end

