-- ==== Sys2Proof/Tests/Slice0.lean ====
section
/-! SUPPORT. Tests: a well-formed and an ill-formed command for each check, worked examples of the manual in single
steps, and for each obligation a state and operands that meet its hypotheses. -/

namespace Sys2Proof.Tests

-- One proof at a time: each `decide +kernel` waits for the kernel, and many waiting at once need many threads.
set_option Elab.async false

open Sys2Proof.Machine

/-! ### Well-formed and ill-formed commands -/

theorem test_wf_supply : (Instr.powerOn 0 280).wellFormed = true ∧ (Instr.powerOn 0 281).wellFormed = false ∧
    (Instr.supplyCrossing 0 280).wellFormed = true ∧ (Instr.supplyCrossing 0 281).wellFormed = false := by decide

theorem test_wf_hold : (Instr.crkEdge 0 32).wellFormed = true ∧ (Instr.crkEdge 0 33).wellFormed = false ∧
    (Instr.angleClockReach 1 32).wellFormed = true ∧ (Instr.angleClockReach 1 33).wellFormed = false ∧
    (Instr.angleClockReach 0 0).wellFormed = false := by decide

theorem test_wf_page_times : (Instr.savePageEnd 24000).wellFormed = true ∧
    (Instr.savePageEnd 24001).wellFormed = false ∧ (Instr.sweepPageCheck 1000).wellFormed = true ∧
    (Instr.sweepPageCheck 1001).wellFormed = false := by decide

theorem test_wf_fields : (Instr.stat [.absent, .num (-4), .word .CH, .other [0x21, 0x7E]]).wellFormed = true ∧
    (Instr.stat [.hex [0]]).wellFormed = false ∧ (Instr.page [.other [0x20]]).wellFormed = false ∧
    (Instr.save true [.other [0x7F]]).wellFormed = false ∧ (Instr.stst false [.hex []]).wellFormed = false := by decide

theorem test_wf_shared_keywords : (Instr.modeRun [.word .RUN]).wellFormed = true ∧
    (Instr.modeRun [.word .STANDBY]).wellFormed = false ∧
    (Instr.modeStandby [.word .STANDBY] ⟨false, false, false, false, false, false⟩).wellFormed = true ∧
    (Instr.modeStandby [.word .RUN] ⟨false, false, false, false, false, false⟩).wellFormed = false ∧
    (Instr.testCh [.word .CH]).wellFormed = true ∧ (Instr.testCh [.word .LIFT]).wellFormed = false ∧
    (Instr.testLift [.word .LIFT]).wellFormed = true ∧ (Instr.testLift [.word .CH]).wellFormed = false := by decide

/-! ### The states of the tests -/

/-- The engine of the manual's worked example (01), with the decision angle that passes validation. -/
def engine : Layout where
  wheel := some ⟨24, 2, 20, 240, 200⟩
  cyl := some 4320
  cam := ⟨some ⟨.adv, 800, 160, true⟩, some ⟨.ret, 640, 128, false⟩, some ⟨.adv, 800, 160, false⟩,
    some ⟨.ret, 640, 128, false⟩⟩
  edges := ⟨[⟨1000, .rise⟩, ⟨4840, .rise⟩, ⟨8680, .rise⟩], [⟨2200, .fall⟩, ⟨8000, .fall⟩],
    [⟨1000, .rise⟩, ⟨4840, .rise⟩, ⟨8680, .rise⟩], [⟨2200, .fall⟩, ⟨8000, .fall⟩]⟩
  bind := ⟨⟨some .A, some .A⟩, ⟨some .B, some .B⟩, ⟨some .C, some .C⟩, ⟨some .D, some .D⟩⟩
  lift := ⟨⟨some .A, some .A, some 9120, some 10400, some 11200⟩, ⟨some .B, some .B, some 9120, some 10400, some 11200⟩⟩
  pwm := .all 4000

/-- STANDBY with the engine written and no request waiting. -/
def standby : State :=
  { State.reset with
    smc := { State.reset.smc with mode := .standby, startTimer := none }
    tbm := { Tbm.reset with layout := engine, layoutOrigin := .edited } }

/-- RUN with the engine in force, every channel PARKED, the tracker STOPPED. -/
def running : State :=
  { standby with
    smc := { standby.smc with mode := .run }
    tbm := { standby.tbm with inForce := engine }
    asc := ⟨[], engine.plan⟩
    phc := { Phc.reset with chans := .all { ChanRec.reset with state := .parked } }
    vdr := ⟨⟨⟨true, some .IN1, 4000, 0, 0, some 0, false, false, 0, false⟩,
        ⟨true, some .EX1, 4000, 0, 0, some 0, false, false, 0, false⟩,
        ⟨true, some .IN2, 4000, 0, 0, some 0, false, false, 0, false⟩,
        ⟨true, some .EX2, 4000, 0, 0, some 0, false, false, 0, false⟩⟩,
      ⟨⟨true, some .L1, false, none, false, 0, false⟩, ⟨true, some .L2, false, none, false, 0, false⟩⟩⟩ }

/-- The tracker in a state, with its clock at an anchor of the second half of the cycle (02, early and late teeth). -/
def turning (st : CrankState) : State :=
  { running with ckt := { Ckt.reset with
    state := st, lastEdge := some 0, lastInterval := some 500, pitch := some 500, tooth := some 5, lastGap := some 0
    clock := some ⟨⟨0, 6960, 240, 500⟩, none, 229⟩, stall := some 400000, rpm := 10000, cycles := 7 } }

/-- A state with one handover in flight. -/
def on (s : State) (h : Handover) : State := { s with handovers := [h] }

/-- A state with one request dispatched. -/
def asked (s : State) (k : Keyword) (fields : List Field) : State :=
  { s with clp := { s.clp with request := some ⟨k, fields⟩ } }

/-- A state with channel 1 in a state. -/
def chan (s : State) (st : ChanState) : State := s.setChan .IN1 { ChanRec.reset with state := st }

/-- A state with unit 1 in a state. -/
def unit (s : State) (st : LiftState) : State := s.setUnit .L1 ⟨st, 0, false, none, none, 0, false⟩

/-- The handover of `on` waits for nothing, being the only one. -/
theorem on_free (s : State) (h : Handover) : (on s h).heldBack h = false := by
  cases h with
  | liftEntry k a c => cases k <;> rfl
  | dutyWrite o d i => simp [State.heldBack, on]
  | solenoid o b => simp [State.heldBack, on]
  | _ => rfl

/-- The handover of `on` is offered, and taking it gives the state back. -/
theorem on_offers (s : State) (h : Handover) (e : s.handovers = []) : (on s h).offers h s := by
  have := State.offers_front (on s h) h [] rfl (on_free s h)
  cases s
  simp_all [on]

/-- The request of `asked` begins, and beginning it gives the state back. -/
theorem asked_begins (s : State) (k : Keyword) (fields : List Field) (ht : s.takesRequests = true)
    (hr : s.clp.request = none) (ha : s.clp.arm = none ∨ consumesArm k = true) :
    (asked s k fields).begins k fields s := by
  refine ⟨?_, ?_⟩
  · simp only [State.dispatches, Bool.and_eq_true]
    exact ⟨ht, by simp [asked]⟩
  · obtain ⟨_, _, _, _, clp, _, _, _, _, _, _, _, _, _, _, _, _⟩ := s
    obtain ⟨_, _, _, _, _, _, _, _, _, _, _, _, _⟩ := clp
    rcases ha with ha | ha <;> simp_all [asked, State.begun, State.updClp]

/-! ### Worked examples, one step each -/

theorem test_engine_validates : validate .edited engine = none ∧ engine.entryCount = 17 ∧ engine.plan.length = 17 ∧
    validate .blank engine = some .origin := by decide +kernel

/-- Each of the twelve checks fails on a layout of its own (R7 to R12). -/
theorem test_each_check_fails : (let o := Origin.edited;
    validate o { engine with wheel := none } = some .wheelAbsent ∧
    validate o { engine with wheel := some ⟨11, 2, 20, 240, 200⟩ } = some (.wheelTeeth 9) ∧
    validate o { engine with cyl := none } = some .cyl ∧
    validate o { engine with bind := engine.bind.set .EX1 ⟨some .B, none⟩ } = some (.partialChan .EX1) ∧
    validate o { engine with lift := engine.lift.set .L2 { engine.lift.get .L2 with sense := none } } =
      some (.partialUnit .L2) ∧
    validate o { engine with edges := engine.edges.set .EX2 [] } = some (.channel .EX2) ∧
    validate o { engine with cam := engine.cam.set .IN1 (some ⟨.adv, 800, 160, false⟩) } = some (.refCount 0) ∧
    validate o { engine with cam := engine.cam.set .IN2 (some ⟨.adv, 800, 160, true⟩) } = some (.refCount 2) ∧
    validate o { engine with bind := engine.bind.set .IN1 ⟨none, none⟩ } = some (.refUnbound .IN1) ∧
    validate o { engine with edges := engine.edges.set .EX1 [⟨8000, .fall⟩, ⟨2200, .fall⟩] } = some (.order .EX1 2) ∧
    validate o { engine with edges := engine.edges.set .EX1 [⟨2200, .fall⟩, ⟨3096, .fall⟩] } = some (.overlap .EX1 1) ∧
    validate o { engine with bind := engine.bind.set .IN2 ⟨some .A, some .C⟩ } = some (.conflict .camin .A 1 3) ∧
    validate o { engine with bind := engine.bind.set .IN2 ⟨none, none⟩ } = some (.intake .L2)) := by decide +kernel

theorem test_lead_fails : validate .edited { engine with lift := engine.lift.map fun _ i =>
    { i with decision := some 9600 } } = some (.lead .L1 0) := by decide +kernel

theorem test_window : (CamItem.windowStart ⟨.adv, 800, 160, true⟩ 1000, CamItem.windowEnd ⟨.adv, 800, 160, true⟩ 1000) =
    (40, 1160) := by decide

theorem test_map_lookup : (MapData.mk
    [0, 1000, 2000, 3000, 4000, 5000, 6000, 7000, 8000, 9000, 10000, 11000, 12000, 13000, 14000, 16000]
    [0, 100, 200, 300, 400, 500, 600, 700, 800, 850, 900, 1000]
    (List.replicate 6 (List.replicate 12 0) ++ [[0, 0, 0, 0, 320, 400, 0, 0, 0, 0, 0, 0],
      [0, 0, 0, 0, 360, 480, 0, 0, 0, 0, 0, 0]] ++ List.replicate 8 (List.replicate 12 0))
    [-20, 0, 20, 40, 60, 80, 100, 120] [800, 800, 800, 1000, 1000, 1000, 1000, 1000]).lookup 6300 450 25 800 = 321 := by
  decide +kernel

/-- What a step makes of a state: a field of the next state, or `none` where it stops. -/
def after {α : Type} (o : Outcome) (f : State → α) : Option α :=
  match o with
  | .next t => some (f t)
  | _ => none

theorem test_early_tooth : after (exec (.crkEdge 480 0) (turning .cycleLocked)) (fun t => (t.ckt.tooth, t.ckt.clock)) =
    some (some 6, some ⟨⟨480, 7200, 240, 480⟩, some ⟨0, 6960, 240, 500⟩, 0⟩) := by decide +kernel

theorem test_noise_pulse_in_the_gap : after (exec (.crkEdge 700 0)
    { turning .cycleLocked with ckt := { (turning .cycleLocked).ckt with tooth := some 22 } })
    (fun t => (t.ckt.state, t.ckt.tooth, t.ckt.clock, t.ckt.rpm, t.handovers.head?)) =
    some (.seeking, none, none, 10000, some (.report .ckt .syncSlip .event)) := by decide +kernel

theorem test_noise_below_minimum : after (exec (.crkEdge 276 0) (turning .cycleLocked))
    (fun t => (t.ckt.noiseTally, t.ckt.lastEdge)) = some (1, some 0) := by decide +kernel

theorem test_control_step : after (exec (.phcMatch .IN1) (on { running with
      phc := { running.phc with chans := running.phc.chans.set .IN1 { ChanRec.reset with
        state := .tracking, presented := 144, stuck := ⟨false, 4, 0, 0⟩ } }
      ceu := { running.ceu with chans := running.ceu.chans.set .IN1 { CeuChan.reset with phase := 20, valid := true } }
      tga := { running.tga with chans := running.tga.chans.set .IN1 ⟨.map, 400, some 400, .none⟩ } }
      (.phcMatch .IN1 1 20 0 9)))
    (fun t => ((t.phc.chans.get .IN1).presented, (t.phc.chans.get .IN1).integral, (t.phc.chans.get .IN1).duty,
      (t.phc.chans.get .IN1).stuck)) = some (192, 5, 900, ⟨true, 4, 20, 9⟩) := by decide +kernel

theorem test_first_match_releases : after (exec (.phcMatch .IN1) (on { turning .cycleLocked with
      ceu := { running.ceu with chans := running.ceu.chans.set .IN1 { CeuChan.reset with phase := 2, valid := true } }
      tga := ⟨some ⟨500, 80, 240, .all none, none⟩, .fresh, none, false, .all ⟨.map, 400, some 400, .none⟩⟩ }
      (.phcMatch .IN1 1 2 0 9)))
    (fun t => ((t.phc.chans.get .IN1).presented, (t.phc.chans.get .IN1).state, (t.phc.chans.get .IN1).duty,
      (t.phc.chans.get .IN1).timer)) = some (48, .releasing, 700, some (.release, 80000)) := by decide +kernel

theorem test_short_while_tracking : after (exec (.phcDriverFault .IN1) (on (chan running .tracking)
    (.phcDriverFault .IN1 true))) (fun t => (t.phc.chans.get .IN1).state) = some .faulted ∧
    after (exec (.phcClass1Report .IN1) (on (chan running .faulted) (.phcDriverFault .IN1 true)))
      (fun t => (t.phc.chans.get .IN1).state) = some .lockout := by decide +kernel

theorem test_mode_run_enters : after (exec (.modeRun [.word .RUN]) (asked standby .MODE [.word .RUN]))
    (fun t => (t.smc.mode, t.phc.chans.map fun _ r => r.state, t.asc.plan.length, t.clp.sending)) =
    some (.run, .all .parked, 17, some (.reply ⟨.reply, .kw .MODE, [.word .OK]⟩)) := by decide +kernel

theorem test_arming : after (exec (.arms [.word .CLRL]) (asked running .ARMS [.word .CLRL]))
    (fun t => t.clp.arm) = some (some (.clrl, 100000)) ∧
    after (exec (.clrl []) (asked running .CLRL [])) (fun t => t.clp.lastRefusal) =
      some (some (.kw .CLRL, .notArmed)) := by decide +kernel

theorem test_overlap : after (exec (.lineComplete 0) { running with clp := { running.clp with
    rx := some ⟨[], false, false, false, 0⟩, buffer := [⟨[], false, false⟩, ⟨[], false, false⟩] } })
    (fun t => (t.clp.overlap, t.clp.buffer.length)) = some (true, 2) := by decide +kernel

theorem test_line_codes : (Line.mk .request (.kw .TEST) [.word .CH, .num 4, .absent]).codes.length = 15 ∧
    checkLine ⟨(Line.mk .request (.kw .PAGE) [.num (-12)]).codes, false, false⟩ = .request ⟨.PAGE, [.num (-12)]⟩ := by
  decide +kernel

/-! ### States and operands that meet the hypotheses of the obligations

One theorem for each obligation that has hypotheses, one conjunct for each clause, at a boundary where there is one. -/

/-- A save of the TUNING region at its first page. -/
def saving : State :=
  { standby with cst := { standby.cst with op := ⟨.save .tuning 1 (.tuning .builtIn), true, false, 6, none⟩ } }

/-- A sweep running at a page. -/
def sweeping (n : Nat) : State := { standby with cst := { standby.cst with op := ⟨.sweep, true, false, n, none⟩ } }

theorem running_offers (h : Handover) : (on running h).offers h running := on_offers running h rfl

theorem standby_begins (k : Keyword) (fields : List Field) : (asked standby k fields).begins k fields standby :=
  asked_begins standby k fields (by decide) rfl (Or.inl rfl)

theorem running_begins (k : Keyword) (fields : List Field) : (asked running k fields).begins k fields running :=
  asked_begins running k fields (by decide) rfl (Or.inl rfl)

theorem test_meets_StepRunsFrontCommand :
    { running with pending := [.ceuCycleStart, .trcf []] }.pending = .ceuCycleStart :: [.trcf []] ∧
    running.pending = [] := ⟨rfl, rfl⟩

theorem test_meets_EveryStepKeepsTheBounds : running.bounded ∧ step { running with pending := [.trbLockLost] } =
    exec .trbLockLost running := by
  refine ⟨⟨⟨by decide, by decide, by simp [running, standby, State.reset, Clp.reset]⟩, ⟨by decide, by decide, ?_, by decide⟩, ?_,
    ⟨by decide, ?_⟩, by decide +kernel, by decide +kernel⟩, rfl⟩
  · intro x hx
    have : x = TraceSlot.reset := List.eq_of_mem_replicate (n := 4) hx
    subst this; exact ⟨by decide, by decide⟩
  · intro id
    cases id <;> (try (rename_i x; cases x)) <;> (try (rename_i y; cases y)) <;> exact Nat.zero_le _
  · intro p hp
    have : p = .erased := List.eq_of_mem_replicate (n := 36) hp
    subst this; decide +kernel

theorem test_meets_LockedRegionsKeepTheirPages : saving.cst.guarded ∧ saving.cst.locks.get .ident = true ∧
    (0 < regionSize .ident) ∧ ∃ t, step saving = .next t := by
  refine ⟨?_, rfl, by decide, _, rfl⟩
  intro r gen image h
  cases h
  exact ⟨rfl, by decide, by decide⟩

theorem test_meets_RequestLinesReadBack :
    ∀ f ∈ [Field.absent, .num (-40), .num 11519, .word .MAP_EX2], f = .absent ∨ (∃ v, f = .num v) ∨ ∃ t, f = .word t := by
  simp

/-- A part held in reset, and one that has answered an accepted RSET in full. -/
def held : State := { running with smc := { running.smc with inReset := true } }
def asksReset : State := { running with smc := { running.smc with resetAsked := true } }

theorem test_meets_cut_off_save : saving.cst.op.kind = .save .tuning 1 (.tuning .builtIn) ∧ saving.cst.op.running = true ∧
    saving.cst.guarded ∧ saving.cst.pages.length = 36 :=
  ⟨rfl, rfl, test_meets_LockedRegionsKeepTheirPages.1, by decide +kernel⟩

theorem test_meets_Resets : 59 < 60 ∧ running.smc.coldHeld = false ∧ asksReset.smc.resetAsked = true ∧
    asksReset.clp.free = true ∧ held.smc.coldHeld = true ∧
    ∀ st : RecState, ((FaultTable.clean.set .oilLow { FaultRec.clean with state := st }).get .oilLow).state = st := by
  refine ⟨by decide, by decide, by decide, by decide, by decide, ?_⟩
  intro st; rfl

theorem test_meets_ResetRelease : { held.smc with supply := 66 }.inReset = true ∧ 65 < 66 ∧
    { held.smc with supply := 65, cause := .lineRequest }.cause = .lineRequest := ⟨rfl, by decide, rfl⟩

theorem test_meets_SupplyChanges : running.smc.inReset = false ∧ running.smc.supplyState = .normal ∧
    SupplyState.next .normal 79 = .belowDrive ∧ SupplyState.next .normal 80 = .belowProgram ∧
    SupplyState.next .normal 94 = .belowProgram ∧ SupplyState.next .normal 95 = .normal ∧
    SupplyState.next .belowProgram 99 = .belowProgram ∧ SupplyState.next .belowProgram 100 = .normal ∧
    SupplyState.next .belowDrive 84 = .belowDrive ∧ SupplyState.next .belowDrive 85 = .belowProgram ∧
    SupplyState.next .belowDrive 100 = .normal ∧
    { running.smc with repeatTimer := some 7 }.repeatTimer = some 7 := by decide

/-- STANDBY with two records LATCHED: OCVA open, L1 not confirmed. -/
def held2 : State :=
  { standby with fmg := { standby.fmg with
    table := (standby.fmg.table.set (.driverOpen (.ocv .A)) { FaultRec.clean with state := .latched }).set
      (.liftNoConfirm .L1) { FaultRec.clean with state := .latched } } }

/-- The same with LSA open, so that both kinds of stuck record of L1 are held. -/
def stuckTwice : State :=
  { held2 with fmg := { held2.fmg with
    table := held2.fmg.table.set (.driverOpen (.ls .A)) { FaultRec.clean with state := .latched } } }

theorem test_meets_ModeRunEntersRun : (asked standby .MODE [.word .RUN]).begins .MODE [.word .RUN] standby ∧
    standby.smc.mode = .standby ∧ validate standby.tbm.layoutOrigin standby.tbm.layout = none ∧
    ((chan standby .lockout).phc.chans.get .IN1).state = .lockout ∧
    ((chan standby .parked).phc.chans.get .IN1).state ≠ .lockout ∧
    (standby.tbm.layout.bind.get .IN1).bound = true ∧ (standby.tbm.layout.lift.get .L1).bound = true ∧
    ({ engine with lift := engine.lift.set .L1 ⟨none, none, none, none, none⟩ }.lift.get .L1).bound = false ∧
    ({ engine with bind := engine.bind.set .IN1 ⟨none, none⟩ }.bind.get .IN1).bound = false ∧
    (engine.bind.get .IN1).driver = some .A ∧ (standby.fault (.driverOpen (.ocv .A))).held = false ∧
    (held2.fault (.driverOpen (.ocv .A))).held = true ∧ (held2.fault (.liftNoConfirm .L1)).held = true ∧
    (held2.fault (.driverOpen (.ls .A))).held = false ∧ (stuckTwice.fault (.driverOpen (.ls .A))).held = true ∧
    (stuckTwice.fault (.liftNoConfirm .L1)).held = true ∧
    (standby.fault (.liftNoConfirm .L1)).held = false ∧ (engine.lift.get .L1).driver = some .A ∧
    (engine.lift.get .L1).sense = some .A ∧ (standby.lfs.senses.get .A).high = false :=
  ⟨standby_begins _ _, by decide +kernel⟩

/-- RUN entry with those records held: the channel of the output FAULTED, the unit STUCK. -/
theorem test_mode_run_with_records_held : after (exec (.modeRun [.word .RUN]) (asked held2 .MODE [.word .RUN]))
    (fun t => (t.phc.chans.map (fun _ r => r.state), t.lfs.units.map fun _ r => r.state)) =
    some (⟨.faulted, .parked, .parked, .parked⟩, ⟨.stuck, .low⟩) := by decide +kernel

/-- RUN entry discards what was written or asked before; the 0 of the channel that goes to FAULTED is what is on its way
(R111, R121; log 53). -/
theorem test_mode_run_discards_stale_writes : after (exec (.modeRun [.word .RUN]) { asked held2 .MODE [.word .RUN] with
      handovers := [.dutyWrite .B 500 false, .solenoid .A true, .dutyWrite .A 300 true] })
    (fun t => (t.handovers.contains (.dutyWrite .A 0 true), [.dutyWrite .B 500 false, .solenoid .A true,
      .dutyWrite .A 300 true].any t.handovers.contains)) = some (true, false) := by decide +kernel

/-- STANDBY with a FRESH operating point that carries a target for IN1, and reports of before for EX1 and L2, which the
layout binds no longer. -/
def unbinding : State := { standby with
  tbm := { standby.tbm with layout := { engine with
    bind := engine.bind.set .EX1 ⟨none, none⟩, cam := engine.cam.set .EX1 none, edges := engine.edges.set .EX1 []
    lift := engine.lift.set .L2 ⟨none, none, none, none, none⟩ } }
  tga := { standby.tga with record := some ⟨0, 0, 0, ⟨some 900, none, none, none⟩, none⟩, fresh := .fresh }
  lfs := { standby.lfs with mismatchReported := true, units := .all ⟨.high, 1, true, none, none, 2, true⟩ }
  ceu := { standby.ceu with chans := .all { CeuChan.reset with missingReported := true } } }

/-- RUN entry there: the arbiter's sources, and what goes out as reported gone (R72, R108, R124, R134). -/
theorem test_mode_run_sources_and_gone_reports : (asked unbinding .MODE [.word .RUN]).begins .MODE [.word .RUN] unbinding ∧
    validate unbinding.tbm.layoutOrigin unbinding.tbm.layout = none ∧
    after (exec (.modeRun [.word .RUN]) (asked unbinding .MODE [.word .RUN])) (fun t =>
      (t.tga.chans.map (fun _ r => (r.source, r.output)),
        [.report .ceu (.camMissing .EX1) .gone, .report .lfs (.liftPosition .L2) .gone, .report .lfs .liftMismatch .gone,
          .phcSource .IN1 .host].all t.handovers.contains, t.handovers.contains (.report .ceu (.camMissing .IN1) .gone))) =
      some (⟨(.host, 800), (.park, 0), (.park, 0), (.park, 0)⟩, true, false) :=
  ⟨asked_begins _ _ _ (by decide) rfl (Or.inl rfl), by decide +kernel, by decide +kernel⟩

/-- The engine with an origin that validation refuses. -/
def unwritten : State := { standby with tbm := { standby.tbm with layoutOrigin := .blank } }

theorem test_meets_ModeRunAndRsetRefusals : (asked standby .MODE []).begins .MODE [] standby ∧
    (asked running .MODE [.word .RUN]).begins .MODE [.word .RUN] running ∧ running.smc.mode = .run ∧
    (asked unwritten .MODE [.word .RUN]).begins .MODE [.word .RUN] unwritten ∧
    validate unwritten.tbm.layoutOrigin unwritten.tbm.layout = some .origin ∧
    (asked running .RSET [.absent]).begins .RSET [.absent] running ∧
    (asked running .RSET []).begins .RSET [] running ∧
    (asked { running with clp := { running.clp with arm := some (.reset, 9) } } .RSET []).begins .RSET []
      { running with clp := { running.clp with arm := some (.reset, 9) } } :=
  ⟨standby_begins _ _, running_begins _ _, rfl, asked_begins unwritten _ _ (by decide) rfl (Or.inl rfl), by decide,
    running_begins _ _, running_begins _ _, asked_begins _ _ _ (by decide) rfl (Or.inr rfl)⟩

theorem test_meets_ModeStandbyLeavesRun :
    (asked standby .MODE [.word .STANDBY]).begins .MODE [.word .STANDBY] standby ∧
    (asked (turning .seeking) .MODE [.word .STANDBY]).begins .MODE [.word .STANDBY] (turning .seeking) ∧
    (turning .seeking).smc.mode = .run ∧ (turning .seeking).ckt.state ≠ .stopped ∧
    (asked running .MODE [.word .STANDBY]).begins .MODE [.word .STANDBY] running ∧ running.ckt.state = .stopped :=
  ⟨standby_begins _ _, asked_begins (turning .seeking) _ _ (by decide) rfl (Or.inl rfl), rfl, by decide,
    running_begins _ _, rfl⟩

/-- STOPPED by a stall whose lock-lost notifications nobody has taken: channel 1 drives, unit 1 waits, an entry fired. -/
def stalled : State :=
  let s := asked (unit (chan running .tracking) .raiseWait) .MODE [.word .STANDBY]
  { s with handovers := [.ceuEdgeClose .IN1 1 1160 7, .ascLock false, .ceuLock false, .phcLockLost .IN1, .lfsLockLost .L1,
    .trbLockLost] }

/-- Leaving RUN acts as lock lost does, and what the ended lock left on its way is gone (R72, R85, R124; log 45). -/
theorem test_mode_standby_before_lock_lost_is_taken : after (exec (.modeStandby [.word .STANDBY]
      ⟨false, false, false, false, false, false⟩) stalled) (fun t =>
        ((t.phc.chans.get .IN1).state, t.liftState .L1, t.handovers.any Handover.ofLock,
          t.handovers.contains .trbLockLost)) = some (.parking, .low, false, true) ∧
    (stalled.phc.chans.get .IN1).state = .tracking ∧ stalled.liftState .L1 = .raiseWait ∧
    (stalled.tbm.layout.lift.get .L1).sense = some .A ∧ stalled.ckt.state = .stopped := by decide +kernel

/-- A line under assembly with a number of characters, the latest at a time. -/
def line (n : Nat) (init : Bool) : Assembly := ⟨List.replicate n 0x41, false, false, init, 0⟩

theorem test_meets_CharactersMakeLinesThatTakePlaces : running.smc.inReset = false ∧ running.clp.rx = none ∧
    (line 319 false).fromInit = false ∧ (line 0 false).last + ms 5 < 10001 ∧ 10000 ≤ (line 0 false).last + ms 5 ∧
    (line 319 false).codes.length < 320 ∧ 320 ≤ (line 320 false).codes.length ∧ (line 0 true).fromInit = true ∧
    { running.clp with buffer := [⟨[], false, false⟩] }.buffer.length < 2 ∧
    2 ≤ { running.clp with buffer := [⟨[], false, false⟩, ⟨[], true, true⟩] }.buffer.length := by decide +kernel

/-- A good request line, one with a wrong checksum, and one with an unknown keyword. -/
def goodLine : List Byte := (Line.mk .request (.kw .STAT) []).codes

theorem test_meets_LinesAreTakenAndCheckedInOrder : running.takesRequests = true ∧ running.clp.free = true ∧
    { running.clp with buffer := [⟨goodLine, false, false⟩] }.buffer = ⟨goodLine, false, false⟩ :: [] ∧
    checkLine ⟨goodLine, false, false⟩ = .request ⟨.STAT, []⟩ ∧
    checkLine ⟨goodLine, true, false⟩ = .refuse .dashes .long ∧
    checkLine ⟨goodLine, false, true⟩ = .refuse .dashes .format ∧ splitLine [] = none ∧
    (splitLine goodLine).map (fun p => (decide (checksum p.1 = p.2), (splitSpaces p.1).head?)) =
      some (true, some (keywordCodes .STAT)) ∧
    (splitLine (goodLine.dropLast ++ [0x30])).map (fun p => decide (checksum p.1 = p.2)) = some false ∧
    goodLine = 0x3E#8 :: keywordCodes .STAT ++ [0x2A#8, 0x31#8, 0x32#8] ∧ (0x32#8).toNat = 48 + 2 ∧
    (0x46#8).toNat = 55 + 15 ∧ (0x66#8).toNat = 87 + 15 := by
  decide +kernel

/-- Another lead character, a line with no '*' before its last two characters, a digit that is none: ill-formed. -/
theorem test_ill_formed_lines : (∀ (body : List Byte) (x y : Byte), ([] : List Byte) ≠ 0x3E#8 :: body ++ [0x2A#8, x, y]) ∧
    (let check (c : List Byte) : Checked := checkLine ⟨c, false, false⟩;
      check (0x3C#8 :: goodLine.tail) = .refuse .dashes .format ∧ check (goodLine.take 5) = .refuse .dashes .format ∧
        check (goodLine.dropLast ++ [0x47#8]) = .refuse .dashes .format) := by
  refine ⟨by simp, ?_⟩
  decide +kernel

theorem test_meets_RepliesGoOutBeforeNotices :
    { running.clp with sending := some (.reply ⟨.reply, .dashes, []⟩) }.sending = some (.reply ⟨.reply, .dashes, []⟩) ∧
    { running.clp with replies := [⟨.reply, .dashes, []⟩] }.replies = ⟨.reply, .dashes, []⟩ :: [] ∧
    { running.clp with queue := [.stoSweep .clean] }.queue = .stoSweep .clean :: [] ∧ running.clp.replies = [] ∧
    running.clp.queue = [] := ⟨rfl, rfl, rfl, rfl, rfl⟩

theorem test_meets_NoticesAreMaskedQueuedOrDropped :
    (on running (.notice .ckt (.stoSweep .clean))).offers (.notice .ckt (.stoSweep .clean)) running ∧
    running.clp.mask.on (noticeKind (.stoSweep .clean)) = true ∧
    running.clp.mask.on (noticeKind (.syn .seeking .stopped .start 0 0)) = false ∧
    8 ≤ { running.clp with queue := List.replicate 8 (.stoSweep .clean) }.queue.length ∧
    { running.clp with queue := List.replicate 7 (.stoSweep .clean) }.queue.length < 8 ∧
    ({ running.clp with sending := some (.notice (.stoSweep .clean)) }.sending).isSome = true ∧
    running.clp.sending = none ∧ running.clp.replies = [] :=
  ⟨running_offers _, by decide⟩

theorem test_meets_ArmsStatIdntAndNmsk : (asked running .ARMS [.word .RESET]).begins .ARMS [.word .RESET] running ∧
    (asked running .STAT []).begins .STAT [] running ∧ (asked running .IDNT []).begins .IDNT [] running ∧
    running.cst.identity = none ∧
    ({ running.cst with identity := some ⟨.absent, .absent, .absent, .absent⟩ }.identity).isSome = true ∧
    (asked running .NMSK [.absent]).begins .NMSK [.absent] running ∧ maskPairs? [.absent] = none ∧
    maskPairs? [.word .RDY, .word .ON] = some [(.rdy, true)] ∧ maskPairs? [.word .SYN, .word .ON] = some [(.syn, true)] ∧
    { running.clp with arm := some (.lock, 5) }.arm = some (.lock, 5) ∧ running.clp.request = none ∧
    (asked running .CLRL []).clp.request = some ⟨.CLRL, []⟩ :=
  ⟨running_begins _ _, running_begins _ _, running_begins _ _, rfl, rfl, running_begins _ _, by decide, by decide,
    by decide, rfl, rfl, rfl⟩

/-- NMSK: an odd count, an unknown name, another word and a name given twice read as no pairs. -/
theorem test_mask_pairs : maskPairs? [.word .SYN] = none ∧ maskPairs? [.word .CH, .word .ON] = none ∧
    maskPairs? [.word .SYN, .word .SET] = none ∧
    maskPairs? [.word .SYN, .word .ON, .word .SYN, .word .OFF] = none ∧
    ¬ ([(.syn, true), (.syn, false)].map fun p : NoticeKind × Bool => p.1).Nodup ∧
    (∀ (p : List (NoticeKind × Bool)) (f g : NoticeKind × Bool → Field), [Field.absent] ≠ p.flatMap fun x => [f x, g x]) := by
  refine ⟨by decide, by decide, by decide, by decide, by decide, ?_⟩
  intro p f g
  cases p <;> simp

/-- A request taken in time finds its operation named, whenever it is performed (R181). -/
theorem test_arm_lapse_after_the_request_is_taken : after (exec .armLapse
      { asked running .CLRL [] with clp := { (asked running .CLRL []).clp with arm := some (.clrl, 5) } }) (fun t => t.clp.arm) =
      some (some (.clrl, 5)) ∧
    after (exec .armLapse { running with clp := { running.clp with arm := some (.clrl, 5) } }) (fun t => t.clp.arm) =
      some none := by decide +kernel

/-- The tracker with one field changed. -/
def crank (s : State) (f : Ckt → Ckt) : State := { s with ckt := f s.ckt }

theorem test_meets_NoiseIsDiscardedAndSeekingBegins : standby.inRun = false ∧ (turning .seeking).inRun = true ∧
    engine.wheel = some ⟨24, 2, 20, 240, 200⟩ ∧ (24 : Nat) ≠ 0 ∧ (turning .seeking).ckt.lastEdge = some 0 ∧
    (BitVec.ofNat 32 276 - (0 : Word32)).toNat < 6666 / 24 ∧
    4 * (BitVec.ofNat 32 277 - (0 : Word32)).toNat < (1109 : Word32).toNat ∧
    (turning .seeking).ckt.noiseTally ≠ 3 ∧
    (crank (turning .seeking) fun k => { k with noiseTally := 3 }).ckt.noiseTally = 3 ∧
    running.ckt.state = .stopped ∧ running.ckt.lastEdge = none := by decide +kernel

theorem test_meets_SeekingCountsTeethBetweenGaps : (turning .seeking).ckt.state = .seeking ∧
    (turning .seeking).ckt.lastEdge = some 0 ∧ 6666 / 24 ≤ (BitVec.ofNat 32 277 : Word32).toNat ∧
    (500 : Word32).toNat ≤ 4 * (BitVec.ofNat 32 277 : Word32).toNat ∧
    ((turning .seeking).ckt.lastInterval.any fun b => decide (20 * b.toNat ≤ 8 * (1249 : Word32).toNat)) = false ∧
    ((turning .seeking).ckt.lastInterval.any fun b => decide (20 * b.toNat ≤ 8 * (1250 : Word32).toNat)) = true ∧
    (turning .seeking).ckt.tooth ≠ some (Wheel.teeth ⟨24, 2, 20, 240, 200⟩) ∧
    (crank (turning .seeking) fun k => { k with tooth := some 22 }).ckt.tooth =
      some (Wheel.teeth ⟨24, 2, 20, 240, 200⟩) ∧
    (turning .seeking).ckt.lastGap = some 0 ∧ (1250 : Word32) ≠ 0 := by decide +kernel

theorem test_meets_WrongAndRightCounts : (turning .crankLocked).inRun = true ∧
    (turning .crankLocked).ckt.classify ⟨24, 2, 20, 240, 200⟩ (BitVec.ofNat 32 1250) = .accepted (some 1250) ∧
    (turning .cycleLocked).ckt.classify ⟨24, 2, 20, 240, 200⟩ (BitVec.ofNat 32 500) = .accepted (some 500) ∧
    (turning .crankLocked).ckt.state = .crankLocked ∧ (turning .cycleLocked).ckt.state = .cycleLocked ∧
    (turning .crankLocked).ckt.tooth ≠ some 22 ∧
    (crank (turning .cycleLocked) fun k => { k with tooth := some 22 }).ckt.tooth = some 22 ∧
    (turning .cycleLocked).ckt.clock = some ⟨⟨0, 6960, 240, 500⟩, none, 229⟩ := by decide +kernel

theorem test_meets_StallStopsTheTracker : (turning .cycleLocked).ckt.stall = some 400000 := rfl

/-- A reference report on its way as the tracker stalls or slips to SEEKING is ignored (R29). -/
theorem test_slip_taken_before_the_report :
    after (exec .stallTimerExpiry (on (turning .crankLocked) (.referenceReport true false)))
      (fun t => (t.ckt.state, t.handovers.length)) = some (.stopped, 1) ∧
    after (exec (.crkEdge 1250 0) (on (turning .crankLocked) (.referenceReport true false)))
      (fun t => (t.ckt.state, t.handovers.length)) = some (.seeking, 1) := by decide +kernel

/-- The clock at a revolution angle of the report, in either half, with a candidate. -/
def reporting (st : CrankState) (angle : Nat) (cand : Option Bool) (f : Ckt → Ckt := id) : State :=
  crank (turning st) fun k => f { k with clock := some ⟨⟨0, angle, 240, 500⟩, none, 200⟩, halfCandidate := cand }

theorem test_meets_ReportsLockTheCycleOrSlip :
    (∀ lap, (on (reporting .crankLocked 960 none) (.referenceReport false lap)).offers (.referenceReport false lap)
      (reporting .crankLocked 960 none)) ∧
    (∀ lap, (on (reporting .crankLocked 960 (some true)) (.referenceReport true lap)).offers (.referenceReport true lap)
      (reporting .crankLocked 960 (some true))) ∧
    (reporting .crankLocked 960 none).ckt.state = .crankLocked ∧
    engine.reference = some (.IN1, ⟨.adv, 800, 160, true⟩, ⟨1000, .rise⟩) ∧
    decide (5760 ≤ CamItem.windowEnd ⟨.adv, 800, 160, true⟩ 1000) = false ∧
    (reporting .crankLocked 960 none).ckt.halfCandidate ≠ some true ∧
    (reporting .crankLocked 960 (some true)).ckt.halfCandidate = some (!false) ∧
    (reporting .crankLocked 960 (some true)).ckt.clock = some ⟨⟨0, 960, 240, 500⟩, none, 200⟩ ∧
    (∀ lap, (on (reporting .cycleLocked 6720 none) (.referenceReport true lap)).offers (.referenceReport true lap)
      (reporting .cycleLocked 6720 none)) ∧
    decide (5760 ≤ (6720 + 200) % 11520) = true ∧ decide (5760 ≤ (960 + 200) % 11520) = false ∧
    (let k := (reporting .cycleLocked 960 none fun k => { k with awaySeen := true, wrongHalf := 1 }).ckt;
      k.state = .cycleLocked ∧ 2 ≤ (if k.awaySeen && !false then k.wrongHalf + 1 else 0) ∧
        (if k.awaySeen && !true then k.wrongHalf + 1 else 0) < 2) :=
  ⟨fun _ => on_offers _ _ rfl, fun _ => on_offers _ _ rfl, by decide, by decide +kernel, by decide, by decide, by decide,
    by decide, fun _ => on_offers _ _ rfl, by decide, by decide, by decide⟩

/-- A home report sent before the clock went past 5,760 and taken after it counts in the half in which it was sent. -/
theorem test_report_taken_in_the_other_half : after (exec .referenceReport (on
      (reporting .cycleLocked 5600 none fun k => { k with lap := true, awaySeen := true, wrongHalf := 1 })
      (.referenceReport false false))) (fun t => t.ckt.state) = some .crankLocked ∧
    after (exec .referenceReport (on
      (reporting .cycleLocked 5600 none fun k => { k with lap := true, awaySeen := true, wrongHalf := 1 })
      (.referenceReport false true))) (fun t => (t.ckt.state, t.ckt.awaySeen)) = some (.cycleLocked, false) := by
  decide +kernel

/-- The clock `n` au past an anchor, with the list built. -/
def clocked (st : CrankState) (angle n : Nat) : State :=
  { turning st with
    ckt := { (turning st).ckt with clock := some ⟨⟨0, angle, 240, 500⟩, none, n⟩ }
    asc := ⟨[⟨0, .cycleStart, true⟩, ⟨1160, .edgeClose .IN1 1, false⟩, ⟨9120, .liftDecide .L1, false⟩], engine.plan⟩ }

theorem test_meets_EntriesFireAndReferencesAreReported : running.ckt.clock = none ∧
    (clocked .cycleLocked 6960 0).ckt.clock = some ⟨⟨0, 6960, 240, 500⟩, none, 0⟩ ∧ min 300 (240 - 1 - 239) = 0 ∧
    min 300 (240 - 1 - 0) ≠ 0 ∧ (clocked .cycleLocked 6960 0).ckt.state = .cycleLocked ∧
    (clocked .cycleLocked 7280 0).reportDue 7280 239 = none ∧ 7280 + 239 < 11520 ∧
    (clocked .crankLocked 960 199).ckt.state = .crankLocked ∧ 199 + 1 < 240 ∧
    engine.reportAngle = some 1160 ∧ 1160 < 5760 ∧ 1160 = ((960 + 199) % 5760 + 1) % 5760 ∧
    1160 ≠ ((960 + 198) % 5760 + 1) % 5760 ∧ 0 < (Anchor.mk 0 960 240 500).span ∧
    (Anchor.mk 0 960 240 500).reachTime 229 = 478 ∧ (Anchor.mk 0 960 240 500).reachTime 240 = 500 ∧
    200 * 500 ≤ 417 * 240 := by decide +kernel

/-- The angle of the report at each end of a reach of 239 au, inside it and outside it. -/
theorem test_meets_the_report_in_a_reach :
    (let c (v d : Nat) : Bool := decide (1 ≤ d ∧ d ≤ 239 ∧ d ≤ 5760 ∧ engine.reportAngle = some ((v + d) % 5760));
      c 960 200 ∧ c 1159 1 ∧ c 921 239 ∧ c 6720 200 ∧ (List.range 300).all (fun d => !c 1160 d) ∧
        (List.range 300).all fun d => !c 920 d) := by decide +kernel

/-- The clock before the end of the reference window, one wrong half short of the end of the lock. -/
def slipping (angle : Nat) : State :=
  { clocked .cycleLocked angle 0 with ckt := { (clocked .cycleLocked angle 0).ckt with awaySeen := true, wrongHalf := 1 } }

theorem test_meets_passesTo :
    (clocked .cycleLocked 7280 0).reportDue 7280 239 = none ∧ (clocked .cycleLocked 960 0).reportDue 960 239 = some 200 ∧
    (clocked .cycleLocked 6720 0).reportDue 6720 239 = some 200 ∧
    (clocked .cycleLocked 11280 0).asc.entries ≠ [] ∧ 11520 ≤ 11519 + 1 ∧
    (let s := slipping 960;
      s.ckt.state = .cycleLocked ∧ s.ckt.awaySeen = true ∧ s.ceu.refSeen = false ∧ 1 ≤ s.ckt.wrongHalf ∧
        s.tbm.inForce.homeHalf = some (decide (5760 ≤ (960 + 200) % 11520)) ∧ s.handovers = []) := by decide +kernel

/-- A window end before the report's angle is reached before it, and fires whatever `hold` is (R47, R54). -/
theorem test_hold_leaves_earlier_angles : after (exec (.angleClockReach 239 5)
      { slipping 960 with asc := ⟨[⟨1100, .edgeClose .EX1 1, false⟩, ⟨1160, .edgeClose .IN1 1, false⟩], engine.plan⟩ })
      (fun t => (t.ckt.state, t.handovers.take 2)) =
    some (.crankLocked, [.ceuEdgeClose .EX1 1 1100 7, .report .ckt .syncSlip .event]) := by decide +kernel

/-- Where the report in the stretch ends the lock, the last entry due may be left; elsewhere the operand says nothing. -/
theorem test_hold_only_at_the_slip :
    after (exec (.angleClockReach 239 1) (slipping 960)) (fun t => (t.ckt.state, t.handovers.head?)) =
      some (.crankLocked, some (.report .ckt .syncSlip .event)) ∧
    after (exec (.angleClockReach 239 1) (clocked .cycleLocked 960 0)) (fun t => (t.ckt.state, t.handovers)) =
      some (.cycleLocked, [.referenceReport false false, .ceuEdgeClose .IN1 1 1160 7]) := by decide +kernel

theorem test_cycle_start_at_a_tooth : after (exec (.crkEdge 500 0) (clocked .cycleLocked 11280 0))
    (fun t => (t.ckt.cycles, t.asc.entries.length, t.handovers)) =
    some (8, 17, [.ceuEdgeClose .IN1 1 1160 7, .liftEntry (.liftDecide .L1) 9120 7, .tgaCycleStart 0 8,
      .trbCycleStart 0 8, .ceuCycleStart 0 8]) := by decide +kernel

theorem test_meets_TheScheduleFollowsLockAndPhase :
    (on (clocked .cycleLocked 960 200) (.ascLock true)).offers (.ascLock true) (clocked .cycleLocked 960 200) ∧
    (on running (.ascLock false)).offers (.ascLock false) running ∧
    (clocked .cycleLocked 960 200).clockValue = some 1160 ∧
    (PlanEntry.mk 0 .cycleStart none).moves = none ∧
    (clocked .stopped 960 200).clockValue.isSome ∧
    (on running (.ascLock true)).offers (.ascLock true) running ∧ running.clockValue = none ∧
    (engine.unitPlan .L1).map (fun p => p.moves) = [none, some (.adv, 800), some (.adv, 800)] ∧
    (let r (v : Bool) (x : Int) : CeuChan := { CeuChan.reset with valid := v, phase := x };
      (r false 5).valid = false ∧ (r true (-1)).phase < 0 ∧ 0 ≤ (r true 0).phase ∧ (r true 800).phase ≤ 800 ∧
        (800 : Int) < (r true 801).phase) :=
  ⟨on_offers _ _ rfl, running_offers _, by decide +kernel, by decide, by decide +kernel, running_offers _,
    by decide +kernel⟩

/-- The engine with its LIFT_CLOSE and an EDGE_CLOSE on their way, or a LIFT_DECIDE and what it waits for (R43; log 2). -/
def waiting (l : List Handover) : State := { turning .cycleLocked with handovers := l }

theorem test_meets_entries_that_wait :
    (let pre : List Handover := [.liftEntry (.liftClose .L1) 1160 7];
      (waiting (pre ++ .ceuEdgeClose .IN1 1 1160 7 :: [])).handovers = pre ++ .ceuEdgeClose .IN1 1 1160 7 :: [] ∧
      (∀ x ∈ pre, (∀ c' k' a' n, x ≠ .ceuEdgeClose c' k' a' n) ∧ ∀ a' n, x ≠ .ceuCycleStart a' n) ∧
      .liftEntry (.liftClose .L1) 1160 7 ∈ (waiting (pre ++ .ceuEdgeClose .IN1 1 1160 7 :: [])).handovers) ∧
    (let pre : List Handover := [.ceuEdgeClose .IN1 1 1160 7, .phcMissing .IN1 1 7];
      (∀ x ∈ pre, ∀ k' a' n, x ≠ .liftEntry k' a' n) ∧ .phcMissing (intake .L1) 1 7 ∈ pre ∧
        (∃ e, .ceuEdgeClose (intake .L1) e 1160 7 ∈ pre)) ∧
    running.tbm.inForce.cam.get (intake .L1) = some ⟨.adv, 800, 160, true⟩ ∧
    (running.tbm.inForce.edges.get (intake .L1))[0]? = some ⟨1000, .rise⟩ ∧ 1160 = (1000 + 160) % 11520 := by
  refine ⟨⟨rfl, ?_, by simp [waiting]⟩, ⟨?_, by simp [intake], ⟨1, by simp [intake]⟩⟩, by decide, by decide, by decide⟩
  · intro x hx
    simp only [List.mem_singleton] at hx
    subst hx
    exact ⟨nofun, nofun⟩
  · intro x hx
    simp only [List.mem_cons, List.not_mem_nil, or_false] at hx
    rcases hx with h | h <;> subst h <;> exact nofun

/-- An EDGE_CLOSE waits for the LIFT_CLOSE of its angle and cycle only; a LIFT_DECIDE for its intake channel's EDGE_CLOSE
and measurement missing there only (R43). -/
theorem test_entries_wait_at_their_angle :
    (let left (s : State) (c : Instr) : Option (List Handover) := after (exec c s) fun t => t.handovers;
      left (waiting [.liftEntry (.liftClose .L1) 1160 7, .ceuEdgeClose .IN1 1 1160 7]) .ceuEdgeClose =
        some [.liftEntry (.liftClose .L1) 1160 7, .ceuEdgeClose .IN1 1 1160 7] ∧
      left (waiting [.liftEntry (.liftClose .L1) 1160 6, .ceuEdgeClose .IN1 1 1160 7]) .ceuEdgeClose =
        some [.liftEntry (.liftClose .L1) 1160 6] ∧
      left (waiting [.phcMissing .IN1 1 7, .liftEntry (.liftDecide .L1) 1160 7]) (.lfsLiftDecide .L1) =
        some [.phcMissing .IN1 1 7, .liftEntry (.liftDecide .L1) 1160 7] ∧
      left (waiting [.phcMissing .IN1 2 7, .liftEntry (.liftDecide .L1) 1160 7]) (.lfsLiftDecide .L1) =
        some [.phcMissing .IN1 2 7] ∧
      left (waiting [.ceuEdgeClose .IN2 1 1160 7, .liftEntry (.liftDecide .L1) 1160 7]) (.lfsLiftDecide .L1) ≠
        some [.ceuEdgeClose .IN2 1 1160 7, .liftEntry (.liftDecide .L1) 1160 7]) := by decide +kernel

/-- Lock gained taken with the clock absent: every entry of the list is marked fired (log 43). -/
theorem test_lock_gained_without_a_clock : after (exec .ascLockGained (on running (.ascLock true)))
    (fun t => (t.asc.entries.length, t.asc.entries.all Entry.fired)) = some (17, true) := by decide +kernel

/-- Entries at one angle: by kind first, inside one kind by channel, then edge, or by unit (R43). -/
theorem test_order_at_one_angle :
    ((sortEntries [⟨5, .liftOpen .L1, false⟩, ⟨5, .edgeClose .IN2 1, false⟩, ⟨5, .edgeClose .IN1 2, false⟩,
        ⟨5, .liftClose .L2, false⟩, ⟨5, .edgeClose .IN1 1, false⟩, ⟨4, .liftOpen .L2, false⟩, ⟨5, .liftClose .L1, false⟩]).map
      fun e => e.kind) =
      [.liftOpen .L2, .liftClose .L1, .liftClose .L2, .edgeClose .IN1 1, .edgeClose .IN1 2, .edgeClose .IN2 1,
        .liftOpen .L1] := by decide +kernel

/-- The angle of a stamp: from the latest anchor, at most one au short of the next tooth; from the one before; older. -/
def anchored (previous : Option Anchor) : State :=
  { clocked .cycleLocked 960 0 with
    now := 1400, ckt := { (clocked .cycleLocked 960 0).ckt with clock := some ⟨⟨1000, 960, 240, 500⟩, previous, 0⟩ } }

theorem test_angle_of_a_stamp :
    ((anchored (some ⟨500, 720, 240, 500⟩)).angleAt 1250 = some 1080 ∧
      (anchored (some ⟨500, 720, 240, 500⟩)).angleAt 1000 = some 960 ∧
      (anchored (some ⟨500, 720, 240, 500⟩)).angleAt 999 = some 959 ∧
      (anchored (some ⟨500, 720, 240, 400⟩)).angleAt 999 = some 959 ∧
      (anchored (some ⟨500, 720, 240, 500⟩)).angleAt 500 = some 720 ∧
      (anchored (some ⟨500, 720, 240, 500⟩)).angleAt 499 = some 720 ∧
      (anchored none).angleAt 999 = some 960 ∧ running.angleAt 999 = none) := by decide +kernel

/-- The Cam Edge Unit matching, with channel 1's record given. -/
def matching (s : State) (r : CeuChan) : State :=
  { s with ceu := { s.ceu with matching := true, chans := s.ceu.chans.set .IN1 r } }

/-- Matching with the clock at 1060 of cycle 7, each window's latest occurrence ended with the EDGE_CLOSE of a cycle. -/
def ended (cycle : Word32) : State :=
  matching (clocked .cycleLocked 960 100) { CeuChan.reset with windows := List.replicate 6 ⟨false, false, some cycle⟩ }

theorem test_meets_CamEdgesAreMatchesOrStrays : (turning .stopped).chanOfInput .A = some .IN1 ∧
    State.chanOfInput standby .A = none ∧ running.ckt.clock = none ∧
    (let s := matching (clocked .cycleLocked 960 100) CeuChan.reset;
      s.inRun = true ∧ s.angleAt 0 = some 960 ∧ s.cycleAt 0 = some 7 ∧ s.ceu.matching = true ∧
        s.tbm.inForce.cam.get .IN1 = some ⟨.adv, 800, 160, true⟩ ∧
        windowOf ⟨.adv, 800, 160, true⟩ 960 1 (s.tbm.inForce.edges.get .IN1) = some (1, ⟨1000, .rise⟩) ∧
        windowOf ⟨.adv, 800, 160, true⟩ 40 1 (s.tbm.inForce.edges.get .IN1) = some (1, ⟨1000, .rise⟩) ∧
        windowOf ⟨.adv, 800, 160, true⟩ 1160 1 (s.tbm.inForce.edges.get .IN1) = some (1, ⟨1000, .rise⟩) ∧
        windowOf ⟨.adv, 800, 160, true⟩ 39 1 (s.tbm.inForce.edges.get .IN1) = none ∧
        windowOf ⟨.adv, 800, 160, true⟩ 1161 1 (s.tbm.inForce.edges.get .IN1) = none ∧
        s.clockValue = some 1060 ∧ ((s.ceu.chans.get .IN1).window 1).matched = false ∧
        ((s.ceu.chans.get .IN1).window 1).ended = none) ∧
    ((ended 7).ceu.chans.get .IN1).window 1 = ⟨false, false, some (if 960 ≤ CamItem.windowEnd ⟨.adv, 800, 160, true⟩ 1000
      then 7 else 7 + 1)⟩ ∧ (ended 7).cycleAt 0 = some 7 ∧
    (turning .cycleLocked).ceu.matching = false ∧ 500 < ({ running.ceu with stamps := .all 501 }).stamps.get .A ∧
    ({ running.ceu with stamps := .all 501 }).stamps.get .A ≤ 501 := by decide +kernel

/-- What an edge on input A at this moment adds to the channel's matches and strays. -/
def tallies (s : State) (age : Nat) : Option (Nat × Nat) :=
  after (exec (.camEdge 0 age .A .rise) s) fun t => ((t.ceu.chans.get .IN1).cycMatches, (t.ceu.chans.get .IN1).cycStrays)

/-- An edge is late once the EDGE_CLOSE of its own occurrence has been taken, and by no other: not by that of the cycle
before, and not by the clock's having passed the window's end while the EDGE_CLOSE was never handed (R60; log 12). -/
theorem test_edge_is_late_by_the_close_taken : tallies (ended 7) 0 = some (0, 1) ∧ tallies (ended 6) 0 = some (1, 0) ∧
    (let s := matching { clocked .cycleLocked 960 210 with now := 440, asc := ⟨[], engine.plan⟩ } CeuChan.reset;
      s.angleAt 0 = some 960 ∧ s.clockValue = some 1170 ∧ s.handovers = [] ∧ tallies s 440 = some (1, 0)) := by decide +kernel

/-- An edge at 1008 with the clock still at the tooth at 960: it lies in this cycle's occurrence, so the EDGE_CLOSE of the
cycle before does not make it late; this cycle's own would (R38, R60; log 12). -/
theorem test_edge_ahead_of_the_clock :
    (let at960 (cycle : Word32) : State :=
        matching (clocked .cycleLocked 960 0) { CeuChan.reset with windows := List.replicate 6 ⟨false, false, some cycle⟩ }
      let counts (cycle : Word32) := after (exec (.camEdge 100 0 .A .rise) (at960 cycle)) fun t =>
        ((t.ceu.chans.get .IN1).cycMatches, (t.ceu.chans.get .IN1).cycStrays)
      (at960 6).clockValue = some 960 ∧ ((at960 6).pass 100).angleAt 100 = some 1008 ∧
        counts 6 = some (1, 0) ∧ counts 7 = some (0, 1)) := by decide +kernel

/-- The cycle of an edge, the count being 7: after the anchor at 11400 (240 au in 500 units), with the clock before cycle
angle 0 and past it; before an anchor at 120 or at 0, where the count has gone up since; and where a window straddles angle
0 (R38, R60). -/
theorem test_cycle_of_an_edge :
    (let s (angle reached : Nat) (previous : Option Anchor) : State :=
        { clocked .cycleLocked 0 0 with
          now := 1400, ckt := { (clocked .cycleLocked 0 0).ckt with clock := some ⟨⟨1000, angle, 240, 500⟩, previous, reached⟩ } };
      (s 11400 100 none).cycleAt 1100 = some 7 ∧ (s 11400 100 none).cycleAt 1300 = some 8 ∧
      (s 11400 130 none).cycleAt 1100 = some 6 ∧ (s 11400 130 none).cycleAt 1300 = some 7 ∧
      (s 120 0 (some ⟨500, 11400, 240, 500⟩)).cycleAt 600 = some 6 ∧
      (s 120 0 (some ⟨500, 11400, 240, 500⟩)).cycleAt 800 = some 7 ∧
      (s 0 0 (some ⟨500, 11280, 240, 500⟩)).cycleAt 900 = some 6 ∧
      (s 0 0 (some ⟨500, 11280, 240, 500⟩)).cycleAt 400 = some 6 ∧
      (s 0 0 (some ⟨500, 11280, 240, 500⟩)).cycleAt 1000 = some 7) ∧
    closingCycle 7 11400 11500 = 7 ∧ closingCycle 7 11400 40 = 8 ∧ closingCycle 7 30 40 = 7 := by decide +kernel

/-- At the end of the reference window an edge counts until the report has been sent, as it does after CRANK_LOCKED is
entered there (R70, R71; log 12). -/
theorem test_reference_edge_at_the_window_end :
    (let s : State := clocked .crankLocked 960 200
      let seen (sent : Bool) := after (exec (.camEdge 0 0 .A .rise)
        { s with now := 417, ceu := { s.ceu with reportSent := sent } }) fun t => t.ceu.refSeen;
      s.clockValue = some 1160 ∧ { s with now := 417 }.angleAt 417 = some 1160 ∧ seen false = some true ∧
        seen true = some false) := by decide +kernel

/-- An edge captured before the last one taken on its input is none still to be taken (R59). -/
theorem test_older_edge_is_no_occasion : after (exec (.camEdge 600 100 .A .rise)
      { turning .cycleLocked with ceu := { running.ceu with stamps := .all 501 } }) (fun t => (t.now, t.ceu.stamps.get .A)) =
      some (600, 501) ∧
    after (exec (.camEdge 600 99 .A .rise) { turning .cycleLocked with ceu := { running.ceu with stamps := .all 501 } })
      (fun t => (t.now, t.ceu.stamps.get .A)) = some (600, 501) := by decide +kernel

/-- Lock gained taken after the schedule has fired entries: the EDGE_CLOSE in flight is dropped, the CYCLE_START stays
(R66, R67; log 45). -/
theorem test_lock_gained_drops_edge_closes_in_flight : after (exec .ceuLockGained { clocked .cycleLocked 960 100 with
      handovers := [.ceuLock true, .ceuEdgeClose .IN1 1 1160 7, .ceuCycleStart 0 7] })
      (fun t => (t.ceu.matching, t.handovers)) =
    some (true, [.ceuCycleStart 0 7]) := by decide +kernel

/-- Lock lost taken before entries handed out before it: they are dropped, those handed out after it stay (log 35). -/
theorem test_lock_lost_drops_entries_in_flight : after (exec .ceuLockLost { matching running CeuChan.reset with
      handovers := [.ceuEdgeClose .IN1 1 1160 7, .trbLockLost, .ceuCycleStart 0 7, .ceuLock false, .ceuLock true,
        .ceuEdgeClose .IN1 2 5000 8] }) (fun t => (t.ceu.matching, t.handovers)) =
    some (false, [.trbLockLost, .ceuLock true, .ceuEdgeClose .IN1 2 5000 8]) := by decide +kernel

theorem test_meets_EdgeWindowsCloseAndLockClearsMatching :
    (on running (.ceuEdgeClose .IN1 1 1160 7)).offers (.ceuEdgeClose .IN1 1 1160 7) running ∧ running.ceu.matching = false ∧
    (on (matching running CeuChan.reset) (.ceuEdgeClose .IN1 3 8840 7)).offers (.ceuEdgeClose .IN1 3 8840 7)
      (matching running CeuChan.reset) ∧ (matching running CeuChan.reset).ceu.matching = true ∧
    (on (clocked .cycleLocked 960 100) (.ceuLock true)).offers (.ceuLock true) (clocked .cycleLocked 960 100) ∧
    running.chanBound .IN1 = true ∧ standby.chanBound .IN1 = false ∧
    engine.cam.get .IN1 = some ⟨.adv, 800, 160, true⟩ ∧ (engine.edges.get .IN1)[2]? = some ⟨8680, .rise⟩ ∧
    (clocked .cycleLocked 960 100).clockValue = some 1060 ∧ running.clockValue = none ∧
    (on running (.ceuLock false)).handovers = [] ++ .ceuLock false :: [] ∧ (∀ b, Handover.ceuLock b ∉ []) :=
  ⟨running_offers _, rfl, on_offers _ _ rfl, rfl, on_offers _ _ rfl, by decide, by decide, by decide, by decide,
    by decide, by decide, rfl, by decide⟩

/-- At lock gained the occurrences that the clock has passed in this cycle are ended, and of the others those of the cycle
before (R66; log 12): the clock stands at the first window's end. -/
theorem test_lock_gained_ends_what_is_past : after (exec .ceuLockGained (on (clocked .cycleLocked 960 200) (.ceuLock true)))
    (fun t => (t.ceu.chans.get .IN1).windows) = some ([⟨false, false, some 7⟩, ⟨false, false, some 6⟩,
      ⟨false, false, some 6⟩] ++ List.replicate 3 ⟨false, false, none⟩) := by decide +kernel

theorem test_meets_CycleStartJudgesTheChannels :
    (on running (.ceuCycleStart 0 1)).offers (.ceuCycleStart 0 1) running ∧ running.ceu.matching = false ∧
    (on (matching running CeuChan.reset) (.ceuCycleStart 0 1)).offers (.ceuCycleStart 0 1)
      (matching running CeuChan.reset) ∧
    (matching running CeuChan.reset).ceu.matching = true ∧
    (matching running CeuChan.reset).chanBound .IN1 = true ∧ (matching standby CeuChan.reset).chanBound .IN1 = false ∧
    (!(matching running CeuChan.reset).ceu.partialCycle) = true ∧
    (!{ running.ceu with partialCycle := true }.partialCycle) = false :=
  ⟨running_offers _, rfl, on_offers _ _ rfl, rfl, by decide, by decide, rfl, rfl⟩

/-- Every release condition holds but that the channel's presented target is given (05). -/
def releasable (st : ChanState) (presented : Nat) : State :=
  { turning .cycleLocked with
    phc := { running.phc with chans := running.phc.chans.set .IN1 { ChanRec.reset with
      state := st, presented := presented, holds := ⟨false, true, false, false⟩ } }
    tga := ⟨some ⟨500, 80, 150, .all none, none⟩, .fresh, none, false, .all ⟨.map, 400, some 400, .none⟩⟩ }

theorem test_meets_ChannelEntriesSetTheRecord : running.fmg.chanResponse.get .IN1 ≠ .hold ∧
    { running.fmg with chanResponse := .all .hold }.chanResponse.get .IN1 = .hold ∧
    ((chan running .driveTest).phc.chans.get .IN1).state = .driveTest ∧
    (running.phc.chans.get .IN1).state ≠ .driveTest ∧ (HoldCause.claim ≠ .supply ∧ HoldCause.claim ≠ .measure) := by
  decide

theorem test_meets_ReleaseConditionsDecideLeavingPark :
    (let s := releasable .parked 17;
      (s.phc.chans.get .IN1).state = .parked ∧ s.smc.mode = .run ∧ s.ckt.state = .cycleLocked ∧
        (s.tbm.tuning.chan.get .IN1).releaseRpm ≤ s.ckt.rpm ∧ (s.tbm.tuning.chan.get .IN1).releaseKpa = 150 ∧
        (s.tga.chans.get .IN1).source ≠ .park ∧
        (s.tbm.tuning.chan.get .IN1).parkTol < (s.phc.chans.get .IN1).presented ∧
        s.fmg.chanResponse.get .IN1 ≠ .park ∧ s.smc.supplyState ≠ .belowDrive ∧
        (s.lfs.units.get .L1).claim = false) ∧
    ¬ ((releasable .parked 16).tbm.tuning.chan.get .IN1).parkTol <
      ((releasable .parked 16).phc.chans.get .IN1).presented ∧
    ((releasable .releasing 17).phc.chans.get .IN1).state = .releasing ∧
    { running.fmg with chanResponse := .all .park }.chanResponse.get .IN1 = .park ∧
    (running.tga.chans.get .IN1).source = .park ∧ running.ckt.state ≠ .cycleLocked ∧
    { running.smc with supplyState := .belowDrive }.supplyState = .belowDrive ∧
    ({ running.lfs with units := .all ⟨.raiseWait, 0, true, none, none, 0, false⟩ }.units.get .L1).claim = true ∧
    ((releasable .tracking 17).phc.chans.get .IN1).state = .tracking := by decide

theorem test_meets_MatchesAndControlSteps :
    (∀ st, (on (releasable st 17) (.phcMatch .IN1 1 5 0 9)).offers (.phcMatch .IN1 1 5 0 9) (releasable st 17)) ∧
    (∀ st, ((releasable st 17).phc.chans.get .IN1).state = st) ∧
    { HoldCauses.empty with measure := true }.put .measure false = .empty ∧
    ({ ((releasable .holding 17).phc.chans.get .IN1).holds with measure := false } : HoldCauses) ≠ .empty ∧
    ((releasable .parking 17).phc.chans.get .IN1).timer = none ∧
    { ChanRec.reset with timer := some (.park, 5) }.timer ≠ none ∧
    ((running.ceu.chans.get .IN1).phase ≤ ((running.tbm.tuning.chan.get .IN1).parkTol : Int)) ∧
    ¬ (17 : Int) ≤ ((running.tbm.tuning.chan.get .IN1).parkTol : Int) ∧
    ((releasable .parking 17).phc.chans.get .IN1).parkCount = 0 ∧ { ChanRec.reset with parkCount := 1 }.parkCount ≠ 0 :=
  ⟨fun _ => on_offers _ _ rfl, fun _ => rfl, by decide⟩

theorem test_meets_HoldCausesComeAndGo : ∀ st : ChanState,
    (let t := releasable st 17;
      (on t (.phcMissing .IN1 1 7)).offers (.phcMissing .IN1 1 7) t ∧
      (on t (.phcClaim .IN1 true)).offers (.phcClaim .IN1 true) t ∧
      (on t (.phcClaim .IN1 false)).offers (.phcClaim .IN1 false) t ∧
      (on t (.phcSupply .IN1 .belowDrive)).offers (.phcSupply .IN1 .belowDrive) t ∧
      (on t (.phcSupply .IN1 .normal)).offers (.phcSupply .IN1 .normal) t ∧
      (on t (.phcResponse .IN1 .hold)).offers (.phcResponse .IN1 .hold) t ∧
      (on t (.phcResponse .IN1 .none)).offers (.phcResponse .IN1 .none) t ∧ SupplyState.normal ≠ .belowDrive ∧
      (on t (.phcMatch .IN1 1 17 0 7)).offers (.phcMatch .IN1 1 17 0 7) t ∧ (t.phc.chans.get .IN1).state = st) :=
  fun st => ⟨on_offers (releasable st 17) _ rfl, on_offers (releasable st 17) _ rfl, on_offers (releasable st 17) _ rfl,
    on_offers (releasable st 17) _ rfl, on_offers (releasable st 17) _ rfl, on_offers (releasable st 17) _ rfl,
    on_offers (releasable st 17) _ rfl, by decide,
    on_offers (releasable st 17) _ rfl, rfl⟩

theorem test_meets_LossesAndTimersMoveTheChannel :
    (on running (.phcLockLost .IN1)).offers (.phcLockLost .IN1) running ∧
    (on running (.phcResponse .IN1 .park)).offers (.phcResponse .IN1 .park) running ∧
    (on running (.phcSource .IN1 .park)).offers (.phcSource .IN1 .park) running ∧
    (on running (.phcSource .IN1 .host)).offers (.phcSource .IN1 .host) running ∧ Source.host ≠ .park ∧
    (on running (.phcStart .IN1)).offers (.phcStart .IN1) running ∧
    (∀ k, { ChanRec.reset with state := .holding, timer := some (k, 5) }.timer = some (k, 5)) ∧
    { ChanRec.reset with state := .holding, timer := some (.holdLimit, 5) }.state = .holding ∧
    (let s := matching (releasable .parking 17) { CeuChan.reset with valid := true, phase := 17 };
      s.ckt.state = .cycleLocked ∧ (s.ceu.chans.get .IN1).valid = true ∧
        ((s.tbm.tuning.chan.get .IN1).parkTol : Int) < (s.ceu.chans.get .IN1).phase) ∧
    ¬ (running.ceu.chans.get .IN1).valid = true :=
  ⟨running_offers _, running_offers _, running_offers _, running_offers _, by decide, running_offers _, fun _ => rfl,
    rfl, by decide, by decide⟩

theorem test_meets_DriverFaultsAndOilPressure :
    (on running (.phcDriverFault .IN1 true)).offers (.phcDriverFault .IN1 true) running ∧
    (on running (.phcDriverFault .IN1 false)).offers (.phcDriverFault .IN1 false) running ∧
    (on running (.phcClass1 .IN1)).offers (.phcClass1 .IN1) running ∧
    (on running (.phcDriverClear .IN1)).offers (.phcDriverClear .IN1) running ∧
    (on running (.phcOil 90)).offers (.phcOil 90) running ∧ (on running .phcOpptChanged).offers .phcOpptChanged running ∧
    (let low (s : State) (k : Nat) := allChans.filter fun ch => ((s.phc.chans.get ch).state == .tracking) &&
        decide (k < (s.tbm.tuning.chan.get ch).holdKpa);
      low (chan running .tracking) 89 = [.IN1] ∧ low (chan running .tracking) 90 = [] ∧ low running 89 = []) ∧
    (∀ ch, (running.tbm.tuning.chan.get ch).holdKpa ≤ 90) ∧ ¬ (running.tbm.tuning.chan.get .IN1).holdKpa ≤ 89 ∧
    (2 : Nat) < 3 :=
  ⟨running_offers _, running_offers _, running_offers _, running_offers _, running_offers _, running_offers _,
    by decide, by intro ch; cases ch <;> decide, by decide, by decide⟩

/-- RUN with one fault record LATCHED. -/
def latched (id : FaultId) : State :=
  { running with fmg := { running.fmg with
    table := (running.fmg.table.set id { FaultRec.clean with state := .latched, count := 1 }) } }

/-- A part with the arm record set. -/
def armed (s : State) (op : ArmOp) : State := { s with clp := { s.clp with arm := some (op, 9) } }

theorem test_meets_DriveTestsAndLockoutRelease :
    (∀ fields, (asked running .TEST fields).begins .TEST fields running) ∧
    (let ok (d x : Int) : Prop := 0 ≤ d ∧ d ≤ 1000 ∧ 10 ≤ x ∧ x ≤ 1000;
      ok 0 10 ∧ ok 1000 1000 ∧ ¬ ok 1001 10 ∧ ¬ ok 0 9 ∧ ¬ ok 0 1001 ∧ ¬ ok (-1) 10) ∧
    (asked standby .TEST [.word .CH, .num 1, .num 0, .num 10]).begins .TEST [.word .CH, .num 1, .num 0, .num 10] standby ∧
    standby.smc.mode ≠ .run ∧ running.smc.mode = .run ∧ running.chanBound .IN1 = true ∧
    ({ running with tbm := { running.tbm with inForce := .blank } } : State).chanBound .IN1 = false ∧
    running.ckt.state = .stopped ∧ (running.phc.chans.get .IN1).state = .parked ∧
    running.fmg.chanResponse.get .IN1 ≠ .park ∧ (turning .seeking).ckt.state ≠ .stopped ∧
    (∀ fields, (asked (armed running .clrl) .CLRL fields).begins .CLRL fields (armed running .clrl)) ∧
    (asked running .CLRL []).begins .CLRL [] running ∧ (armed standby .clrl).smc.mode ≠ .run ∧
    allChans.filter (fun ch => ((chan running .lockout).phc.chans.get ch).state == .lockout) = [.IN1] ∧
    running.chanDriver .IN1 = some .A ∧ (running.fault (.driverShort (.ocv .A))).held = false ∧
    ((latched (.driverOpen (.ocv .A))).fault (.driverOpen (.ocv .A))).held = true :=
  ⟨running_begins _, by decide, standby_begins _ _, by decide, by decide, by decide, by decide, by decide, by decide,
    by decide, by decide, fun _ => asked_begins (armed running .clrl) _ _ (by decide) rfl (Or.inr rfl),
    running_begins _ _, by decide, by decide, by decide, by decide, by decide⟩

/-- An OPPT within its ranges, at their ends. -/
def opptFields : List Field :=
  [.num 1000, .num (-40), .num 1000, .num 960, .absent, .num 0, .absent, .word .H]

/-- Where the arbiter is open to HOST and MAP. -/
def opened (targets : PerChan (Option Nat)) (m : Option Nat) : State :=
  { running with tga := ⟨some ⟨500, 80, 150, targets, none⟩, .fresh, some (200000, 200000), false,
    .all ⟨.park, 0, m, .none⟩⟩ }

theorem test_meets_TheArbiterChooses :
    (let s := opened (.all (some 801)) none;
      s.smc.mode = .run ∧ s.chanBound .IN1 = true ∧ (s.tga.chans.get .IN1).response ≠ .park ∧ s.tga.fresh = .fresh ∧
        (s.tga.record.bind fun o => o.targets.get .IN1) = some 801 ∧
        s.tbm.inForce.cam.get .IN1 = some ⟨.adv, 800, 160, true⟩) ∧
    ((opened (.all none) (some 5)).tga.chans.get .IN1).mapOutput = some 5 ∧
    ((opened (.all none) none).tga.record.bind fun o => o.targets.get .IN1) = none ∧
    (Source.host ≠ ((opened (.all none) none).tga.chans.get .IN1).source) ∧ running.tga.fresh ≠ .fresh ∧
    (asked running .OPPT [.absent]).begins .OPPT [.absent] running ∧ opptFormat [.absent] = false ∧
    (asked running .OPPT opptFields).begins .OPPT opptFields running ∧ opptFormat opptFields = true ∧
    (opptRecord? opptFields).isSome = true ∧ opptRecord? (.num 1001 :: opptFields.tail) = none ∧
    opptFormat (.num 1001 :: opptFields.tail) = true ∧ (opened (.all none) none).tga.stale = some (200000, 200000) ∧
    (turning .seeking).ckt.state ≠ .stopped ∧ running.ckt.state = .stopped ∧
    (on running (.tgaCycleStart 0 3)).offers (.tgaCycleStart 0 3) running ∧
    (on running (.tgaResponse .IN1 .park)).offers (.tgaResponse .IN1 .park) running ∧
    (running.tbm.maps.get .IN1).available = false ∧ { PhaseMap.blank with available := true }.available = true :=
  ⟨by decide, by decide, by decide, by decide, by decide, running_begins _ _, by decide, running_begins _ _, by decide,
    by decide, by decide, by decide, by decide, by decide, by decide, running_offers _, running_offers _, by decide,
    by decide⟩

/-- OPPT at the bounds of its fields and beyond them. -/
theorem test_oppt_bounds :
    (let point (load temp kpa : Int) (x : Field) : List Field :=
        [.num load, .num temp, .num kpa, x, .absent, .num 0, .num 960, .word .L];
      [point 0 (-40) 0 (.num 0), point 1000 150 1000 (.num 960), point 5 5 5 .absent].all
          (fun l => (opptRecord? l).isSome) = true ∧
        [point (-1) 0 0 .absent, point 1001 0 0 .absent, point 0 (-41) 0 .absent, point 0 151 0 .absent,
          point 0 0 (-1) .absent, point 0 0 1001 .absent, point 0 0 0 (.num (-1)), point 0 0 0 (.num 961)].all
          (fun l => opptFormat l && (opptRecord? l).isNone) = true ∧
        opptFormat (point 0 0 0 (.word .H)) = false ∧ opptFormat ((point 0 0 0 .absent).dropLast ++ [.num 1]) = false) := by
  decide +kernel

/-- A map with ascending breakpoints. -/
def climbing : MapData :=
  ⟨(List.range 16).map (· * 1000), (List.range 12).map (· * 50), List.replicate 16 (List.replicate 12 960),
    (List.range 8).map fun (n : Nat) => (n : Int) * 20 - 20, List.replicate 8 1000⟩

theorem test_meets_MapLookupInterpolatesExactly : climbing.rpm.length = 16 ∧ climbing.load.length = 12 ∧
    climbing.temps.length = 8 ∧ climbing.rpm.Pairwise (· < ·) ∧ climbing.load.Pairwise (· < ·) ∧
    climbing.temps.Pairwise (· < ·) ∧ climbing.rpm[14]? = some 14000 ∧ climbing.rpm[14 + 1]? = some 15000 ∧
    climbing.load[10]? = some 500 ∧ climbing.load[10 + 1]? = some 550 ∧ climbing.temps[6]? = some 100 ∧
    climbing.temps[6 + 1]? = some 120 ∧ climbing.rpm.head? = some 0 ∧ climbing.rpm.getLast? = some 15000 ∧
    climbing.load.head? = some 0 ∧ climbing.load.getLast? = some 550 ∧ climbing.temps.head? = some (-20) ∧
    climbing.temps.getLast? = some 120 ∧ climbing.lookup 17200 550 (-40) 800 = 800 ∧
    climbing.lookup 15000 550 120 960 = 960 := by decide +kernel

/-- OCVA's record with one field changed. -/
def ocvA (f : OcvRec → OcvRec) : State := running.updOcv .A f

/-- LSA's record with one field changed. -/
def lsA (f : LsRec → LsRec) : State := running.updLs .A f

theorem test_meets_OcvPeriodsRunAndAreJudged : (399 : Nat) < 400 ∧ 400 ≤ 400 ∧ (1 : Nat) < 2 ∧
    (running.vdr.ocv.get .A).periodStart = some 0 ∧ (running.vdr.ocv.get .A).enabled = true ∧
    (running.vdr.ocv.get .A).lineOn = false ∧
    ((ocvA fun r => { r with lineOn := true, active := 999 }).vdr.ocv.get .A).lineOn = true ∧
    ((ocvA fun r => { r with active := 999 }).vdr.ocv.get .A).active < 1000 ∧
    1000 ≤ ((ocvA fun r => { r with active := 1000 }).vdr.ocv.get .A).active ∧
    (standby.vdr.ocv.get .A).enabled = false ∧ (∃ d, .dutyWrite .A d true ∈ (on running (.dutyWrite .A 0 true)).handovers) ∧
    ¬ ∃ d, .dutyWrite .A d true ∈ running.handovers :=
  ⟨by decide, by decide, by decide, by decide, by decide, by decide, by decide, by decide, by decide, by decide,
    ⟨0, by decide⟩, fun ⟨_, h⟩ => nomatch h⟩

/-- No period starts ahead of an immediate write on its way (R85, R113; log 53). -/
theorem test_period_waits_for_an_immediate_write : ∀ at_ : Bool,
    after (exec (.ocvPeriodStart .A) (on (ocvA fun r => { r with pending := 500 }) (.dutyWrite .A 0 at_)))
      (fun t => ((t.vdr.ocv.get .A).active, t.now)) = some (if at_ then (0, 0) else (500, 8000)) := by decide +kernel

theorem test_meets_EnablesFollowModeAndState :
    (∀ s x, (on s (.enableEvaluation x)).handovers = [] ++ .enableEvaluation x :: []) ∧
    (∀ x, Handover.enableEvaluation x ∉ [.dutyWrite .A 500 false, .solenoid .A true]) ∧
    running.smc.mode = .run ∧ (running.vdr.ocv.get .A).binding = some .IN1 ∧
    (running.phc.chans.get .IN1).state ≠ .faulted ∧ (running.phc.chans.get .IN1).state ≠ .lockout ∧
    ((ocvA fun r => { r with enabled := false }).vdr.ocv.get .A).enabled = false ∧
    ((chan running .faulted).phc.chans.get .IN1).state = .faulted ∧
    ((chan running .faulted).vdr.ocv.get .A).enabled = true ∧ (running.vdr.ls.get .A).binding = some .L1 ∧
    (running.lfs.units.get .L1).state ≠ .stuck ∧ ((unit running .stuck).lfs.units.get .L1).state = .stuck ∧
    ((lsA fun r => { r with enabled := false }).vdr.ls.get .A).enabled = false :=
  ⟨fun _ _ => rfl, by simp, by decide⟩

/-- A channel back from FAULTED: the write of before and the one after, the news between them. -/
def cleared : State := { ocvA fun r => { r with enabled := false } with
  handovers := [.dutyWrite .A 500 false, .enableEvaluation (.ocv .A), .dutyWrite .A 700 false] }

/-- A DISABLED output's writes wait for the evaluation on its way, which discards those of before and lets the later one
be taken (R111, R114, R117; log 53). -/
theorem test_enable_discards_what_was_written_before : after (exec (.normalWrite .A) cleared) (fun t => decide (t = cleared)) = some true ∧
    after (exec (.vdrEnableEvaluation (.ocv .A) false) cleared) (fun t => ((t.vdr.ocv.get .A).enabled, t.handovers)) =
      some (true, [.dutyWrite .A 700 false]) ∧
    after (exec (.normalWrite .A) { cleared with
        vdr := { cleared.vdr with ocv := cleared.vdr.ocv.set .A { cleared.vdr.ocv.get .A with enabled := true } }
        handovers := [.dutyWrite .A 700 false] }) (fun t => ((t.vdr.ocv.get .A).pending, t.handovers)) =
      some (700, []) := by decide +kernel

theorem test_meets_WritesSolenoidsAndShorts :
    (on running (.dutyWrite .A 700 false)).offers (.dutyWrite .A 700 false) running ∧
    (on running (.dutyWrite .A 0 true)).offers (.dutyWrite .A 0 true) running ∧
    (on running (.solenoid .A true)).offers (.solenoid .A true) running ∧
    (on running (.solenoid .A false)).offers (.solenoid .A false) running ∧
    (∀ x, (on running (.vdrDriverClear x)).offers (.vdrDriverClear x) running) ∧
    (running.vdr.ocv.get .A).lineOn = false ∧ (running.vdr.ls.get .A).lineOn = false ∧
    ((ocvA fun r => { r with lineOn := true }).vdr.ocv.get .A).lineOn = true ∧
    ((lsA fun r => { r with lineOn := true }).vdr.ls.get .A).lineOn = true ∧
    (cleared.vdr.ocv.get .A).enabled = false ∧ .enableEvaluation (.ocv .A) ∈ cleared.handovers ∧
    ((lsA fun r => { r with enabled := false }).vdr.ls.get .A).enabled = false ∧
    .enableEvaluation (.ls .A) ∈ (on running (.enableEvaluation (.ls .A))).handovers :=
  ⟨running_offers _, running_offers _, running_offers _, running_offers _, fun _ => running_offers _, by decide⟩

/-- The Trace Buffer with waiting causes and slots given by their states. -/
def traces (n : Nat) (l : List SlotState) : State :=
  { running with trb := ⟨List.replicate n .request, l.map fun st => { TraceSlot.reset with
    state := st, chanSummary := some (.all ⟨.parked, 0, 0, 0⟩), unitSummary := some ⟨.low, .low⟩ }⟩ }

theorem test_meets_TracesOpenFillAndClose :
    (∀ c, (on (traces 3 [.free, .free, .free, .free]) (.trbPush c)).offers (.trbPush c)
      (traces 3 [.free, .free, .free, .free])) ∧
    (traces 3 [.free, .free, .free, .free]).trb.queue.length < 4 ∧
    4 ≤ (traces 4 [.free, .free, .free, .free]).trb.queue.length ∧ TraceCause.request ≠ .fault .traceMissed ∧
    (∀ x ∈ (traces 1 [.ready, .free, .free, .free]).trb.slots, x.state ≠ .filling) ∧
    ((traces 1 [.ready, .filling, .free, .free]).trb.slots.map fun x => x.state) = [.ready] ++ .filling :: [.free, .free] ∧
    (on running .trbLockLost).handovers = [] ++ .trbLockLost :: [] ∧ Handover.trbLockLost ∉ [] ∧
    (on (traces 1 [.ready, .filling, .free, .free]) (.trbCycleStart 0 7)).offers (.trbCycleStart 0 7)
      (traces 1 [.ready, .filling, .free, .free]) ∧
    ((traces 1 [.ready, .filling, .free, .free]).closeSlot false).trb.queue = .request :: [] ∧
    (((traces 1 [.ready, .filling, .free, .free]).closeSlot false).trb.slots.map fun x => x.state) =
      [.ready, .ready] ++ .free :: [.free] ∧
    (∀ x ∈ (traces 1 [.ready, .ready, .ready, .ready]).trb.slots, x.state ≠ .free) ∧
    running.trb.queue = [] ∧
    (on running (.trbEdge ⟨.A, .rise, 5, none⟩)).offers (.trbEdge ⟨.A, .rise, 5, none⟩) running ∧
    (List.replicate 39 (EdgeRecord.mk .A .rise 5 none)).length < 40 ∧
    40 ≤ (List.replicate 40 (EdgeRecord.mk .A .rise 5 none)).length :=
  ⟨fun _ => on_offers _ _ rfl, by decide, by decide, by decide, by decide, by decide, rfl, by decide,
    on_offers _ _ rfl, by decide +kernel, by decide +kernel, by decide, rfl, running_offers _, by decide, by decide⟩

/-- The edge records handed before lock lost is taken go into the slot that it closes; with none FILLING they stay on
their way (R156, R157; log 35). -/
theorem test_lock_lost_takes_edges_handed : ∀ filling : Bool,
    after (exec .trbLockLost { traces 1 [.ready, if filling then .filling else .free] with
        handovers := [.trbEdge ⟨.A, .rise, 5, none⟩, .trbLockLost, .trbCycleStart 0 8, .trbEdge ⟨.B, .fall, 6, none⟩] })
        (fun t => (t.trb.slots.map fun x => (x.state, x.edges.length, x.incomplete), t.handovers.length)) =
      some (if filling then ([(.ready, 0, false), (.ready, 2, true)], 2) else ([(.ready, 0, false), (.free, 0, false)], 3)) := by
  decide +kernel

/-- A CYCLE_START of the lost lock that the buffer has not taken opens no slot; one handed out after it is kept (R157;
log 35). -/
theorem test_lock_lost_drops_the_cycle_start_before_it : after (exec .trbLockLost
      { traces 1 [.ready, .filling, .free, .free] with
        handovers := [.trbCycleStart 0 7, .trbPush .request, .trbLockLost, .trbCycleStart 0 8] })
      (fun t => (t.trb.slots.map fun x => x.state, t.handovers.dropLast)) =
    some ([.ready, .ready, .free, .free], [.trbPush .request, .trbCycleStart 0 8]) := by decide +kernel

theorem test_meets_TrcfFreesASlot : (∀ fields, (asked (traces 1 [.ready, .filling, .free, .free]) .TRCF fields).begins
      .TRCF fields (traces 1 [.ready, .filling, .free, .free])) ∧
    ¬ (1 ≤ (0 : Int) ∧ (0 : Int) ≤ 4) ∧ ¬ (1 ≤ (5 : Int) ∧ (5 : Int) ≤ 4) ∧ (1 ≤ (4 : Int) ∧ (4 : Int) ≤ 4) ∧
    (∃ pre x post, (traces 1 [.ready, .filling, .free, .free]).trb.slots = pre ++ x :: post ∧
      (1 : Int) = pre.length + 1 ∧ x.state = .ready) ∧
    (∃ pre x post, (traces 1 [.ready, .filling, .free, .free]).trb.slots = pre ++ x :: post ∧
      (2 : Int) = pre.length + 1 ∧ x.state = .filling) ∧
    (∃ pre x post, (traces 1 [.ready, .filling, .free, .free]).trb.slots = pre ++ x :: post ∧
      (4 : Int) = pre.length + 1 ∧ x.state = .free) ∧
    (on running (.trbEdge ⟨.A, .rise, 5, none⟩)).offers (.trbEdge ⟨.A, .rise, 5, none⟩) running ∧
    ∀ x ∈ running.trb.slots, x.state ≠ .filling :=
  ⟨fun _ => asked_begins (traces 1 [.ready, .filling, .free, .free]) _ _ (by decide) rfl (Or.inl rfl), by decide,
    by decide, by decide, ⟨[], _, _, rfl, rfl, rfl⟩, ⟨[_], _, _, rfl, rfl, rfl⟩, ⟨[_, _, _], _, _, rfl, rfl, rfl⟩,
    running_offers _, by decide⟩

theorem test_meets_TraceRequestsAskAndRead : (∀ fields, (asked (traces 3 [.ready, .free, .free, .free]) .TRCT fields).begins
      .TRCT fields (traces 3 [.ready, .free, .free, .free])) ∧
    (asked standby .TRCT [.num 4]).begins .TRCT [.num 4] standby ∧ standby.smc.mode ≠ .run ∧ running.smc.mode = .run ∧
    (∀ fields, (asked (traces 3 [.ready, .free, .free, .free]) .TRCR fields).begins .TRCR fields
      (traces 3 [.ready, .free, .free, .free])) ∧
    ([.absent] : List Field) ≠ [] ∧ ¬ (1 ≤ (0 : Int) ∧ (0 : Int) ≤ 4) ∧
    (∃ pre x post c u, (traces 1 [.ready, .filling, .free, .free]).trb.slots = pre ++ x :: post ∧
      (1 : Int) = pre.length + 1 ∧ x.state = .ready ∧ x.chanSummary = some c ∧ x.unitSummary = some u) ∧
    ∃ pre x post, (traces 1 [.ready, .filling, .free, .free]).trb.slots = pre ++ x :: post ∧
      (4 : Int) = pre.length + 1 ∧ x.state ≠ .ready :=
  ⟨fun _ => asked_begins (traces 3 [.ready, .free, .free, .free]) _ _ (by decide) rfl (Or.inl rfl),
    standby_begins _ _, by decide, rfl,
    fun _ => asked_begins (traces 3 [.ready, .free, .free, .free]) _ _ (by decide) rfl (Or.inl rfl), by decide,
    by decide, ⟨[], _, _, _, _, rfl, rfl, rfl, rfl, rfl⟩, ⟨[_, _, _], _, _, rfl, rfl, by decide⟩⟩

/-- Unit 1's record with one field changed. -/
def unit1 (s : State) (f : UnitRec → UnitRec) : State := s.updUnit .L1 f

/-- STANDBY after a LAYW LIFT that binds no sense input to unit 1. -/
def senseless : State :=
  { standby with tbm := { standby.tbm with layout := { engine with lift := { engine.lift with l1 :=
    { engine.lift.l1 with sense := none } } } } }

theorem test_meets_LiftUnitsEnterStates :
    (let s : State := { unit running .raising with lfs := { (unit running .raising).lfs with
        units := ⟨⟨.raising, 1, true, none, none, 0, false⟩, ⟨.high, 0, false, none, none, 0, false⟩⟩
        mismatchReported := true } };
      s.lfs.mismatchReported = true ∧ LiftState.high = (s.lfs.units.get (otherUnit .L1)).state ∧
        LiftState.low ≠ (s.lfs.units.get (otherUnit .L1)).state) ∧
    running.lfs.mismatchReported = false ∧ (LiftState.raising ≠ .high ∧ LiftState.raising ≠ .low) ∧
    (running.tbm.layout.lift.get .L1).sense = some .A ∧
    (senseless.tbm.layout.lift.get .L1).sense = none := by decide

/-- With no sense input bound the sense is LOW, whatever the inputs show: a STUCK unit that is cleared goes to LOW (R123;
log 33). -/
theorem test_unit_without_a_sense_input : after (exec (.unitClear .L1)
      { unit senseless .stuck with handovers := [.unitClear .L1], lfs := { (unit senseless .stuck).lfs with senses := .all ⟨true, 0⟩ } })
      (fun t => (t.senseHigh .L1, (t.lfs.units.get .L1).state)) = some (false, .low) ∧
    after (exec (.unitClear .L1)
      { unit standby .stuck with handovers := [.unitClear .L1], lfs := { (unit standby .stuck).lfs with senses := .all ⟨true, 0⟩ } })
      (fun t => (t.senseHigh .L1, (t.lfs.units.get .L1).state)) = some (true, .high) := by decide +kernel

/-- A fresh OPPT of a load with a lift request. -/
def pointed (s : State) (load : Nat) (lift : Option Bool) (rpm : Nat) : State :=
  { s with
    ckt := { s.ckt with rpm := rpm }
    tga := ⟨some ⟨load, 80, 150, .all none, lift⟩, .fresh, none, false, .all ⟨.park, 0, none, .none⟩⟩ }

theorem test_meets_LiftDecisionsStartASwitch :
    (∀ st, (on (unit running st) (.liftEntry (.liftDecide .L1) 9120 7)).offers (.liftEntry (.liftDecide .L1) 9120 7)
      (unit running st)) ∧
    (pointed running 600 (some false) 7500).tga.fresh = .fresh ∧
    ((pointed running 600 (some false) 7500).tga.record.bind fun o => o.lift) = some false ∧
    running.tga.record = none ∧
    (let y := running.tbm.tuning.dev;
      (y.upRpm ≤ 7500 ∧ y.upLoad ≤ 600) ∧ ¬ (y.upRpm ≤ 7499 ∧ y.upLoad ≤ 600) ∧ 6799 < y.downRpm ∧ 449 < y.downLoad ∧
        y.downRpm ≤ 6800 ∧ y.downLoad ≤ 450 ∧ 11000 ≤ y.ceilingRpm ∧ ¬ 11001 ≤ y.ceilingRpm) ∧
    (pointed running 600 none 1).ckt.rpm ≠ 0 ∧ running.windowLength .L1 = 800 ∧
    ((20 + 5) * 100 * (5760 * 3333) ≤ 800 * 60000000) ∧ ¬ ((20 + 5) * 100 * (5760 * 3334) ≤ 800 * 60000000) ∧
    ((unit running .raising).lfs.units.get .L1).state ≠ .high ∧
    ((unit running .high).lfs.units.get .L1).state = (if true then .high else .low) ∧
    ((unit running .low).lfs.units.get .L1).state = (if false then .high else .low) ∧
    running.senseHigh .L1 = false ∧ (running.phc.chans.get .IN1).state = .parked ∧
    ({ running.lfs with pair := some ⟨.L1, true, 5⟩ }.pair.isSome = true) ∧ 2 ≤ ((7 : Word32) - 5).toNat ∧
    running.unitBound .L1 = true ∧ standby.unitBound .L1 = false ∧
    ((unit running .low).lfs.units.get .L1).test = none ∧
    ((unit1 running fun r => { r with test := some 5 }).lfs.units.get .L1).test ≠ none :=
  ⟨fun _ => on_offers _ _ rfl, by decide +kernel⟩

/-- A LIFT_DECIDE that comes during a lift test, and one that lock lost overtakes, start no switch (R135, R137; log 51). -/
theorem test_stale_lift_decide :
    after (exec (.lfsLiftDecide .L1) (on (unit1 running fun r => { r with test := some 5 })
      (.liftEntry (.liftDecide .L1) 9120 7))) (fun t => (t.liftState .L1, t.handovers)) = some (.low, []) ∧
    after (exec (.lfsLockLost .L1) { unit running .raising with handovers :=
        [.liftEntry (.liftDecide .L1) 9120 7, .liftEntry (.liftDecide .L2) 1920 7, .lfsLockLost .L1,
          .liftEntry (.liftOpen .L1) 10400 8] })
      (fun t => (t.liftState .L1, t.handovers.filter fun h => h.entryOf .L1 || h.entryOf .L2)) =
      some (.low, [.liftEntry (.liftDecide .L2) 1920 7, .liftEntry (.liftOpen .L1) 10400 8]) := by decide +kernel

theorem test_meets_LiftWindowsOpenAndClose :
    (∀ st, (on (unit running st) (.liftEntry (.liftOpen .L1) 10400 7)).offers (.liftEntry (.liftOpen .L1) 10400 7)
      (unit running st)) ∧
    (∀ st, (on (unit running st) (.liftEntry (.liftClose .L1) 11200 7)).offers (.liftEntry (.liftClose .L1) 11200 7)
      (unit running st)) ∧
    (∀ st, ((unit running st).lfs.units.get .L1).state = st) ∧
    ((chan running .tracking).phc.chans.get .IN1).state = .tracking ∧
    (running.phc.chans.get .IN1).state ≠ .tracking ∧ (running.phc.chans.get .IN1).state ≠ .releasing ∧
    running.senseHigh .L1 = false ∧
    ({ running with lfs := { running.lfs with senses := .all ⟨true, 0⟩ } } : State).senseHigh .L1 = true ∧
    ((unit1 running fun r => { r with attempts := 1 }).lfs.units.get .L1).attempts < 2 ∧
    2 ≤ ((unit1 running fun r => { r with attempts := 2 }).lfs.units.get .L1).attempts ∧
    ((unit1 running fun r => { r with travel := some 5 }).lfs.units.get .L1).travel = some 5 :=
  ⟨fun _ => on_offers _ _ rfl, fun _ => on_offers _ _ rfl, fun _ => rfl, by decide⟩

theorem test_meets_SensesLossesAndStuckActions : held.smc.inReset = true ∧ running.smc.inReset = false ∧
    (∀ high, (on running (.senseChange .L1 high)).offers (.senseChange .L1 high) running) ∧
    (on (unit running .raising) (.lfsLockLost .L1)).handovers = [] ++ .lfsLockLost .L1 :: [] ∧
    (on running (.stuckAction .L1)).offers (.stuckAction .L1) running ∧
    running.unitBound .L1 = true ∧ (on standby (.stuckAction .L1)).offers (.stuckAction .L1) standby ∧
    standby.unitBound .L1 = false ∧
    (on (unit running .stuck) (.unitClear .L1)).offers (.unitClear .L1) (unit running .stuck) :=
  ⟨rfl, rfl, fun _ => running_offers _, rfl, running_offers _, by decide, on_offers _ _ rfl, by decide,
    on_offers _ _ rfl⟩

theorem test_meets_LiftTestsRunAndEnd :
    (∀ fields, (asked running .TEST fields).begins .TEST fields running) ∧
    ([.word .LIFT, .num 1, .num 50] : List Field).head? ≠ some (.word .CH) ∧
    (let ok (n x : Int) : Prop := 1 ≤ n ∧ n ≤ 2 ∧ 1 ≤ x ∧ x ≤ 50;
      ok 1 1 ∧ ok 2 50 ∧ ¬ ok 0 1 ∧ ¬ ok 3 1 ∧ ¬ ok 1 0 ∧ ¬ ok 1 51) ∧
    (asked standby .TEST [.word .LIFT, .num 1, .num 1]).begins .TEST [.word .LIFT, .num 1, .num 1] standby ∧
    standby.smc.mode ≠ .run ∧ running.smc.mode = .run ∧ running.unitBound .L1 = true ∧
    ({ running with tbm := { running.tbm with inForce := .blank } } : State).unitBound .L1 = false ∧
    running.ckt.state = .stopped ∧ (running.lfs.units.get .L1).state = .low ∧ (running.lfs.units.get .L1).test = none ∧
    running.fmg.unitLow.get .L1 = false ∧ ((unit running .stuck).lfs.units.get .L1).state = .stuck ∧
    ((unit1 running fun r => { r with test := some 5 }).lfs.units.get .L1).test = some 5 ∧
    (on running (.lfsStart .L1)).offers (.lfsStart .L1) running ∧
    (∀ b, (on running (.lfsResponse .L1 b)).offers (.lfsResponse .L1 b) running) ∧
    (let tested : State := unit1 running fun r => { r with test := some 5 };
      (tested.lfs.units.get .L1).test ≠ none ∧ (tested.lfs.units.get .L1).state = .low ∧
      ∀ h ∈ [.liftEntry (.liftDecide .L1) 9120 7, .liftEntry (.liftOpen .L1) 10400 7,
        .liftEntry (.liftClose .L1) 11200 7, .lfsLockLost .L1], (on tested h).offers h tested) :=
  ⟨running_begins _, by decide, by decide, standby_begins _ _, by decide, by decide, by decide, by decide, by decide,
    by decide, by decide, by decide, by decide, by decide, running_offers _, fun _ => running_offers _, by decide,
    by decide, fun _ _ => on_offers _ _ rfl⟩

/-- RUN with one fault record in a state, its tally given, and a debounce of 3 for its kind. -/
def recorded (st : RecState) (tally : Nat) : State :=
  { running with fmg := { running.fmg with
    table := (running.fmg.table.set .crankNoise { FaultRec.clean with state := st, tally := tally }) } }

theorem test_meets_ReportsMoveTheirRecord :
    (∀ st n, (on (recorded st n) (.report .ckt .crankNoise .present)).take (wantReport .crankNoise .present) =
      some ((), recorded st n)) ∧
    (∀ st n, (on (recorded st n) (.report .ckt .crankNoise .gone)).take (wantReport .crankNoise .gone) =
      some ((), recorded st n)) ∧
    (∀ st n, (on (recorded st n) (.report .ckt .crankNoise .event)).take (wantReport .crankNoise .event) =
      some ((), recorded st n)) ∧
    (∀ st n, ((recorded st n).fault .crankNoise).state = st) ∧
    (running.tbm.response.get (faultKind .crankNoise)).debounce = 3 ∧
    (running.tbm.response.get (faultKind .oilLow)).debounce = 1 ∧
    3 ≤ ((recorded .pending 2).fault .crankNoise).tally + 1 ∧
    ((recorded .pending 1).fault .crankNoise).tally + 1 < 3 :=
  ⟨fun _ _ => rfl, fun _ _ => rfl, fun _ _ => rfl, fun _ _ => rfl, by decide⟩

theorem test_meets_ResponsesAndFltFollowTheRecords :
    (on running .lockoutChange).offers .lockoutChange running ∧ running.chanResponseNow .IN1 = .none ∧
    (latched (.camMissing .IN1)).chanResponseNow .IN1 = .park ∧ (latched (.camMissing .IN1)).chanResponseNow .EX1 = .none ∧
    (latched (.liftPosition .L1)).unitLowNow .L2 = true ∧ running.fltNow = false ∧
    (latched .liftMismatch).fltNow = true ∧ (chan running .lockout).fltNow = true :=
  ⟨running_offers _, by decide +kernel⟩

/-- A response record as its seven fields. -/
def responseFields (k : Token) (d : Int) : List Field :=
  [.word k, .word .PARK, .word .OWN, .word .LOW, .word .ALL, .num d, .word .YES, .word .NO]

theorem test_meets_FaultRequestsReadAndClear :
    (∀ k fields, (asked standby k fields).begins k fields standby) ∧ readResponse [] = none ∧
    readResponse (responseFields .PARK_FAIL 8) ≠ none ∧ kindWord .parkFail = .PARK_FAIL ∧
    (asked running .RSPW (responseFields .PARK_FAIL 1)).begins .RSPW (responseFields .PARK_FAIL 1) running ∧
    running.smc.mode ≠ .standby ∧ standby.smc.mode = .standby ∧ saving.saving .response = false ∧
    ({ saving.cst with op := ⟨.save .response 1 (.response .builtIn), true, false, 10, none⟩ }.op.kind =
      .save .response 1 (.response .builtIn)) ∧
    (let wrong (d : Int) (k : FaultKind) (p : PhaserAction) : Prop := d < 1 ∨ 8 < d ∨ k = .parkFail ∧ p ≠ .park;
      wrong 0 .oilLow .none ∧ wrong 9 .oilLow .none ∧ wrong 8 .parkFail .hold ∧ ¬ wrong 8 .parkFail .park ∧
        ¬ wrong 1 .oilLow .none) ∧
    namedRecords [.word .CH] = .error .format ∧ namedRecords [.word .CAM_MISSING, .num 5] = .error .range ∧
    namedRecords [.absent] = .error .format ∧ namedRecords [.word .CAM_MISSING, .absent] = .error .range ∧
    namedRecords [.word .CAM_MISSING, .word .OCVA] = .error .range ∧
    namedRecords [.word .CAM_MISSING, .word .CH] = .error .format ∧
    namedRecords [.word .CAM_MISSING, .num 1, .absent] = .error .format ∧ namedRecords [] = .error .format ∧
    FaultId.camMissing .IN1 ∈ kindRecords .camMissing ∧ ((latched (.camMissing .IN1)).fault (.camMissing .IN1)).state = .latched :=
  ⟨standby_begins, by decide +kernel, by decide +kernel, rfl, running_begins _ _, by decide, rfl, by decide, rfl,
    by decide, by decide +kernel, by decide +kernel, by decide +kernel, by decide +kernel, by decide +kernel,
    by decide +kernel, by decide +kernel, by decide +kernel, by decide, by decide⟩

/-- The single field "-" is no kind of RSPR, and an unknown item of TUNR is FORMAT at any index (log 21). -/
theorem test_absent_and_unknown_fields :
    after (exec (.rspr [.absent]) (asked standby .RSPR [.absent])) (fun t => t.clp.lastRefusal) =
      some (some (.kw .RSPR, .format)) ∧
    after (exec (.tunr [.word .CH, .num 9, .word .CH]) (asked standby .TUNR [.word .CH, .num 9, .word .CH]))
      (fun t => t.clp.lastRefusal) = some (some (.kw .TUNR, .format)) ∧
    after (exec (.layw [.word .EDGE, .num 1, .word .RISE]) (asked standby .LAYW [.word .EDGE, .num 1, .word .RISE]))
      (fun t => t.clp.lastRefusal) = some (some (.kw .LAYW, .format)) := by decide +kernel

/-- A page of a store that holds a content in one region, saved in generation 1. -/
def storedPage (r : Region) (x : TableImage) (n : Nat) : Page :=
  if decide (regionFirst r ≤ n) && decide (n < regionFirst r + regionSize r) then
    .build (regionId r) (n - regionFirst r) 1 x
  else .erased

/-- A part with that store. -/
def stored (r : Region) (x : TableImage) : State :=
  { State.reset with cst := { State.reset.cst with pages := (List.range 36).map (storedPage r x) } }

theorem stored_pages (r : Region) (x : TableImage) :
    (stored r x).regionPages r = (List.range (regionSize r)).map fun i => Page.build (regionId r) i 1 x := by
  cases r <;> rfl

theorem stored_valid (r : Region) (x : TableImage) :
    (evaluatePages r ((stored r x).regionPages r)).status = .valid := by
  have h (i : Nat) : (Page.build (regionId r) i 1#16 x).good r i = true := Page.build_good r i 1 x
  have e2 : [0, 1] = List.range 2 := rfl
  have e4 : [0, 1, 2, 3] = List.range 4 := rfl
  have e6 : [0, 1, 2, 3, 4, 5] = List.range 6 := rfl
  rw [stored_pages]
  cases r <;> simp [regionSize, evaluatePages, goodGens, ← e2, ← e4, ← e6, h, Page.build_gen]

theorem stored_content (r : Region) (x : TableImage) : regionContent r ((stored r x).regionPages r) = some x := by
  have h : ((List.range (regionSize r)).map fun i => Page.build (regionId r) i 1 x).filterMap Page.image =
      List.replicate (regionSize r) x := by cases r <;> rfl
  rw [stored_pages, regionContent, h]
  cases r <;> simp [regionSize, List.replicate]

theorem reset_tuning_blank : evaluatePages .tuning (State.reset.regionPages .tuning) = ⟨.blank, 0⟩ := by
  refine evaluatePages_erased .tuning _ fun p h => ?_
  have e : State.reset.regionPages .tuning = List.replicate 4 .erased := rfl
  rw [e] at h
  exact List.eq_of_mem_replicate h

theorem test_meets_StartUp : State.reset.smc.startTimer = some 40000 ∧
    (∀ r x, (stored r x).smc.startTimer = some 40000 ∧
      (evaluatePages r ((stored r x).regionPages r)).status = .valid ∧
      regionContent r ((stored r x).regionPages r) = some x) ∧
    (evaluatePages .tuning (State.reset.regionPages .tuning)).status ≠ .valid ∧
    engine.legal = true ∧ { engine with cyl := some 11520 }.legal = false ∧ Tuning.builtIn.legal = true ∧
    { Tuning.builtIn with dev := { Tuning.builtIn.dev with upRpm := 18001 } }.legal = false ∧
    responseLegal .builtIn = true ∧
    responseLegal { ResponseTable.builtIn with oilLow := { ResponseTable.builtIn.oilLow with debounce := 9 } } = false ∧
    climbing.legal = true ∧ { climbing with load := [] }.legal = false := by
  refine ⟨rfl, fun r x => ⟨rfl, stored_valid r x, stored_content r x⟩, ?_, by decide +kernel⟩
  rw [reset_tuning_blank]; decide

theorem test_meets_SavesWriteTheirRegionPageByPage :
    (([.erased] : List Page) ≠ [] ∧ ∀ p ∈ ([.erased] : List Page), p.isErased = true) ∧
    (∀ (i : Nat) (p : Page), ([Page.build 1 0 5 (.layout engine)] : List Page)[i]? = some p → p.good .layout i = true ∧ p.gen = 5) ∧
    (Page.mk [0] none).good .layout 0 = false ∧ (Page.mk [0] none).isErased = false ∧
    (Page.build 1 0 5 (.layout engine)).gen ≠ (Page.build 1 1 6 (.layout engine)).gen ∧
    (∀ (g : Bool) (fields : List Field), (asked (if g then standby else saving) .SAVE fields).begins .SAVE fields (if g then standby else saving)) ∧
    regionWord .tuning = .TUNING ∧ standby.cst.locks.get .tuning = false ∧ standby.cst.locks.get .ident = true ∧
    saving.cst.op.kind = .save .tuning 1 (.tuning .builtIn) ∧ standby.cst.op.kind = .none ∧
    (sweeping 35).cst.op.kind = .sweep ∧ standby.smc.supplyState = .normal ∧ saving.cst.op.running = true ∧
    regionFirst .tuning ≤ saving.cst.op.page ∧ saving.cst.op.page + 1 < regionFirst .tuning + regionSize .tuning ∧
    regionFirst .tuning + regionSize .tuning ≤ { saving.cst.op with page := 9 }.page + 1 := by
  refine ⟨by decide +kernel, ?_, by decide +kernel, by decide +kernel, ?_, ?_, by decide⟩
  · intro i p h
    match i with
    | 0 => cases h; exact ⟨Page.build_good .layout 0 5 _, Page.build_gen _ _ _ _⟩
    | i + 1 => simp at h
  · simp [Page.build_gen]
  · intro g fields
    cases g
    · exact asked_begins saving _ _ (by decide) rfl (Or.inl rfl)
    · exact standby_begins _ _

/-- A save suspended at its second page. -/
def suspended : State := { saving with cst := { saving.cst with op := { saving.cst.op with
  running := false, page := 7, resume := some 200000 } } }

theorem test_meets_SweepsAndSuspensions :
    (∀ x, (on standby (.cstSupply x)).offers (.cstSupply x) standby) ∧
    (∀ x, (on saving (.cstSupply x)).offers (.cstSupply x) saving) ∧
    (∀ x, (on suspended (.cstSupply x)).offers (.cstSupply x) suspended) ∧ standby.cst.op.kind = .none ∧
    saving.cst.op.running = true ∧ suspended.cst.op.kind ≠ .none ∧ suspended.cst.op.running = false ∧
    suspended.cst.op.resume = some 200000 ∧ suspended.cst.op.kind = .save .tuning 1 (.tuning .builtIn) ∧
    (asked standby .SWEP []).begins .SWEP [] standby ∧
    (asked standby .SWEP [.absent]).begins .SWEP [.absent] standby ∧
    (asked saving .SWEP []).begins .SWEP [] saving ∧ saving.cst.op.kind ≠ .none ∧
    (sweeping 35).cst.op.kind = .sweep ∧ (sweeping 35).cst.op.running = true ∧
    ((sweeping 34).page 34).isErased = true ∧
    { (sweeping 34).cst.op with suspendPending := true }.suspendPending = true ∧
    { standby.smc with supplyState := .belowProgram }.supplyState ≠ .normal :=
  ⟨fun _ => on_offers _ _ rfl, fun _ => on_offers _ _ rfl, fun _ => on_offers _ _ rfl, rfl, rfl, by decide, rfl, rfl,
    rfl, standby_begins _ _, standby_begins _ _, asked_begins saving _ _ (by decide) rfl (Or.inl rfl), by decide, rfl,
    rfl, by decide +kernel, rfl, by decide⟩

/-- A page that is neither erased nor passes its check. -/
theorem test_meets_damaged_page : (Page.mk (0 :: List.replicate 127 0xFF#8) none).isErased = false ∧
    (Page.mk (List.replicate 4 0#8) none).passes = false ∧ (Page.mk (List.replicate 4 0#8) none).isErased = false := by
  decide +kernel

theorem test_meets_PageReadsOnePage :
    (∀ fields, (asked standby .PAGE fields).begins .PAGE fields standby) ∧
    (∀ fields, (asked suspended .PAGE fields).begins .PAGE fields suspended) ∧
    (asked saving .PAGE [.num 0]).begins .PAGE [.num 0] saving ∧ saving.cst.op.kind ≠ .none ∧
    saving.cst.op.running = true ∧ suspended.cst.op.kind ≠ .sweep ∧ suspended.cst.op.page = (7 : Int).toNat ∧
    ¬ suspended.cst.op.page = (8 : Int).toNat ∧ ((-1 : Int) < 0 ∧ (35 : Int) < 36 ∧ (0 : Int) ≤ 35) :=
  ⟨standby_begins _, fun _ => asked_begins suspended _ _ (by decide) rfl (Or.inl rfl),
    asked_begins saving _ _ (by decide) rfl (Or.inl rfl), by decide, rfl, by decide, rfl, by decide, by decide⟩

theorem test_meets_AbortsStatusAndLocks : (∀ k fields, (asked standby k fields).begins k fields standby) ∧
    standby.cst.op.kind = .none ∧ (asked (sweeping 3) .ABRT []).begins .ABRT [] (sweeping 3) ∧
    (asked saving .ABRT []).begins .ABRT [] saving ∧ saving.cst.op.running = true ∧
    (asked suspended .ABRT []).begins .ABRT [] suspended ∧ suspended.cst.op.running = false ∧
    suspended.cst.op.kind = .save .tuning 1 (.tuning .builtIn) ∧
    (∀ fields, (asked (armed saving .lock) .LOCK fields).begins .LOCK fields (armed saving .lock)) ∧
    (∃ x, (armed saving .lock).clp.arm = some (.lock, x)) ∧ (armed saving .lock).cst.locks.get .ident = true ∧
    (armed saving .lock).cst.locks.get .tuning = false ∧ (armed saving .lock).saving .tuning = true ∧
    (armed saving .lock).saving .layout = false :=
  ⟨standby_begins, rfl, asked_begins (sweeping 3) _ _ (by decide) rfl (Or.inl rfl),
    asked_begins saving _ _ (by decide) rfl (Or.inl rfl), rfl,
    asked_begins suspended _ _ (by decide) rfl (Or.inl rfl), rfl, rfl,
    fun _ => asked_begins (armed saving .lock) _ _ (by decide) rfl (Or.inr rfl), ⟨9, rfl⟩, rfl, rfl, by decide,
    by decide⟩

/-- Lines of LAYW's format with a value or a word where their item has another: RANGE (log 21). -/
def misplaced : List (List Field) :=
  [[.word .BIND, .num 1, .num 5, .word .A], [.word .BIND, .word .A, .num 0, .num 0],
    [.word .CAM, .num 1, .word .YES, .num 800, .num 160, .word .NO],
    [.word .CAM, .num 1, .word .ADV, .num 800, .num 160, .word .RET], [.word .EDGE, .num 1, .num 1, .num 1000, .num 1],
    [.word .EDGE, .num 1, .num 1, .word .RISE, .word .FALL], [.word .LIFT, .num 1, .num 1, .num 0, .absent, .absent, .absent],
    [.word .PWM, .num 0, .absent], [.word .PWM, .word .A, .word .B]]

theorem test_meets_TableWritesReplaceWhatTheyName : (∀ k fields, (asked standby k fields).begins k fields standby) ∧
    laywFormat [.word .CYL, .absent] = false ∧ laywFormat [.word .CYL, .num 11519] = true ∧
    (laywWrite standby.tbm.layout [.word .CYL, .num 11519]).isSome = true ∧
    laywWrite standby.tbm.layout [.word .CYL, .num 11520] = none ∧
    (asked running .LAYW [.word .CYL, .num 0]).begins .LAYW [.word .CYL, .num 0] running ∧
    running.smc.mode ≠ .standby ∧ standby.saving .layout = false ∧ saving.saving .tuning = true ∧
    readScope [.word .CH, .num 1, .word .DMIN, .num 1000] = some (.chan (.num 1), [.word .DMIN, .num 1000]) ∧
    tunwPairs? (.chan (.num 1)) [.word .DMIN, .num 1000] = some [(.DMIN, 1000)] ∧
    standby.tbm.tuning.writeAll (.chan (.num 1)) [(.DMIN, 1000)] = none ∧
    (standby.tbm.tuning.writeAll (.chan (.num 1)) [(.DMIN, 900)]).isSome = true ∧ readScope [] = none ∧
    mapwFormat [.num 1] = false ∧ mapwFormat [.num 1, .word .ROW, .num 16, .num 12, .num 960] = true ∧
    standby.savingMap (.num 1) = false ∧
    (standby.tbm.writeMap (.num 1) [.word .ROW, .num 16, .num 12, .num 960]).isSome = true ∧
    standby.tbm.writeMap (.num 1) [.word .ROW, .num 16, .num 12, .num 961] = none ∧
    (laywWrite engine [.word .LIFT, .num 1, .num 0, .num 0, .absent, .num 0, .absent]).isSome = true ∧
    laywWrite engine [.word .LIFT, .num 1, .word .A, .num 0, .absent, .num 0, .num 0] = none ∧
    laywWrite engine [.word .PWM, .num 1, .num 4000] = none ∧ laywWrite engine [.word .CAM, .num 5] = none ∧
    misplaced.all (fun l => laywFormat l && (laywWrite engine l).isNone) = true ∧
    standby.tbm.tuning.writeAll (.unit (.num 0)) [(.MARGIN_MS, 5)] = none ∧
    saving.savingMap (.num 5) = false :=
  ⟨standby_begins, by decide, by decide, by decide +kernel, by decide +kernel, running_begins _ _, by decide, by decide,
    by decide, by decide +kernel, by decide +kernel, by decide +kernel, by decide +kernel, by decide, by decide,
    by decide, by decide, by decide +kernel, by decide +kernel, by decide +kernel, by decide +kernel, by decide +kernel,
    by decide +kernel, by decide +kernel, by decide +kernel, by decide⟩

theorem test_meets_TableWritesWithinRanges :
    (let range := chanTuneRange .DMIN; ∃ lo hi, range = some (lo, hi) ∧ lo ≤ 1000 ∧ 1000 ≤ hi ∧ ¬ 1001 ≤ hi) ∧
    (1 ≤ 16 ∧ 16 ≤ 16 ∧ 1 ≤ 12 ∧ 12 + [960].length ≤ 13 ∧ 1 + (List.replicate 12 960).length ≤ 13) ∧
    climbing.rpm.Pairwise (· < ·) ∧ (∀ v ∈ climbing.rpm, v ≤ 18000) ∧ climbing.load.Pairwise (· < ·) ∧
    (∀ v ∈ climbing.load, v ≤ 1000) ∧ climbing.temps.length = 8 ∧ (∀ v ∈ climbing.temps, -40 ≤ v ∧ v ≤ 150) ∧
    climbing.temps.Pairwise (· < ·) ∧ ∀ v ∈ climbing.factors, v ≤ 1000 := by
  refine ⟨⟨0, 1000, by decide⟩, by decide +kernel⟩

theorem test_meets_TableReadsChangeNothing : (∀ k fields, (asked standby k fields).begins k fields standby) ∧
    standby.tbm.layrItem [.word .CAM, .num 5] = .error .range ∧ standby.tbm.layrItem [.word .CAM, .absent] = .error .format ∧
    standby.tbm.layrItem [.word .PWM, .word .H] = .error .range ∧ standby.tbm.layrItem [.absent] = .error .format ∧
    standby.tbm.layrItem [.word .WHEEL, .num 1] = .error .format ∧
    standby.tbm.tuning.scopeItems? (.unit (.num 3)) = none ∧ PhaseMap.blank.part [.absent] = .error .format ∧
    PhaseMap.blank.part [.word .ROW, .num 17] = .error .range :=
  ⟨standby_begins, by decide +kernel, by decide +kernel, by decide +kernel, by decide +kernel, by decide +kernel,
    by decide +kernel, by decide +kernel, by decide +kernel⟩

/-- MAPR with "-" for its second field reads the whole map: 20 lines and the end line (R100, R178). -/
theorem test_mapr_dash : after (exec (.mapr [.num 1, .absent]) (asked standby .MAPR [.num 1, .absent]))
    (fun t => t.clp.replies.length + 1) = some 21 ∧
    after (exec (.layr []) (asked standby .LAYR [])) (fun t => t.clp.replies.length + 1) = some 22 := by decide +kernel

/-! ### The table of commands -/

theorem test_no_row_gives_bits : decodeTableWord 32 0 = none ∧
    (State.reset.withFetchWord 32 0).pending = [] := by decide

end Sys2Proof.Tests
end

section
/-! Proofs about the Crank Tracker's noise filter and the start of SEEKING (R20 to R22, R26): what sending several
handovers in a row makes of the state, what the noise filter decides, what a discarded edge and a first edge leave, and
from these the obligation. -/

namespace Sys2Proof.Machine

/-! ### Sending -/

theorem State.hand_eq_sends (s : State) (h : Handover) : s.hand h = s.sends [h] := rfl

@[simp] theorem State.sends_sends (s : State) (l m : List Handover) : (s.sends l).sends m = s.sends (l ++ m) := by
  simp [State.sends]

@[simp] theorem State.sends_ckt (s : State) (l : List Handover) : (s.sends l).ckt = s.ckt := rfl

/-- One handover for each element of a list, in the list's order. -/
theorem forEach_hand_eq_sends {α : Type} (l : List α) (f : α → Handover) (s : State) :
    forEach l (fun s a => s.hand (f a)) s = s.sends (l.map f) := by
  induction l generalizing s with
  | nil => simp [forEach, State.sends]
  | cons a l ih =>
    calc forEach (a :: l) (fun s a => s.hand (f a)) s
        = forEach l (fun s a => s.hand (f a)) (s.sends [f a]) := rfl
      _ = (s.sends [f a]).sends (l.map f) := ih _
      _ = s.sends ((a :: l).map f) := by simp

/-- The start notification goes to every channel, then to every unit (R39). -/
theorem State.notifyStart_eq_sends (s : State) :
    s.notifyStart = s.sends (allChans.map Handover.phcStart ++ allUnits.map Handover.lfsStart) := by
  simp [State.notifyStart, forEach_hand_eq_sends]

/-! ### The noise filter (R21) -/

theorem Wheel.minInterval_of_positions {w : Wheel} (h : w.positions ≠ 0) : w.minInterval = 6666 / w.positions :=
  if_neg h

/-- Just those edges are noise that have an interval, and one below the minimum or below a quarter of the last. -/
theorem Ckt.classify_eq_noise_iff (k : Ckt) (w : Wheel) (t : Word32) : k.classify w t = .noise ↔
    ∃ last, k.lastEdge = some last ∧ ((t - last).toNat < w.minInterval ∨
      ∃ li, k.lastInterval = some li ∧ 4 * (t - last).toNat < li.toNat) := by
  cases hl : k.lastEdge with
  | none => simp [Ckt.classify, hl]
  | some last =>
    by_cases hm : (t - last).toNat < w.minInterval
    · simp [Ckt.classify, hl, hm, -BitVec.toNat_sub]
    · cases hi : k.lastInterval with
      | none => simp [Ckt.classify, hl, hm, hi, -BitVec.toNat_sub]
      | some li => simp [Ckt.classify, hl, hm, hi, -BitVec.toNat_sub]

/-- With no last edge time an edge is accepted, and has no interval. -/
theorem Ckt.classify_of_no_lastEdge {k : Ckt} (h : k.lastEdge = none) (w : Wheel) (t : Word32) :
    k.classify w t = .accepted none := by
  simp [Ckt.classify, h]

/-! ### What CRK_EDGE does, by the filter's verdict -/

theorem exec_crkEdge (dt hold : Nat) (s : State) : exec (.crkEdge dt hold) s = execCrkEdge dt hold s := rfl

@[simp] theorem State.pass_inRun (s : State) (dt : Nat) : (s.pass dt).inRun = s.inRun := rfl

theorem execCrkEdge_of_not_inRun {s : State} (h : s.inRun = false) (dt hold : Nat) :
    execCrkEdge dt hold s = .next (s.pass dt) := by
  simp [execCrkEdge, h]

theorem execCrkEdge_of_noise {s : State} {w : Wheel} {dt : Nat} (hr : s.inRun = true)
    (hw : s.tbm.inForce.wheel = some w) (hc : s.ckt.classify w (s.pass dt).timeBase = .noise) (hold : Nat) :
    execCrkEdge dt hold s = .next (s.pass dt).discardEdge := by
  simp [execCrkEdge, hr, hw, hc]

theorem execCrkEdge_of_accepted {s : State} {w : Wheel} {dt : Nat} {i : Option Word32} (hr : s.inRun = true)
    (hw : s.tbm.inForce.wheel = some w) (hc : s.ckt.classify w (s.pass dt).timeBase = .accepted i) (hold : Nat) :
    execCrkEdge dt hold s = .next ((s.pass dt).acceptEdge w i hold) := by
  simp [execCrkEdge, hr, hw, hc]

/-! ### A discarded edge (R22) -/

theorem State.discardEdge_of_tally_ne_three {s : State} (h : s.ckt.noiseTally ≠ 3) :
    s.discardEdge = s.updCkt fun k => { k with noiseTally := k.noiseTally + 1 } := by
  simp [State.discardEdge, h]

theorem State.discardEdge_of_tally_three {s : State} (h : s.ckt.noiseTally = 3) :
    s.discardEdge = (s.updCkt fun k => { k with noiseTally := 4, noiseReported := true }).sends
      [.report .ckt .crankNoise .present] := by
  simp [State.discardEdge, h, State.updCkt, State.report, State.hand_eq_sends]

/-! ### The first edge (R26) -/

/-- Without an interval there is no gap and no pitch period. -/
theorem Ckt.accept_none (k : Ckt) (w : Wheel) (t : Word32) (expiry : Time) : k.accept w t none expiry =
    { k with
      stall := some expiry
      lastEdge := some t
      intervalBefore := k.lastInterval
      lastInterval := none
      pitch := none } := rfl

theorem Ckt.isGap_of_no_lastInterval {k : Ckt} (h : k.lastInterval = none) (w : Wheel) : k.isGap w = false := by
  simp [Ckt.isGap, h]

theorem State.enterSeeking_eq_sends (s : State) : s.enterSeeking =
    (s.updCkt fun k => { k with state := .seeking, tooth := none, clock := none }).sends
      (allChans.map Handover.phcStart ++ allUnits.map Handover.lfsStart ++
        [.notice .ckt (.syn .seeking .stopped .start s.ckt.rpm s.ckt.cycles)]) := by
  simp [State.enterSeeking, State.synNotice, State.notice, State.notifyStart_eq_sends, State.hand_eq_sends]

/-- An edge accepted in STOPPED without an interval: the times are noted and SEEKING is entered. -/
theorem State.acceptEdge_none_of_stopped {s : State} (h : s.ckt.state = .stopped) (w : Wheel) (hold : Nat) :
    s.acceptEdge w none hold =
      (s.updCkt fun k => k.accept w s.timeBase none (s.now + ms w.stallMs)).enterSeeking := by
  simp [State.acceptEdge, Ckt.accept_none, Ckt.isGap_of_no_lastInterval, h]

/-! ### The obligation -/

/-- An edge in RUN with a noisy interval is discarded. -/
theorem execCrkEdge_of_noisy_interval {s : State} {w : Wheel} {last : Word32} {dt : Nat} (hr : s.inRun = true)
    (hw : s.tbm.inForce.wheel = some w) (hp : w.positions ≠ 0) (hl : s.ckt.lastEdge = some last)
    (hi : (BitVec.ofNat 32 (s.now + dt) - last).toNat < 6666 / w.positions ∨
      ∃ li, s.ckt.lastInterval = some li ∧ 4 * (BitVec.ofNat 32 (s.now + dt) - last).toNat < li.toNat) (hold : Nat) :
    execCrkEdge dt hold s = .next (s.pass dt).discardEdge := by
  refine execCrkEdge_of_noise hr hw ?_ hold
  rw [Ckt.classify_eq_noise_iff, Wheel.minInterval_of_positions hp]
  exact ⟨last, hl, hi⟩

/-- The first edge in STOPPED, taken in RUN, begins SEEKING. -/
theorem execCrkEdge_of_first_edge {s : State} {w : Wheel} (hr : s.inRun = true) (hw : s.tbm.inForce.wheel = some w)
    (hs : s.ckt.state = .stopped) (hl : s.ckt.lastEdge = none) (dt hold : Nat) :
    execCrkEdge dt hold s = .next (((s.pass dt).updCkt fun k =>
      k.accept w (s.pass dt).timeBase none (s.now + dt + ms w.stallMs)).enterSeeking) := by
  rw [execCrkEdge_of_accepted hr hw (Ckt.classify_of_no_lastEdge hl w _),
    State.acceptEdge_none_of_stopped (by simpa using hs), State.pass_now]

/-- Settles O22: outside RUN by the mode alone; in RUN by what the noise filter makes of the edge, and by the tally as
it stands before; the first edge in STOPPED by the entry to SEEKING from a record without an interval. -/
theorem noiseIsDiscardedAndSeekingBegins : Obligations.NoiseIsDiscardedAndSeekingBegins := by
  refine ⟨fun s dt hold => ⟨?_, ?_⟩, ?_⟩
  · intro hr
    rw [exec_crkEdge, execCrkEdge_of_not_inRun hr]
    rfl
  · intro w last hr hw hp hl i hi
    have hd : exec (.crkEdge dt hold) s = .next (s.pass dt).discardEdge :=
      execCrkEdge_of_noisy_interval hr hw hp hl hi hold
    refine ⟨fun ht => ?_, fun ht => ?_⟩
    · rw [hd, State.discardEdge_of_tally_ne_three (by simpa using ht)]
      rfl
    · rw [hd, State.discardEdge_of_tally_three (by simpa using ht)]
      rfl
  · intro s dt hold w hr hw hs hl
    rw [exec_crkEdge, execCrkEdge_of_first_edge hr hw hs hl, State.enterSeeking_eq_sends]
    rfl

end Sys2Proof.Machine
end

section
/-! Proofs about the map lookup (R105, R106): what clamping to a list of ascending breakpoints leaves and forgets, which
index the search for a bracket finds and what it makes of the value, the grid value and the derate factor from these,
and the obligation. -/

namespace Sys2Proof.Machine

/-! ### Clamping to breakpoints (R105 step 1) -/

theorem headD_le_of_mem {bp : List Int} {x : Int} (hbp : bp.Pairwise (· < ·)) (hx : x ∈ bp) : bp.headD 0 ≤ x := by
  have hle : bp.Pairwise (· ≤ ·) := hbp.imp Int.le_of_lt
  simpa [List.headD_eq_head?_getD, List.head?_eq_some_head (List.ne_nil_of_mem hx)] using
    hle.rel_head hx

theorem le_getLastD_of_mem {bp : List Int} {x : Int} (hbp : bp.Pairwise (· < ·)) (hx : x ∈ bp) :
    x ≤ bp.getLastD 0 := by
  have hle : bp.Pairwise (· ≤ ·) := hbp.imp Int.le_of_lt
  simpa [List.getLastD_eq_getLast?, List.getLast?_eq_some_getLast (List.ne_nil_of_mem hx)] using hle.rel_getLast hx

theorem clampInt_of_between {lo hi x : Int} (hlo : lo ≤ x) (hhi : x ≤ hi) : clampInt lo hi x = x := by
  rw [clampInt, if_neg (by omega), if_neg (by omega)]

/-- A clamp in the spelling of lattice operations is taken up by the clamp between the same bounds. -/
theorem clampInt_max_min {lo hi : Int} (h : lo ≤ hi) (x : Int) :
    clampInt lo hi (max lo (min hi x)) = clampInt lo hi x := by
  unfold clampInt
  split_ifs <;> omega

/-- A value between two breakpoints is left as it is. -/
theorem clampTo_of_between {bp : List Int} {x0 x1 x : Int} (hbp : bp.Pairwise (· < ·)) (h0 : x0 ∈ bp) (h1 : x1 ∈ bp)
    (hx0 : x0 ≤ x) (hx1 : x ≤ x1) : clampTo bp x = x :=
  clampInt_of_between ((headD_le_of_mem hbp h0).trans hx0) (hx1.trans (le_getLastD_of_mem hbp h1))

/-- A value outside the breakpoints is taken as the nearest one. -/
theorem clampTo_nearest {bp : List Int} {lo hi : Int} (hbp : bp.Pairwise (· < ·)) (hlo : bp.head? = some lo)
    (hhi : bp.getLast? = some hi) (x : Int) : clampTo bp (max lo (min hi x)) = clampTo bp x := by
  have hle : lo ≤ hi := by
    simpa [hlo, List.headD_eq_head?_getD] using headD_le_of_mem hbp (List.mem_of_getLast? hhi)
  simpa [clampTo, List.headD_eq_head?_getD, List.getLastD_eq_getLast?, hlo, hhi] using clampInt_max_min hle x

theorem pairwise_map_ofNat {bp : List Nat} (hbp : bp.Pairwise (· < ·)) : (bp.map Int.ofNat).Pairwise (· < ·) :=
  hbp.map _ fun _ _ => Int.ofNat_lt.mpr

theorem clampTo_map_ofNat_nearest {bp : List Nat} {lo hi : Nat} (hbp : bp.Pairwise (· < ·)) (hlo : bp.head? = some lo)
    (hhi : bp.getLast? = some hi) (x : Nat) :
    clampTo (bp.map Int.ofNat) (max lo (min hi x) : Nat) = clampTo (bp.map Int.ofNat) x := by
  have h := clampTo_nearest (pairwise_map_ofNat hbp) (lo := lo) (hi := hi) (by simp [hlo]) (by simp [hhi]) x
  rwa [← Nat.cast_min, ← Nat.cast_max] at h

/-! ### The bracket of a value (R105 steps 2 and 3) -/

/-- The breakpoints `x0` and `x1` at `i` and `i + 1` bracket `x`: it lies from the first up to the second, which
itself counts only where it is the last breakpoint (R105). -/
structure Brackets (bp : List Int) (i : Nat) (x0 x1 x : Int) : Prop where
  ascends : bp.Pairwise (· < ·)
  left : bp[i]? = some x0
  right : bp[i + 1]? = some x1
  from_left : x0 ≤ x
  to_right : x < x1 ∨ bp.length = i + 2 ∧ x = x1

namespace Brackets

variable {bp : List Int} {i : Nat} {x0 x1 x : Int}

theorem of_map_ofNat {bp : List Nat} {i x0 x1 x : Nat} (hbp : bp.Pairwise (· < ·)) (h0 : bp[i]? = some x0)
    (h1 : bp[i + 1]? = some x1) (hx0 : x0 ≤ x) (hx1 : x < x1 ∨ bp.length = i + 2 ∧ x = x1) :
    Brackets (bp.map Int.ofNat) i x0 x1 x where
  ascends := pairwise_map_ofNat hbp
  left := by simp [h0]
  right := by simp [h1]
  from_left := by omega
  to_right := by
    rw [List.length_map]
    omega

/-- Without its first breakpoint, the list brackets the same value one index lower. -/
theorem tail {a : Int} (h : Brackets (a :: bp) (i + 1) x0 x1 x) : Brackets bp i x0 x1 x where
  ascends := h.ascends.tail
  left := h.left
  right := h.right
  from_left := h.from_left
  to_right := h.to_right.imp_right fun ⟨hlen, hx⟩ => ⟨Nat.succ.inj hlen, hx⟩

theorem head_le {a : Int} (h : Brackets (a :: bp) i x0 x1 x) : a ≤ x :=
  (headD_le_of_mem h.ascends (List.mem_of_getElem? h.left)).trans h.from_left

theorem distance_pos (h : Brackets bp i x0 x1 x) : 0 < x1 - x0 := by
  obtain ⟨h0, e0⟩ := List.getElem?_eq_some_iff.mp h.left
  obtain ⟨h1, e1⟩ := List.getElem?_eq_some_iff.mp h.right
  have hlt := List.pairwise_iff_getElem.mp h.ascends i (i + 1) h0 h1 (by omega)
  omega

theorem clampTo_eq (h : Brackets bp i x0 x1 x) : clampTo bp x = x := by
  have hx1 : x ≤ x1 := by rcases h.to_right with hlt | ⟨-, rfl⟩ <;> omega
  exact clampTo_of_between h.ascends (List.mem_of_getElem? h.left) (List.mem_of_getElem? h.right) h.from_left hx1

/-- The search, begun with the count `n`, stops at the bracket: it goes past each breakpoint whose successor is still at
or below the value, and not past the last pair. -/
theorem bracket_eq (h : Brackets bp i x0 x1 x) (n : Nat) : bracket x n bp = n + i := by
  induction i generalizing bp n with
  | zero =>
    match bp, h with
    | [_, _], _ => rfl
    | a :: b :: c :: rest, h =>
      have hb : b = x1 := by simpa using h.right
      have hx : x < x1 := h.to_right.resolve_right fun ⟨hlen, _⟩ => by simp at hlen
      rw [bracket, if_neg (by omega), Nat.add_zero]
  | succ i ih =>
    match bp, h with
    | [_], h | [_, _], h => simpa using h.right
    | a :: b :: c :: rest, h =>
      calc bracket x n (a :: b :: c :: rest)
          = bracket x (n + 1) (b :: c :: rest) := if_pos ⟨h.head_le, h.tail.head_le⟩
        _ = n + 1 + i := ih h.tail (n + 1)
        _ = n + (i + 1) := by omega

theorem fraction_eq (h : Brackets bp i x0 x1 x) : fraction bp i x = (x - x0, x1 - x0) := by
  simp [fraction, List.getD_eq_getElem?_getD, h.left, h.right]

end Brackets

/-! ### The grid value and the derate factor (R105 steps 4 and 5, R106 step 1) -/

/-- A cell of column `j` interpolated along rpm, times the distance of the rpm breakpoints (R105 step 4). -/
def MapData.alongRpm (m : MapData) (i j : Nat) (fr : Int × Int) : Int := lerp fr (m.cell i j) (m.cell (i + 1) j)

theorem MapData.grid_of_brackets {m : MapData} {rpm load i j : Nat} {x0 x1 y0 y1 : Int}
    (hr : Brackets (m.rpm.map Int.ofNat) i x0 x1 rpm) (hl : Brackets (m.load.map Int.ofNat) j y0 y1 load) :
    m.grid rpm load = (lerp (load - y0, y1 - y0) (m.alongRpm i j (rpm - x0, x1 - x0))
      (m.alongRpm i (j + 1) (rpm - x0, x1 - x0)), (x1 - x0) * (y1 - y0)) := by
  simp [MapData.grid, MapData.alongRpm, hr.clampTo_eq, hl.clampTo_eq, hr.bracket_eq, hl.bracket_eq, hr.fraction_eq,
    hl.fraction_eq]

theorem MapData.derate_of_brackets {m : MapData} {k : Nat} {t0 t1 temp : Int} (h : Brackets m.temps k t0 t1 temp) :
    m.derate temp =
      (lerp (temp - t0, t1 - t0) (m.factors.getD k 0) (m.factors.getD (k + 1) 0), t1 - t0) := by
  simp [MapData.derate, h.clampTo_eq, h.bracket_eq, h.fraction_eq]

theorem MapData.grid_congr {m : MapData} {r r' l l' : Nat}
    (hr : clampTo (m.rpm.map Int.ofNat) r = clampTo (m.rpm.map Int.ofNat) r')
    (hl : clampTo (m.load.map Int.ofNat) l = clampTo (m.load.map Int.ofNat) l') : m.grid r l = m.grid r' l' := by
  simp only [MapData.grid, hr, hl]

theorem MapData.derate_congr {m : MapData} {t t' : Int} (h : clampTo m.temps t = clampTo m.temps t') :
    m.derate t = m.derate t' := by
  simp only [MapData.derate, h]

/-! ### The one rounding (R106 step 2) -/

/-- With a positive divisor the quotient of naturals is the integer quotient, both rounded down; a negative dividend
gives 0 either way. -/
theorem quotient_toNat {d : Int} (hd : 0 < d) (n : Int) : quotient n.toNat d.toNat = (n / d).toNat := by
  rw [quotient, if_neg (by omega)]
  rcases Int.le_total 0 n with hn | hn
  · lift n to Nat using hn
    lift d to Nat using hd.le
    rfl
  · rw [Int.toNat_of_nonpos hn, Nat.zero_div, Int.toNat_of_nonpos (Int.ediv_nonpos_of_nonpos_of_neg hn hd)]

/-- The lookup from exact numerators and positive denominators of the grid value and the derate factor. -/
theorem MapData.lookup_of_grid_derate {m : MapData} {rpm load : Nat} {temp v dv f df : Int}
    (hv : m.grid rpm load = (v, dv)) (hf : m.derate temp = (f, df)) (hdv : 0 < dv) (hdf : 0 < df) (range : Nat) :
    m.lookup rpm load temp range = min (v * f / (dv * df * 1000)).toNat range := by
  have hd : 0 < dv * df * 1000 := by positivity
  simp only [MapData.lookup, hv, hf, quotient_toNat hd]

/-! ### The obligation -/

/-- Settles O40: between breakpoints by the brackets that the lookup finds on each axis; outside them because the grid
value and the derate factor depend on speed, load and temperature through their clamped values alone. -/
theorem mapLookupInterpolatesExactly : Obligations.MapLookupInterpolatesExactly := by
  intro m rpm load range temp hrpm hload htemps ar al at_
  refine ⟨?_, fun lo hi hlo hhi => ?_, fun lo hi hlo hhi => ?_, fun lo hi hlo hhi => ?_⟩
  · intro i j k x0 x1 y0 y1 t0 t1 hx0 hx1 hx hx' hy0 hy1 hy hy' ht0 ht1 ht ht'
    have br : Brackets (m.rpm.map Int.ofNat) i x0 x1 rpm := .of_map_ofNat ar hx0 hx1 hx (by omega)
    have bl : Brackets (m.load.map Int.ofNat) j y0 y1 load := .of_map_ofNat al hy0 hy1 hy (by omega)
    have bt : Brackets m.temps k t0 t1 temp := ⟨at_, ht0, ht1, ht, by omega⟩
    exact MapData.lookup_of_grid_derate (MapData.grid_of_brackets br bl) (MapData.derate_of_brackets bt)
      (Int.mul_pos br.distance_pos bl.distance_pos) bt.distance_pos range
  · rw [MapData.lookup, MapData.lookup, MapData.grid_congr (clampTo_map_ofNat_nearest ar hlo hhi rpm) rfl]
  · rw [MapData.lookup, MapData.lookup, MapData.grid_congr rfl (clampTo_map_ofNat_nearest al hlo hhi load)]
  · rw [MapData.lookup, MapData.lookup, MapData.derate_congr (clampTo_nearest at_ hlo hhi temp)]

end Sys2Proof.Machine
end

section
/-! Proofs about the lift test (R137, R138; log 51): what a settled state shows, what the fields of a TEST LIFT are read
as, each answer of TEST LIFT by the first check that fails, what the end of a test makes of the state, that a settled
unit under test takes neither a lift entry nor a lost lock, and from these the obligation. -/

namespace Sys2Proof.Machine

/-! ### Settled states (R122) -/

theorem LiftState.shows_eq_none_iff (st : LiftState) : st.shows = none ↔ ¬ (st = .high ∨ st = .low) := by
  cases st <;> simp [LiftState.shows]

theorem LiftState.waitsFor_of_settled {st : LiftState} (h : st = .high ∨ st = .low) : st.waitsFor = none := by
  rcases h with rfl | rfl <;> rfl

theorem LiftState.movesTo_of_settled {st : LiftState} (h : st = .high ∨ st = .low) : st.movesTo = none := by
  rcases h with rfl | rfl <;> rfl

theorem LiftState.announced_of_settled {st : LiftState} (h : st = .high ∨ st = .low) : st.announced = true := by
  rcases h with rfl | rfl <;> rfl

/-! ### The fields of TEST LIFT -/

theorem within?_num_of_within {lo hi : Nat} {v : Int} (h : (lo : Int) ≤ v ∧ v ≤ hi) :
    within? lo hi (.num v) = some v.toNat := if_pos h

theorem within?_num_of_beyond {lo hi : Nat} {v : Int} (h : ¬ ((lo : Int) ≤ v ∧ v ≤ hi)) :
    within? lo hi (.num v) = none := if_neg h

theorem unit?_unitNum (u : LiftUnit) : unit? (.num (unitNum u)) = some u := by
  cases u <;> rfl

theorem unit?_of_beyond {n : Int} (h : ¬ (1 ≤ n ∧ n ≤ 2)) : unit? (.num n) = none := by
  rw [unit?, within?_num_of_beyond (by simpa using h)]
  rfl

theorem testLiftFields_eq_none {fields : List Field} (h : ∀ n x, fields ≠ [.word .LIFT, .num n, .num x]) :
    testLiftFields fields = none := by
  unfold testLiftFields
  split
  · exact absurd rfl (h _ _)
  · rfl

/-! ### TEST LIFT by the first check that fails (R137) -/

/-- What TEST LIFT asks of a bound unit in RUN: the tracker STOPPED, the unit settled, no test running on it, no response
LOW in force (R137). -/
def State.fitsLiftTest (s : State) (u : LiftUnit) : Prop :=
  s.ckt.state = .stopped ∧ ((s.lfs.units.get u).state = .high ∨ (s.lfs.units.get u).state = .low) ∧
    (s.lfs.units.get u).test = none ∧ s.fmg.unitLow.get u = false

/-- The model's STATE check fails exactly on units that do not fit. -/
theorem State.not_fitsLiftTest_iff (s : State) (u : LiftUnit) : ¬ s.fitsLiftTest u ↔
    s.ckt.state ≠ .stopped ∨ (s.liftState u).shows = none ∨ (s.lfs.units.get u).test ≠ none ∨
      s.fmg.unitLow.get u = true := by
  simp only [State.fitsLiftTest, State.liftState, LiftState.shows_eq_none_iff, ← Bool.not_eq_false]
  tauto

theorem State.drive_eq_sends (s : State) (u : LiftUnit) (on : Bool) :
    s.drive u on = s.sends (s.solenoidNews u on) := by
  cases h : s.unitDriver u <;> simp [State.drive, State.solenoidNews, h, State.hand_eq_sends, State.sends]

theorem State.startLiftTest_eq_sends (s : State) (u : LiftUnit) (time : Nat) : s.startLiftTest u time =
    (s.updUnit u fun r => { r with test := some (s.now + ms time) }).sends (s.solenoidNews u true) :=
  State.drive_eq_sends _ u true

theorem State.doTestLift_of_malformed {fields : List Field} (h : ∀ n x, fields ≠ [.word .LIFT, .num n, .num x])
    (s : State) : s.doTestLift fields = s.answer .TEST .format := by
  rw [State.doTestLift, testLiftFields_eq_none h]

theorem State.doTestLift_of_beyond {n x : Int} (h : ¬ (1 ≤ n ∧ n ≤ 2 ∧ 1 ≤ x ∧ x ≤ 50)) (s : State) :
    s.doTestLift [.word .LIFT, .num n, .num x] = s.answer .TEST .range := by
  by_cases hn : 1 ≤ n ∧ n ≤ 2
  · have hx : within? 1 50 (.num x) = none := within?_num_of_beyond (by omega)
    simp [State.doTestLift, testLiftFields, hx]
  · simp [State.doTestLift, testLiftFields, unit?_of_beyond hn]

section
variable {s : State} {u : LiftUnit} {x : Int} (h1 : 1 ≤ x) (h50 : x ≤ 50)
include h1 h50

/-- With its fields in range, TEST LIFT goes through the checks of mode, binding and state. -/
theorem State.doTestLift_of_within : s.doTestLift [.word .LIFT, .num (unitNum u), .num x] =
    if !s.inRun then s.answer .TEST .mode
    else if !s.unitBound u then s.answer .TEST .unbound
    else if s.ckt.state ≠ .stopped ∨ (s.liftState u).shows = none ∨ (s.lfs.units.get u).test ≠ none ∨
        s.fmg.unitLow.get u = true then s.answer .TEST .state
    else (s.startLiftTest u x.toNat).answer .TEST .ok := by
  have hx : within? 1 50 (.num x) = some x.toNat := within?_num_of_within ⟨h1, h50⟩
  simp only [State.doTestLift, testLiftFields, unit?_unitNum, hx]

theorem State.doTestLift_outside_run (hm : s.smc.mode ≠ .run) :
    s.doTestLift [.word .LIFT, .num (unitNum u), .num x] = s.answer .TEST .mode := by
  simp [State.doTestLift_of_within h1 h50, State.inRun, hm]

variable (hm : s.smc.mode = .run)
include hm

theorem State.doTestLift_of_unbound (hb : s.unitBound u = false) :
    s.doTestLift [.word .LIFT, .num (unitNum u), .num x] = s.answer .TEST .unbound := by
  simp [State.doTestLift_of_within h1 h50, State.inRun, hm, hb]

variable (hb : s.unitBound u = true)
include hb

theorem State.doTestLift_of_not_fits (hf : ¬ s.fitsLiftTest u) :
    s.doTestLift [.word .LIFT, .num (unitNum u), .num x] = s.answer .TEST .state := by
  rw [State.doTestLift_of_within h1 h50, if_neg (by simp [State.inRun, hm]), if_neg (by simp [hb]),
    if_pos (s.not_fitsLiftTest_iff u |>.mp hf)]

theorem State.doTestLift_of_fits (hf : s.fitsLiftTest u) :
    s.doTestLift [.word .LIFT, .num (unitNum u), .num x] = (s.startLiftTest u x.toNat).answer .TEST .ok := by
  rw [State.doTestLift_of_within h1 h50, if_neg (by simp [State.inRun, hm]), if_neg (by simp [hb]),
    if_neg (mt (s.not_fitsLiftTest_iff u |>.mpr) (not_not_intro hf))]

end

theorem exec_testLift_of_begins {s t : State} {fields : List Field} (hs : s.begins .TEST fields t)
    (hc : fields.head? ≠ some (.word .CH)) : exec (.testLift fields) s = .next (t.doTestLift fields) := by
  have he : exec (.testLift fields) s = execTestLift fields s := rfl
  rw [he, execTestLift, if_neg hc, State.request_of_begins _ hs]

/-! ### The end of a test (R138) -/

theorem State.endLiftTest_eq (s : State) (u : LiftUnit) (cause : LiftCause) : s.endLiftTest u cause =
    if (s.lfs.units.get u).test.isSome then
      ((s.updUnit u fun r => { r with test := none }).sends (s.solenoidNews u false)).settle u cause
    else s := by
  cases h : (s.lfs.units.get u).test with
  | none => simp [State.endLiftTest, h]
  | some x =>
    simp only [State.endLiftTest, h, State.drive_eq_sends, Option.isSome_some, if_true]
    rfl

theorem exec_liftTestExpiry {s : State} {u : LiftUnit} {x : Time} (h : (s.lfs.units.get u).test = some x) :
    exec (.liftTestExpiry u) s = .next ((s.reachTime x).endLiftTest u .testEnd) := by
  have he : exec (.liftTestExpiry u) s = execLiftTestExpiry u s := rfl
  rw [he, execLiftTestExpiry, h]

/-! ### A settled unit under test (R135, R137; log 51) -/

theorem State.liftDecide_of_test {s : State} {u : LiftUnit} (h : (s.lfs.units.get u).test ≠ none) (cycle : Word32) :
    s.liftDecide u cycle = s := by
  simp [State.liftDecide, Option.isSome_iff_ne_none.mpr h]

theorem State.liftOpen_of_settled {s : State} {u : LiftUnit}
    (h : (s.lfs.units.get u).state = .high ∨ (s.lfs.units.get u).state = .low) : s.liftOpen u = s := by
  simp [State.liftOpen, State.liftState, LiftState.waitsFor_of_settled h]

theorem State.liftClose_of_settled {s : State} {u : LiftUnit}
    (h : (s.lfs.units.get u).state = .high ∨ (s.lfs.units.get u).state = .low) (cycle : Word32) :
    s.liftClose u cycle = s := by
  simp [State.liftClose, State.liftState, LiftState.movesTo_of_settled h]

theorem State.liftLockLost_of_settled {s : State} {u : LiftUnit}
    (h : (s.lfs.units.get u).state = .high ∨ (s.lfs.units.get u).state = .low) : s.liftLockLost u = s :=
  if_pos (LiftState.announced_of_settled h)

/-- A settled unit takes lock lost with no change of the Lift Sequencer; the entries it overtakes are dropped. -/
theorem exec_lfsLockLost_of_settled {s t : State} {u : LiftUnit} (ho : s.offers (.lfsLockLost u) t)
    (h : (t.lfs.units.get u).state = .high ∨ (t.lfs.units.get u).state = .low) :
    ∃ s', exec (.lfsLockLost u) s = .next s' ∧ s'.lfs = t.lfs := by
  obtain ⟨pre, post, e, hp, -, rfl⟩ := ho
  have hl := State.liftLockLost_of_settled
    (s := { s with handovers := pre.filter (fun x => !x.entryOf u) ++ post }) h
  have he := execLfsLockLost_of_before u pre post e hp
  rw [hl] at he
  exact ⟨_, he, rfl⟩

/-! ### The obligation -/

/-- Settles O51: each answer of TEST LIFT by the first check that fails; the three ends of a test by the one equation of
ending it; under test a LIFT_DECIDE is passed over for the test, the other entries and a lost lock because the unit is
settled. -/
theorem liftTestsRunAndEnd : Obligations.LiftTestsRunAndEnd := by
  refine ⟨fun s t fields hs hc => ?_, fun u => ⟨fun s x hx => ?_, fun s t => ⟨fun ho => ?_, fun ho => ?_, fun ho => ?_,
    fun ht hst => ⟨fun angle cycle => ⟨fun ho => ?_, fun ho => ?_, fun ho => ?_⟩, fun ho => ?_⟩⟩⟩⟩
  · rw [exec_testLift_of_begins hs hc]
    refine ⟨fun h => by rw [State.doTestLift_of_malformed h], ?_⟩
    rintro n x rfl
    refine ⟨fun h => by rw [State.doTestLift_of_beyond h], ?_⟩
    rintro u rfl h1 h50
    refine ⟨fun hm => ?_, fun hm hb => ?_, fun hm hb hf => ?_, fun hm hb hf => ?_⟩
    · rw [State.doTestLift_outside_run h1 h50 hm]
    · rw [State.doTestLift_of_unbound h1 h50 hm hb]
    · rw [State.doTestLift_of_not_fits h1 h50 hm hb hf]
    · rw [State.doTestLift_of_fits h1 h50 hm hb hf, State.startLiftTest_eq_sends]
      rfl
  · rw [exec_liftTestExpiry hx, State.endLiftTest_eq, if_pos (by simp [hx])]
    rfl
  · exact (execLfsStartNotification_of_offers u ho).trans (by rw [t.endLiftTest_eq u .abandon]; rfl)
  · exact (execLfsResponseChange_of_offers u true ho).trans (by rw [t.endLiftTest_eq u .response]; rfl)
  · exact execLfsResponseChange_of_offers u false ho
  · exact (execLfsLiftDecide_of_offers u angle cycle ho).trans (by rw [State.liftDecide_of_test ht cycle])
  · exact (execLfsLiftOpen_of_offers u angle cycle ho).trans (by rw [State.liftOpen_of_settled hst])
  · exact (execLfsLiftClose_of_offers u angle cycle ho).trans (by rw [State.liftClose_of_settled hst cycle])
  · exact exec_lfsLockLost_of_settled ho hst

end Sys2Proof.Machine
end

section
/-! Proofs about freeing a trace slot (R160): which slot stands at a place of the list and what replacing it makes of the
list, when no slot is in a state, each answer of TRCF, and what becomes of an edge record with no slot FILLING (R156);
from these the obligation. -/

namespace Sys2Proof.Machine

/-! ### Slots by their place (R154) -/

theorem Trb.slot_of_split {b : Trb} {pre post : List TraceSlot} {x : TraceSlot} (h : b.slots = pre ++ x :: post) :
    b.slot pre.length = x := by
  simp [Trb.slot, h]

theorem State.setSlot_of_split {s : State} {pre post : List TraceSlot} {x : TraceSlot}
    (h : s.trb.slots = pre ++ x :: post) (y : TraceSlot) :
    s.setSlot pre.length y = { s with trb := { s.trb with slots := pre ++ y :: post } } := by
  simp [State.setSlot, State.updTrb, h]

theorem Trb.first_eq_none_iff (b : Trb) (st : SlotState) : b.first st = none ↔ ∀ x ∈ b.slots, x.state ≠ st := by
  simp [Trb.first, List.findIdx?_eq_none_iff]

/-! ### TRCF (R160) -/

/-- TRCF asks nothing of the mode: where the request begins, the slot's own check decides. -/
theorem exec_trcf_of_begins {s t : State} {fields : List Field} (h : s.begins .TRCF fields t) :
    exec (.trcf fields) s = .next (t.doTrcf fields) := by
  have he : exec (.trcf fields) s = execTrcf fields s := rfl
  rw [he, execTrcf, State.request_of_begins _ h]

theorem State.doTrcf_of_malformed {fields : List Field} (h : ∀ v, fields ≠ [.num v]) (s : State) :
    s.doTrcf fields = s.answer .TRCF .format := by
  unfold State.doTrcf
  split
  · exact absurd rfl (h _)
  · rfl

theorem State.doTrcf_of_beyond {v : Int} (h : ¬ (1 ≤ v ∧ v ≤ 4)) (s : State) :
    s.doTrcf [.num v] = s.answer .TRCF .range := by
  have hv : within? 1 4 (.num v) = none := within?_num_of_beyond h
  simp only [State.doTrcf, hv]

section
variable {s : State} {pre post : List TraceSlot} {x : TraceSlot} (hs : s.trb.slots = pre ++ x :: post)
  (h4 : pre.length < 4)
include hs h4

/-- With its field in range, TRCF goes by the state of the slot that stands at its place. -/
theorem State.doTrcf_of_within : s.doTrcf [.num (pre.length + 1)] =
    if x.state = .free then s.answer .TRCF .empty
    else State.answer { s with trb := { s.trb with slots := pre ++ .reset :: post } } .TRCF .ok := by
  have hv : within? 1 4 (.num (pre.length + 1)) = some (pre.length + 1) := within?_num_of_within (by omega)
  simp only [State.doTrcf, hv, Nat.add_sub_cancel, Trb.slot_of_split hs, State.setSlot_of_split hs]

theorem State.doTrcf_of_free (hx : x.state = .free) :
    s.doTrcf [.num (pre.length + 1)] = s.answer .TRCF .empty := by
  rw [State.doTrcf_of_within hs h4, if_pos hx]

theorem State.doTrcf_of_occupied (hx : x.state = .ready ∨ x.state = .filling) : s.doTrcf [.num (pre.length + 1)] =
    State.answer { s with trb := { s.trb with slots := pre ++ .reset :: post } } .TRCF .ok := by
  have hfree : x.state ≠ .free := by rcases hx with hx | hx <;> simp [hx]
  rw [State.doTrcf_of_within hs h4, if_neg hfree]

end

/-! ### An edge record with no slot FILLING (R156) -/

theorem State.offerEdge_of_none_filling {s : State} (h : ∀ x ∈ s.trb.slots, x.state ≠ .filling) (e : EdgeRecord) :
    s.offerEdge e = s := by
  rw [State.offerEdge, (s.trb.first_eq_none_iff .filling).mpr h]

/-! ### The obligation -/

/-- Settles O45: each answer of TRCF by the form of its field, its range and the state of the slot at its place; the
edge record by the search for a FILLING slot, which finds none. -/
theorem trcfFreesASlot : Obligations.TrcfFreesASlot := by
  refine ⟨fun s t fields hb => ?_, fun s t e ho hf => ?_⟩
  · rw [exec_trcf_of_begins hb]
    refine ⟨fun h => by rw [State.doTrcf_of_malformed h], ?_⟩
    rintro v rfl
    refine ⟨fun h => by rw [State.doTrcf_of_beyond h], ?_⟩
    rintro pre x post - h4 hs rfl
    have hlen : pre.length < 4 := by omega
    refine ⟨fun hx => ?_, fun hx => by rw [State.doTrcf_of_free hs hlen hx]⟩
    rw [State.doTrcf_of_occupied hs hlen hx]
    rfl
  · exact (execTrbEdgeRecord_of_offers e ho).trans (by rw [State.offerEdge_of_none_filling hf])

end Sys2Proof.Machine
end

section
/-! What a command can do, said once (R43, R180; log 2, 3, 4): every command finds the part `ready`, and then either
leaves it so or does its one piece of work on it. From this inversion the invariants follow: the queue of commands, the
bounds, the locks. -/

namespace Sys2Proof.Machine

/-- `q` is `s` as the work of a command finds it: time may have gone on, handovers may have been taken, and a request may
have begun. -/
def State.ready (s q : State) : Prop :=
  ∃ n l r a, q = { s with now := n, handovers := l, clp := { s.clp with request := r, arm := a } }

/-- `Does q c t`: the work of the command `c` on the state `q` makes `t` of it. -/
inductive Does (q : State) : Instr → State → Prop
  | powerOn {dt volts : Nat} :
    Does q (.powerOn dt volts) ((q.updSmc fun m => { m with supply := volts }).beginReset .powerOn)
  | brownout {dt volts : Nat} :
    Does q (.supplyCrossing dt volts) ((q.updSmc fun m => { m with supply := volts }).beginReset .brownout)
  | supplyInReset {dt volts : Nat} : Does q (.supplyCrossing dt volts) (q.updSmc fun m => { m with supply := volts })
  | supplyCrossing {dt volts : Nat} : Does q (.supplyCrossing dt volts)
      ((q.updSmc fun m => { m with supply := volts }).changeSupply (q.smc.supplyState.next volts))
  | rstnLow {dt : Nat} : Does q (.lineReset dt) (q.updSmc fun m => { m with rstnLow := true })
  | lineReset {dt : Nat} : Does q (.lineReset dt) ((q.updSmc fun m => { m with rstnLow := true }).beginReset .line)
  | lineRequestReset : Does q .lineRequestReset (q.beginReset .lineRequest)
  | resetRelease {dt : Nat} : Does q (.resetRelease dt) q.releaseReset
  | supplyLowRepeat {x : Option Time} : Does q .supplyLowRepeat
      ((q.updSmc fun m => { m with repeatTimer := x }).report .smc .supplyLow .present)
  | startUpTimerExpiry {on : Bool} {n : Nat} : Does q .startUpTimerExpiry { q.startUp on with freeCount := n }
  | noise {dt hold : Nat} : Does q (.crkEdge dt hold) q.discardEdge
  | crkEdge {dt hold : Nat} {w : Wheel} {i : Option Word32} : Does q (.crkEdge dt hold) (q.acceptEdge w i hold)
  | stallTimerExpiry : Does q .stallTimerExpiry q.stallExpires
  | angleClockReach {au hold n : Nat} : Does q (.angleClockReach au hold) (q.runAngles n hold)
  | referenceReport {seen lap : Bool} : Does q .referenceReport (q.takeReport seen lap)
  | ascLockGained : Does q .ascLockGained q.buildList
  | ascLockLost : Does q .ascLockLost q.emptyList
  | camEdge {dt age : Nat} {i : LineABCD} {p : Polarity} {x : PerOcv Time} {t : Word32} : Does q (.camEdge dt age i p)
      (State.takeCamEdge { q with ceu := { q.ceu with stamps := x } } i p t)
  | ceuEdgeClose {ch : Chan} {k : Nat} {n : Word32} : Does q .ceuEdgeClose (q.closeWindow ch k n)
  | ceuCycleStart : Does q .ceuCycleStart q.ceuCycleStart
  | ceuLockGained : Does q .ceuLockGained q.ceuLockGained
  | ceuLockLost : Does q .ceuLockLost q.ceuLockLost
  | phcMatch {ch : Chan} {n : Word32} : Does q (.phcMatch ch) (q.phcTakesMatch ch n)
  | phcMeasurementMissing {ch : Chan} : Does q (.phcMeasurementMissing ch) (q.addHold ch .measure)
  | phcLockLost {ch : Chan} : Does q (.phcLockLost ch) (q.parkIfDriving ch .lock)
  | phcStartNotification {ch : Chan} : Does q (.phcStartNotification ch) (q.endTest ch .abandon)
  | releaseTimerExpiry {ch : Chan} : Does q (.releaseTimerExpiry ch) (q.track ch .released)
  | holdLimitExpiry {ch : Chan} : Does q (.holdLimitExpiry ch) (q.parkIfDriving ch .limit)
  | parkTimerExpiry {ch : Chan} : Does q (.parkTimerExpiry ch) (q.parkExpires ch)
  | testTimerExpiry {ch : Chan} : Does q (.testTimerExpiry ch) (q.endTest ch .testEnd)
  | phcClaimPlaced {ch : Chan} : Does q (.phcClaimPlaced ch) (q.takesClaim ch)
  | phcClaimReleased {ch : Chan} : Does q (.phcClaimReleased ch) (q.causeGone ch .claim)
  | phcSupplyChange {ch : Chan} {st : SupplyState} : Does q (.phcSupplyChange ch) (q.takesSupply ch st)
  | phcResponseChange {ch : Chan} {a : PhaserAction} : Does q (.phcResponseChange ch) (q.takesResponse ch a)
  | phcSourceChange {ch : Chan} {x : Source} : Does q (.phcSourceChange ch) (q.takesSource ch x)
  | phcDriverFault {ch : Chan} {class1 : Bool} : Does q (.phcDriverFault ch)
      (if class1 then q.shortFault ch else q.driverFault ch)
  | phcClass1Report {ch : Chan} {short : Bool} : Does q (.phcClass1Report ch)
      (if short then q.shortFault ch else q.class1 ch)
  | phcDriverClear {ch : Chan} : Does q (.phcDriverClear ch) (q.driverCleared ch)
  | phcOpptOil {k : Nat} : Does q .phcOpptOil (q.watchOil k)
  | phcOpptChanged : Does q .phcOpptChanged (forEach allChans State.evaluate q)
  | tgaCycleStart : Does q .tgaCycleStart q.tgaCycle
  | tgaResponseChange {ch : Chan} {a : PhaserAction} : Does q (.tgaResponseChange ch) (q.tgaTakesResponse ch a)
  | stalenessTimerExpiry {x : Time} : Does q .stalenessTimerExpiry (q.staleExpires x)
  | trbCycleStart {n : Word32} : Does q .trbCycleStart ((q.closeSlot false).openSlot n)
  | trbEdgeRecord {r : EdgeRecord} : Does q .trbEdgeRecord (q.offerEdge r)
  | trbLockLost : Does q .trbLockLost (q.offerHanded.closeSlot true)
  | triggerPush {c : TraceCause} : Does q .triggerPush (q.push c)
  | lfsLiftDecide {u : LiftUnit} {n : Word32} : Does q (.lfsLiftDecide u) (q.liftDecide u n)
  | lfsLiftOpen {u : LiftUnit} : Does q (.lfsLiftOpen u) (q.liftOpen u)
  | lfsLiftClose {u : LiftUnit} {n : Word32} : Does q (.lfsLiftClose u) (q.liftClose u n)
  | travelTimerExpiry {u : LiftUnit} : Does q (.travelTimerExpiry u) (q.endTravel u)
  | pinSenseSample {a b : Bool} {x : Time} : Does q (.pinSenseSample a b)
      ((State.sampleInput { q with lfs := { q.lfs with nextSample := x } } .A a).sampleInput .B b)
  | senseChange {u : LiftUnit} {h : Bool} : Does q (.senseChange u) (q.takesSense u h)
  | lfsLockLost {u : LiftUnit} : Does q (.lfsLockLost u) (q.liftLockLost u)
  | lfsStartNotification {u : LiftUnit} : Does q (.lfsStartNotification u) (q.endLiftTest u .abandon)
  | lfsResponseChange {u : LiftUnit} {low : Bool} : Does q (.lfsResponseChange u)
      (if low then q.endLiftTest u .response else q)
  | stuckAction {u : LiftUnit} : Does q (.stuckAction u) (q.stickUnit u)
  | unitClear {u : LiftUnit} : Does q (.unitClear u) (q.clearUnit u)
  | liftTestExpiry {u : LiftUnit} : Does q (.liftTestExpiry u) (q.endLiftTest u .testEnd)
  | ocvPeriodStart {o : LineABCD} : Does q (.ocvPeriodStart o) (q.nextPeriod o)
  | onPeriodEnd {o : LineABCD} {cur : Bool} {r : OcvRec} {len : Nat} : Does q (.onPeriodEnd o cur)
      ((q.setOcv o r).judgeOcv o len cur)
  | fullPeriodEnd {o : LineABCD} {cur : Bool} {r : OcvRec} {len : Nat} : Does q (.onPeriodEnd o cur)
      (((q.setOcv o r).judgeOcv o len cur).nextPeriod o)
  | overcurrent {dt : Nat} {x : Out} : Does q (.overcurrent dt x) (q.trip x)
  | lsOnLimit {o : LineAB} {cur : Bool} {r : LsRec} {len : Nat} : Does q (.lsOnLimit o cur)
      ((q.setLs o r).judgeLs o len cur)
  | normalWrite {o : LineABCD} {d : Nat} : Does q (.normalWrite o) (q.normalWrite o d)
  | immediateWrite {o : LineABCD} {cur : Bool} {d : Nat} : Does q (.immediateWrite o cur) (q.immediateWrite o d cur)
  | energize {o : LineAB} : Does q (.energize o) (q.energizeLs o)
  | deEnergize {o : LineAB} {cur : Bool} : Does q (.deEnergize o cur) (q.cutLs o cur)
  | vdrEnableEvaluation {x : Out} {cur : Bool} : Does q (.vdrEnableEvaluation x cur) (q.evalOut x cur)
  | vdrDriverClear {x : Out} : Does q (.vdrDriverClear x) (q.untrip x)
  | faultPresent {id : FaultId} : Does q (.faultPresent id) (q.takePresent id)
  | faultGone {id : FaultId} : Does q (.faultGone id) (q.takeGone id)
  | faultEvent {id : FaultId} : Does q (.faultEvent id) (q.takeEvent id)
  | fmgLockoutChange : Does q .fmgLockoutChange q.evalFlt
  | cstSupplyChange {st : SupplyState} : Does q .cstSupplyChange (q.cstTakesSupply st)
  | savePageEnd {dt : Nat} {r : Region} {gen : Gen} {image : TableImage} (h : q.cst.op.kind = .save r gen image) :
    Does q (.savePageEnd dt) (q.endPage r gen image)
  | sweepDamaged {dt n : Nat} (h : q.cst.op.kind = .sweep) : Does q (.sweepPageCheck dt) (q.sweepDamaged n)
  | sweepOn {dt n : Nat} (h : q.cst.op.kind = .sweep) : Does q (.sweepPageCheck dt) (q.sweepOn n)
  | resumeTimerExpiry : Does q .resumeTimerExpiry q.resumeOp
  | lineGapTimeout : Does q .lineGapTimeout (q.updClp Clp.dropLine)
  | lineComplete {dt : Nat} {n : Time} : Does q (.lineComplete dt) (q.updClp fun c => c.endLine n)
  | lineTaken {l : RxLine} {rest : List RxLine} (h : q.clp.buffer = l :: rest) :
    Does q .lineTaken (q.updClp fun c => c.takeLine l)
  | lineSent {dt : Nat} : Does q (.lineSent dt) (q.updClp Clp.lineEnds)
  | noticeHandedIn {b : Block} {n : Notice} : Does q (.noticeHandedIn b) (q.updClp fun c => c.takeNotice n)
  | armLapse : Does q .armLapse q.disarm
  | stat {fields : List Field} : Does q (.stat fields) (q.doStat fields)
  | arms {fields : List Field} : Does q (.arms fields) (q.doArms fields)
  | nmsk {fields : List Field} : Does q (.nmsk fields) (q.doNmsk fields)
  | idnt {fields : List Field} : Does q (.idnt fields) (q.doIdnt fields)
  | modeRun {fields : List Field} : Does q (.modeRun fields) (q.doModeRun fields)
  | modeStandby {fields : List Field} {seen : LoadSeen} : Does q (.modeStandby fields seen) (q.doModeStandby fields seen)
  | rset {fields : List Field} {armed : Bool} : Does q (.rset fields) (q.disarm.doRset fields armed)
  | layr {fields : List Field} : Does q (.layr fields) (q.doLayr fields)
  | layw {fields : List Field} : Does q (.layw fields) (q.doLayw fields)
  | tunr {fields : List Field} : Does q (.tunr fields) (q.doTunr fields)
  | tunw {fields : List Field} : Does q (.tunw fields) (q.doTunw fields)
  | oppt {fields : List Field} : Does q (.oppt fields) (q.doOppt fields)
  | mapr {fields : List Field} : Does q (.mapr fields) (q.doMapr fields)
  | mapw {fields : List Field} : Does q (.mapw fields) (q.doMapw fields)
  | testCh {fields : List Field} : Does q (.testCh fields) (q.doTestCh fields)
  | testLift {fields : List Field} : Does q (.testLift fields) (q.doTestLift fields)
  | clrl {fields : List Field} {armed : Bool} : Does q (.clrl fields) (q.disarm.doClrl fields armed)
  | rspr {fields : List Field} : Does q (.rspr fields) (q.doRspr fields)
  | rspw {fields : List Field} : Does q (.rspw fields) (q.doRspw fields)
  | fltr {fields : List Field} : Does q (.fltr fields) (q.doFltr fields)
  | fltc {fields : List Field} : Does q (.fltc fields) (q.doFltc fields)
  | trct {fields : List Field} : Does q (.trct fields) (q.doTrct fields)
  | trcr {fields : List Field} : Does q (.trcr fields) (q.doTrcr fields)
  | trcf {fields : List Field} : Does q (.trcf fields) (q.doTrcf fields)
  | save {on : Bool} {fields : List Field} : Does q (.save on fields) ((q.seeGuard on).doSave fields)
  | swep {fields : List Field} : Does q (.swep fields) (q.doSwep fields)
  | abrt {fields : List Field} : Does q (.abrt fields) (q.doAbrt fields)
  | page {fields : List Field} : Does q (.page fields) (q.doPage fields)
  | stst {on : Bool} {fields : List Field} : Does q (.stst on fields) ((q.seeGuard on).doStst fields)
  | lock {fields : List Field} {armed : Bool} : Does q (.lock fields) (q.disarm.doLock fields armed)
  | characterReceived {dt : Nat} {c : Byte} {init : Bool} {n : Time} : Does q (.characterReceived dt c)
      (q.updClp fun p => p.takeChar init n c)

/-- The command `c` makes `t` of `s`: it leaves the part ready, or does its work on it. -/
def State.steps (s : State) (c : Instr) (t : State) : Prop := ∃ q, s.ready q ∧ (t = q ∨ Does q c t)

theorem State.ready_refl (s : State) : s.ready s := ⟨_, _, _, _, rfl⟩
theorem State.ready_pass (s : State) (dt : Nat) : s.ready (s.pass dt) := ⟨_, _, _, _, rfl⟩
theorem State.ready_reachTime (s : State) (x : Time) : s.ready (s.reachTime x) := ⟨_, _, _, _, rfl⟩
theorem State.ready_begun (s : State) (k : Keyword) : s.ready (s.begun k) := ⟨_, _, _, _, rfl⟩
theorem State.ready_handovers (s : State) (l : List Handover) : s.ready { s with handovers := l } := ⟨_, _, _, _, rfl⟩

theorem State.ready_passTo (s : State) (x : Option Word32) (d : Nat) : s.ready (s.passTo x d) :=
  ⟨_, _, _, _, rfl⟩

namespace State.steps

variable {s t q : State} {c : Instr}

theorem of_ready (h : s.ready q) : s.steps c q := ⟨q, h, .inl rfl⟩
theorem of_does (h : s.ready q) (hd : Does q c t) : s.steps c t := ⟨q, h, .inr hd⟩
theorem refl : s.steps c s := of_ready s.ready_refl

theorem taking {α : Type} {want : Handover → Option α} {act : α → State → State} (h : ∀ a q, Does q c (act a q)) :
    s.steps c (s.taking want act) := by
  obtain e | ⟨a, l, e⟩ := s.taking_cases want act <;> rw [e]
  · exact refl
  · exact of_does (s.ready_handovers l) (h a _)

theorem takingOver {α : Type} {want : Handover → Option α} {stale : Handover → Bool} {act : α → State → State}
    (h : ∀ a q, Does q c (act a q)) : s.steps c (s.takingOver want stale act) := by
  obtain e | ⟨a, l, e⟩ := s.takingOver_cases want stale act <;> rw [e]
  · exact refl
  · exact of_does (s.ready_handovers l) (h a _)

theorem request {k : Keyword} {fields : List Field} {act : State → State} (h : ∀ q, Does q c (act q)) :
    s.steps c (s.request k fields act) := by
  obtain e | e := s.request_cases k fields act <;> rw [e]
  · exact refl
  · exact of_does (s.ready_begun k) (h _)

end State.steps

/-- The command `c` answers a next state of `s`, and one that its work makes. -/
def State.answersNext (s : State) (c : Instr) (o : Outcome) : Prop := ∃ t, o = .next t ∧ s.steps c t

namespace State.answersNext

variable {s t q : State} {c : Instr}

theorem of_steps (h : s.steps c t) : s.answersNext c (.next t) := ⟨t, rfl, h⟩
theorem refl : s.answersNext c (.next s) := of_steps .refl
theorem of_ready (h : s.ready q) : s.answersNext c (.next q) := of_steps (.of_ready h)
theorem of_does (h : s.ready q) (hd : Does q c t) : s.answersNext c (.next t) := of_steps (.of_does h hd)

theorem taking {α : Type} {want : Handover → Option α} {act : α → State → State} (h : ∀ a q, Does q c (act a q)) :
    s.answersNext c (.next (s.taking want act)) := of_steps (.taking h)

theorem takingOver {α : Type} {want : Handover → Option α} {stale : Handover → Bool} {act : α → State → State}
    (h : ∀ a q, Does q c (act a q)) : s.answersNext c (.next (s.takingOver want stale act)) := of_steps (.takingOver h)

theorem request {k : Keyword} {fields : List Field} {act : State → State} (h : ∀ q, Does q c (act q)) :
    s.answersNext c (.next (s.request k fields act)) := of_steps (.request h)

/-- An expiry: the command does its work where a time stands, and nothing where none does (log 4). -/
theorem expiry {x : Option Time} {act : Time → State → State} (h : ∀ n q, Does q c (act n q)) :
    s.answersNext c (match x with
      | some n => .next (act n (s.reachTime n))
      | none => .next s) := by
  cases x with
  | some n => exact of_does (s.ready_reachTime n) (h n _)
  | none => exact refl

end State.answersNext

open State.answersNext in
/-- Every command answers a next state: it finds the part ready and does its work, or nothing. -/
theorem exec_answersNext (c : Instr) (s : State) : s.answersNext c (exec c s) := by
  cases c with
  | powerOn dt volts => exact of_does (s.ready_pass dt) .powerOn
  | supplyCrossing dt volts =>
    change s.answersNext _ (execSupplyCrossing dt volts s)
    dsimp only [execSupplyCrossing]
    split_ifs
    · exact of_does (s.ready_pass dt) .brownout
    · exact of_does (s.ready_pass dt) .supplyInReset
    · exact of_does (s.ready_pass dt) .supplyCrossing
  | lineReset dt =>
    change s.answersNext _ (execLineReset dt s)
    dsimp only [execLineReset]
    split_ifs
    · exact of_does (s.ready_pass dt) .rstnLow
    · exact of_does (s.ready_pass dt) .lineReset
  | lineRequestReset =>
    change s.answersNext _ (execLineRequestReset s)
    unfold execLineRequestReset
    split_ifs
    · exact of_does s.ready_refl .lineRequestReset
    · exact refl
  | resetRelease dt =>
    change s.answersNext _ (execResetRelease dt s)
    dsimp only [execResetRelease]
    split_ifs
    · exact of_does (s.ready_pass dt) .resetRelease
    · exact of_ready (s.ready_pass dt)
  | supplyLowRepeat =>
    change s.answersNext _ (execSupplyLowRepeat s)
    unfold execSupplyLowRepeat
    exact expiry (act := fun n s => (s.updSmc fun m => { m with repeatTimer := some (n + ms 100) }).report .smc .supplyLow
      .present) fun n q => .supplyLowRepeat
  | startUpTimerExpiry =>
    change s.answersNext _ (execStartUpTimerExpiry s)
    unfold execStartUpTimerExpiry
    exact expiry (act := fun n q => { q.startUp (Config.guardAtStartUp s.freeCount) with freeCount := s.freeCount + 1 })
      fun n q => .startUpTimerExpiry
  | crkEdge dt hold =>
    change s.answersNext _ (execCrkEdge dt hold s)
    dsimp only [execCrkEdge]
    split
    · split
      · exact of_does (s.ready_pass dt) .noise
      · exact of_does (s.ready_pass dt) .crkEdge
    · exact of_ready (s.ready_pass dt)
  | stallTimerExpiry => exact expiry (act := fun _ s => s.stallExpires) fun n q => .stallTimerExpiry
  | angleClockReach au hold =>
    change s.answersNext _ (execAngleClockReach au hold s)
    unfold execAngleClockReach
    split
    · exact refl
    · dsimp only
      split_ifs
      · exact refl
      · exact of_does (s.ready_pass _) .angleClockReach
  | referenceReport => exact taking fun _ _ => .referenceReport
  | ascLockGained => exact taking fun _ _ => .ascLockGained
  | ascLockLost => exact taking fun _ _ => .ascLockLost
  | camEdge dt age i p =>
    change s.answersNext _ (execCamEdge dt age i p s)
    dsimp only [execCamEdge]
    split_ifs
    · exact of_ready (s.ready_pass dt)
    · exact of_does (s.ready_pass dt) .camEdge
  | ceuEdgeClose => exact taking fun _ _ => .ceuEdgeClose
  | ceuCycleStart => exact taking fun _ _ => .ceuCycleStart
  | ceuLockGained => exact taking fun _ _ => .ceuLockGained
  | ceuLockLost => exact takingOver fun _ _ => .ceuLockLost
  | phcMatch ch => exact taking fun _ _ => .phcMatch
  | phcMeasurementMissing ch => exact taking fun _ _ => .phcMeasurementMissing
  | phcLockLost ch => exact taking fun _ _ => .phcLockLost
  | phcStartNotification ch => exact taking fun _ _ => .phcStartNotification
  | releaseTimerExpiry ch => exact expiry (act := fun _ s => s.track ch .released) fun _ _ => .releaseTimerExpiry
  | holdLimitExpiry ch => exact expiry (act := fun _ s => s.parkIfDriving ch .limit) fun _ _ => .holdLimitExpiry
  | parkTimerExpiry ch => exact expiry (act := fun _ s => s.parkExpires ch) fun _ _ => .parkTimerExpiry
  | testTimerExpiry ch => exact expiry (act := fun _ s => s.endTest ch .testEnd) fun _ _ => .testTimerExpiry
  | phcClaimPlaced ch => exact taking fun _ _ => .phcClaimPlaced
  | phcClaimReleased ch => exact taking fun _ _ => .phcClaimReleased
  | phcSupplyChange ch => exact taking fun _ _ => .phcSupplyChange
  | phcResponseChange ch => exact taking fun _ _ => .phcResponseChange
  | phcSourceChange ch => exact taking fun _ _ => .phcSourceChange
  | phcDriverFault ch => exact taking fun _ _ => .phcDriverFault
  | phcClass1Report ch => exact taking fun _ _ => .phcClass1Report
  | phcDriverClear ch => exact taking fun _ _ => .phcDriverClear
  | phcOpptOil => exact taking fun _ _ => .phcOpptOil
  | phcOpptChanged => exact taking fun _ _ => .phcOpptChanged
  | tgaCycleStart => exact taking fun _ _ => .tgaCycleStart
  | tgaResponseChange ch => exact taking fun _ _ => .tgaResponseChange
  | stalenessTimerExpiry =>
    change s.answersNext _ (execStalenessTimerExpiry s)
    unfold execStalenessTimerExpiry
    split
    · exact of_does (s.ready_reachTime _) .stalenessTimerExpiry
    · exact refl
  | trbCycleStart => exact taking fun _ _ => .trbCycleStart
  | trbEdgeRecord => exact taking fun _ _ => .trbEdgeRecord
  | trbLockLost => exact takingOver fun _ _ => .trbLockLost
  | triggerPush => exact taking fun _ _ => .triggerPush
  | lfsLiftDecide u => exact taking fun _ _ => .lfsLiftDecide
  | lfsLiftOpen u => exact taking fun _ _ => .lfsLiftOpen
  | lfsLiftClose u => exact taking fun _ _ => .lfsLiftClose
  | travelTimerExpiry u => exact expiry (act := fun _ s => s.endTravel u) fun _ _ => .travelTimerExpiry
  | pinSenseSample a b =>
    change s.answersNext _ (execPinSenseSample a b s)
    dsimp only [execPinSenseSample]
    split_ifs
    · exact refl
    · exact of_does (s.ready_reachTime _) .pinSenseSample
  | senseChange u => exact taking fun _ _ => .senseChange
  | lfsLockLost u => exact takingOver fun _ _ => .lfsLockLost
  | lfsStartNotification u => exact taking fun _ _ => .lfsStartNotification
  | lfsResponseChange u => exact taking fun _ _ => .lfsResponseChange
  | stuckAction u => exact taking fun _ _ => .stuckAction
  | unitClear u => exact taking fun _ _ => .unitClear
  | liftTestExpiry u => exact expiry (act := fun _ s => s.endLiftTest u .testEnd) fun _ _ => .liftTestExpiry
  | ocvPeriodStart o =>
    change s.answersNext _ (execOcvPeriodStart o s)
    dsimp only [execOcvPeriodStart]
    split_ifs
    · exact of_does (s.ready_passTo _ _) .ocvPeriodStart
    · exact refl
  | onPeriodEnd o cur =>
    change s.answersNext _ (execOnPeriodEnd o cur s)
    dsimp only [execOnPeriodEnd]
    split_ifs
    · exact refl
    · exact of_does (s.ready_passTo _ _) .onPeriodEnd
    · exact refl
    · exact of_does (s.ready_passTo _ _) .fullPeriodEnd
  | overcurrent dt x => exact of_does (s.ready_pass dt) .overcurrent
  | lsOnLimit o cur =>
    change s.answersNext _ (execLsOnLimit o cur s)
    dsimp only [execLsOnLimit]
    split_ifs
    · exact of_does (s.ready_passTo _ _) .lsOnLimit
    · exact refl
  | normalWrite o => exact taking fun _ _ => .normalWrite
  | immediateWrite o cur => exact taking fun _ _ => .immediateWrite
  | energize o => exact taking fun _ _ => .energize
  | deEnergize o cur => exact taking fun _ _ => .deEnergize
  | vdrEnableEvaluation x cur => exact takingOver fun _ _ => .vdrEnableEvaluation
  | vdrDriverClear x => exact taking fun _ _ => .vdrDriverClear
  | faultPresent id => exact taking fun _ _ => .faultPresent
  | faultGone id => exact taking fun _ _ => .faultGone
  | faultEvent id => exact taking fun _ _ => .faultEvent
  | fmgLockoutChange => exact taking fun _ _ => .fmgLockoutChange
  | cstSupplyChange => exact taking fun _ _ => .cstSupplyChange
  | savePageEnd dt =>
    change s.answersNext _ (execSavePageEnd dt s)
    unfold execSavePageEnd
    split
    next hk _ => exact of_does (s.ready_pass dt) (.savePageEnd hk)
    · exact refl
  | sweepPageCheck dt =>
    change s.answersNext _ (execSweepPageCheck dt s)
    unfold execSweepPageCheck
    split
    next hk _ =>
      dsimp only
      split_ifs
      · exact of_does (s.ready_pass dt) (.sweepDamaged hk)
      · exact of_does (s.ready_pass dt) (.sweepOn hk)
    · exact refl
  | resumeTimerExpiry => exact expiry (act := fun _ s => s.resumeOp) fun _ _ => .resumeTimerExpiry
  | lineGapTimeout =>
    change s.answersNext _ (execLineGapTimeout s)
    unfold execLineGapTimeout
    split
    · split_ifs
      · exact refl
      · exact of_does (s.ready_reachTime _) .lineGapTimeout
    · exact refl
  | lineComplete dt =>
    change s.answersNext _ (execLineComplete dt s)
    dsimp only [execLineComplete]
    split_ifs
    · exact of_ready (s.ready_pass dt)
    · exact of_does (s.ready_pass dt) .lineComplete
  | lineTaken =>
    change s.answersNext _ (execLineTaken s)
    unfold execLineTaken
    split
    next hb => exact of_does s.ready_refl (.lineTaken hb)
    · exact refl
  | lineSent dt =>
    change s.answersNext _ (execLineSent dt s)
    unfold execLineSent
    split
    · exact of_does (s.ready_pass dt) .lineSent
    · exact refl
  | noticeHandedIn b => exact taking fun _ _ => .noticeHandedIn
  | armLapse =>
    change s.answersNext _ (execArmLapse s)
    unfold execArmLapse
    split
    · split_ifs
      · exact refl
      · exact of_does (s.ready_reachTime _) .armLapse
    · exact refl
  | stat fields => exact request fun _ => .stat
  | arms fields => exact request fun _ => .arms
  | nmsk fields => exact request fun _ => .nmsk
  | idnt fields => exact request fun _ => .idnt
  | modeRun fields =>
    change s.answersNext _ (execModeRun fields s)
    unfold execModeRun
    split_ifs
    · exact refl
    · exact request fun _ => .modeRun
  | modeStandby fields seen =>
    change s.answersNext _ (execModeStandby fields seen s)
    unfold execModeStandby
    split_ifs
    · exact refl
    · exact request fun _ => .modeStandby
  | rset fields => exact request fun _ => .rset
  | layr fields => exact request fun _ => .layr
  | layw fields => exact request fun _ => .layw
  | tunr fields => exact request fun _ => .tunr
  | tunw fields => exact request fun _ => .tunw
  | oppt fields => exact request fun _ => .oppt
  | mapr fields => exact request fun _ => .mapr
  | mapw fields => exact request fun _ => .mapw
  | testCh fields =>
    change s.answersNext _ (execTestCh fields s)
    unfold execTestCh
    split_ifs
    · exact refl
    · exact request fun _ => .testCh
  | testLift fields =>
    change s.answersNext _ (execTestLift fields s)
    unfold execTestLift
    split_ifs
    · exact refl
    · exact request fun _ => .testLift
  | clrl fields => exact request fun _ => .clrl
  | rspr fields => exact request fun _ => .rspr
  | rspw fields => exact request fun _ => .rspw
  | fltr fields => exact request fun _ => .fltr
  | fltc fields => exact request fun _ => .fltc
  | trct fields => exact request fun _ => .trct
  | trcr fields => exact request fun _ => .trcr
  | trcf fields => exact request fun _ => .trcf
  | save on fields => exact request fun _ => .save
  | swep fields => exact request fun _ => .swep
  | abrt fields => exact request fun _ => .abrt
  | page fields => exact request fun _ => .page
  | stst on fields => exact request fun _ => .stst
  | lock fields => exact request fun _ => .lock
  | characterReceived dt b =>
    change s.answersNext _ (execCharacterReceived dt b s)
    dsimp only [execCharacterReceived]
    split_ifs
    · exact of_ready (s.ready_pass dt)
    · exact of_does (s.ready_pass dt) .characterReceived

/-- A step makes of the part what its front command does, or lets time pass. -/
theorem step_cases {s t : State} (h : step s = .next t) :
    t = s.pass 1 ∨ ∃ c rest, s.pending = c :: rest ∧ State.steps { s with pending := rest } c t := by
  unfold step at h
  split at h
  · exact .inl (by simpa using h.symm)
  next c rest hp =>
    obtain ⟨t', e, ht⟩ := exec_answersNext c { s with pending := rest }
    rw [e] at h
    cases h
    exact .inr ⟨c, rest, hp, ht⟩

/-- A property of the state that readiness and every work keep, every step keeps. -/
theorem step_inv (P : State → Prop) (hr : ∀ s q, s.ready q → P s → P q) (hp : ∀ s l, P s → P { s with pending := l })
    (hd : ∀ q c t, Does q c t → P q → P t) {s t : State} (h : step s = .next t) (hs : P s) : P t := by
  obtain rfl | ⟨c, rest, -, q, hq, rfl | hdo⟩ := step_cases h
  · exact hr _ _ (s.ready_pass 1) hs
  · exact hr _ _ hq (hp s rest hs)
  · exact hd _ _ _ hdo (hr _ _ hq (hp s rest hs))

/-! ### The queue of commands -/

theorem Does.pending_eq {q t : State} {c : Instr} (h : Does q c t) : t.pending = q.pending := by
  cases h
  case phcDriverFault => split_ifs <;> simp
  case phcClass1Report => split_ifs <;> simp
  case lfsResponseChange => split_ifs <;> simp
  all_goals simp

theorem State.ready.pending_eq {s q : State} (h : s.ready q) : q.pending = s.pending := by
  obtain ⟨n, l, r, a, rfl⟩ := h
  rfl

/-- Settles O2: a command leaves the part ready or does its work on it, and neither touches the queue. -/
theorem everyCommandAnswersANextState : Obligations.EveryCommandAnswersANextState := by
  intro c s
  obtain ⟨t, he, q, hq, rfl | hd⟩ := exec_answersNext c s
  · exact ⟨_, he, hq.pending_eq⟩
  · exact ⟨t, he, hd.pending_eq.trans hq.pending_eq⟩

/-- Settles O1: both parts are the two cases of `step`. -/
theorem stepRunsFrontCommand : Obligations.StepRunsFrontCommand :=
  ⟨fun _ _ s h => by simp [step, h], fun s h => by simp [step, h, State.pass]⟩

end Sys2Proof.Machine
end

section
/-! The store's pages and its locks (R161 to R163): what each store operation makes of the pages, the lock marks and the
operation record; that no page outside an unlocked region is written; and from these that locked regions keep their
pages. -/

namespace Sys2Proof.Machine

/-! ### Pages of regions (R162) -/

/-- The region `r` holds the page `n`. -/
def Region.holds (r : Region) (n : Nat) : Prop := regionFirst r ≤ n ∧ n < regionFirst r + regionSize r

theorem Region.holds_first (r : Region) : r.holds (regionFirst r) := by
  cases r <;> exact ⟨Nat.le_refl _, by decide⟩

/-- A page is held by one region only. -/
theorem Region.eq_of_holds {r r' : Region} {n : Nat} (h : r.holds n) (h' : r'.holds n) : r = r' := by
  unfold Region.holds at h h'
  cases r <;> cases r' <;> simp only [regionFirst, regionSize] at h h' <;> first | rfl | omega

/-! ### What locked regions keep (R163) -/

/-- From `a` to `b` no lock mark is cleared and no page of a locked region is changed. -/
def Cst.keepsLocked (a b : Cst) : Prop :=
  ∀ r : Region, a.locks.get r = true → b.locks.get r = true ∧
    ∀ i < regionSize r, b.pages.getD (regionFirst r + i) .erased = a.pages.getD (regionFirst r + i) .erased

theorem Cst.keepsLocked_of_eq {a b : Cst} (hl : b.locks = a.locks) (hp : b.pages = a.pages) : a.keepsLocked b :=
  fun r h => by simp [hl, hp, h]

theorem Cst.keepsLocked.trans {a b c : Cst} (h : a.keepsLocked b) (g : b.keepsLocked c) : a.keepsLocked c :=
  fun r hr => ⟨(g r (h r hr).1).1, fun i hi => ((g r (h r hr).1).2 i hi).trans ((h r hr).2 i hi)⟩

/-- Writing a page of an unlocked region changes no locked region. -/
theorem Cst.keepsLocked_of_set {a b : Cst} {r : Region} {n : Nat} {p : Page} (hr : a.locks.get r = false)
    (hn : r.holds n) (hl : b.locks = a.locks) (hp : b.pages = a.pages.set n p) : a.keepsLocked b := by
  intro r' hr'
  refine ⟨hl ▸ hr', fun i hi => ?_⟩
  have hne : n ≠ regionFirst r' + i := by
    rintro rfl
    have := Region.eq_of_holds hn (r' := r') ⟨by omega, by omega⟩
    simp [this, hr'] at hr
  simp [hp, List.getD_eq_getElem?_getD, List.getElem?_set_ne hne]

theorem Cst.guarded_of_idle {c : Cst} (h : ∀ r gen image, c.op.kind ≠ .save r gen image) : c.guarded :=
  fun r gen image e => absurd e (h r gen image)

theorem Cst.guarded_of_eq {a b : Cst} (h : a.guarded) (hl : b.locks = a.locks) (ho : b.op = a.op) : b.guarded := by
  intro r gen image e
  rw [hl, ho]
  exact h r gen image (ho ▸ e)

/-- A save of an unlocked region that works at a page of it. -/
theorem Cst.guarded_of_save {c : Cst} {r : Region} {gen : Gen} {image : TableImage} (hk : c.op.kind = .save r gen image)
    (hr : c.locks.get r = false) (hn : r.holds c.op.page) : c.guarded := by
  intro r' gen' image' e
  obtain ⟨rfl, -, -⟩ : r = r' ∧ gen = gen' ∧ image = image' := by simpa [hk] using e
  exact ⟨hr, hn.1, hn.2⟩

/-! ### What the store's operations make of pages, locks and the operation record -/

theorem State.evaluateRegion_store (s : State) (r : Region) : (s.evaluateRegion r).cst.pages = s.cst.pages ∧
    (s.evaluateRegion r).cst.locks = s.cst.locks ∧ (s.evaluateRegion r).cst.op = s.cst.op := ⟨rfl, rfl, rfl⟩

theorem State.beginErase_store (s : State) (r : Region) (n : Nat) :
    (s.beginErase r n).cst.pages = s.cst.pages.set n .erased ∧ (s.beginErase r n).cst.locks = s.cst.locks ∧
    (s.beginErase r n).cst.op = s.cst.op := by
  dsimp only [State.beginErase]
  split_ifs <;> exact ⟨rfl, rfl, rfl⟩

theorem State.endOp_store (s : State) (n : Notice) : (s.endOp n).cst.pages = s.cst.pages ∧
    (s.endOp n).cst.locks = s.cst.locks ∧ (s.endOp n).cst.op = .idle := ⟨rfl, rfl, rfl⟩

theorem State.abandonSweep_store (s : State) : s.abandonSweep.cst.pages = s.cst.pages ∧
    s.abandonSweep.cst.locks = s.cst.locks ∧ s.abandonSweep.cst.op = .idle := ⟨rfl, rfl, rfl⟩

theorem State.endSave_store (s : State) (r : Region) (gen : Gen) (complete : Bool) :
    (s.endSave r gen complete).cst.pages = s.cst.pages ∧ (s.endSave r gen complete).cst.locks = s.cst.locks ∧
    (s.endSave r gen complete).cst.op = .idle := ⟨rfl, rfl, rfl⟩

theorem State.completeSave_store (s : State) (r : Region) (gen : Gen) :
    (s.completeSave r gen).cst.pages = s.cst.pages ∧ (s.completeSave r gen).cst.locks = s.cst.locks ∧
    (s.completeSave r gen).cst.op = .idle := ⟨rfl, rfl, rfl⟩

theorem State.sweepDamaged_store (s : State) (n : Nat) : (s.sweepDamaged n).cst.pages = s.cst.pages ∧
    (s.sweepDamaged n).cst.locks = s.cst.locks ∧ (s.sweepDamaged n).cst.op = .idle := ⟨rfl, rfl, rfl⟩

/-- A page of the save's region is erased as the save goes on to it, or nothing is where it suspends. -/
theorem State.nextSavePage_store (s : State) (r : Region) (n : Nat) :
    ((s.nextSavePage r n).cst.pages = s.cst.pages ∨ (s.nextSavePage r n).cst.pages = s.cst.pages.set n .erased) ∧
    (s.nextSavePage r n).cst.locks = s.cst.locks ∧ (s.nextSavePage r n).cst.op.kind = s.cst.op.kind ∧
    (s.nextSavePage r n).cst.op.page = n := by
  unfold State.nextSavePage
  split_ifs
  · exact ⟨.inl rfl, rfl, rfl, rfl⟩
  · obtain ⟨hp, hl, ho⟩ := (s.updOp fun o => { o with page := n, suspendPending := false }).beginErase_store r n
    exact ⟨.inr hp, hl, by rw [ho]; rfl, by rw [ho]; rfl⟩

theorem State.sweepOn_store (s : State) (n : Nat) : (s.sweepOn n).cst.pages = s.cst.pages ∧
    (s.sweepOn n).cst.locks = s.cst.locks ∧ ((s.sweepOn n).cst.op = .idle ∨ (s.sweepOn n).cst.op.kind = s.cst.op.kind) := by
  unfold State.sweepOn
  split_ifs
  · exact ⟨rfl, rfl, .inl rfl⟩
  all_goals exact ⟨rfl, rfl, .inr rfl⟩

theorem State.cstTakesSupply_store (s : State) (st : SupplyState) : (s.cstTakesSupply st).cst.pages = s.cst.pages ∧
    (s.cstTakesSupply st).cst.locks = s.cst.locks ∧ (s.cstTakesSupply st).cst.op.kind = s.cst.op.kind ∧
    (s.cstTakesSupply st).cst.op.page = s.cst.op.page := by
  dsimp only [State.cstTakesSupply]
  split_ifs <;> exact ⟨rfl, rfl, rfl, rfl⟩

theorem State.startSave_store (s : State) (r : Region) (image : TableImage) :
    ((s.startSave r image).cst.pages = s.cst.pages ∨
      (s.startSave r image).cst.pages = s.cst.pages.set (regionFirst r) .erased) ∧
    (s.startSave r image).cst.locks = s.cst.locks ∧ (∃ gen, (s.startSave r image).cst.op.kind = .save r gen image) ∧
    (s.startSave r image).cst.op.page = regionFirst r := by
  dsimp only [State.startSave]
  split_ifs
  · obtain ⟨hp, hl, ho⟩ := State.beginErase_store (s.updOp fun _ => ⟨.save r ((s.cst.regions.get r).gen + 1) image,
      s.supplyNormal, false, regionFirst r, none⟩) r (regionFirst r)
    exact ⟨.inr hp, hl, ⟨_, by rw [ho]; rfl⟩, by rw [ho]; rfl⟩
  · exact ⟨.inl rfl, rfl, ⟨_, rfl⟩, rfl⟩

theorem damagedBytes_length (free : List Byte) : (damagedBytes free).length = 128 := by
  have hraw : ((free ++ List.replicate 128 0#8).take 128).length = 128 := by simp
  dsimp only [damagedBytes]
  cases hf : List.find? _ _ with
  | none => simp
  | some l =>
    have hl := List.mem_of_find?_eq_some hf
    simp only [List.mem_cons, List.not_mem_nil, or_false] at hl
    rcases hl with rfl | rfl <;> simp

/-- Cutting a save off leaves its page in progress otherwise, and no other (R168). -/
theorem State.cutOffSave_store (s : State) : s.cutOffSave.cst.locks = s.cst.locks ∧ s.cutOffSave.cst.op = s.cst.op ∧
    (s.cutOffSave.cst.pages = s.cst.pages ∨ ∃ r gen image p, s.cst.op.kind = .save r gen image ∧
      p.bytes.length = 128 ∧ s.cutOffSave.cst.pages = s.cst.pages.set s.cst.op.page p) := by
  unfold State.cutOffSave
  split
  next r gen image hk _ =>
    refine ⟨rfl, rfl, .inr ⟨r, gen, image, _, hk, ?_, rfl⟩⟩
    split_ifs
    · exact List.length_replicate
    · exact damagedBytes_length _
  · exact ⟨rfl, rfl, .inl rfl⟩

theorem State.resetStore_store (s : State) : s.resetStore.cst.pages = s.cutOffSave.cst.pages ∧
    s.resetStore.cst.locks = s.cutOffSave.cst.locks ∧ s.resetStore.cst.op = .idle := ⟨rfl, rfl, rfl⟩

theorem State.loadRegion_store (s : State) (r : Region) : (s.loadRegion r).cst.pages = s.cst.pages ∧
    (s.loadRegion r).cst.locks = s.cst.locks ∧ (s.loadRegion r).cst.op = s.cst.op := by
  dsimp only [State.loadRegion]
  split_ifs <;> exact ⟨rfl, rfl, rfl⟩

theorem State.loadAll_store (s : State) : s.loadAll.cst.pages = s.cst.pages ∧ s.loadAll.cst.locks = s.cst.locks ∧
    s.loadAll.cst.op = s.cst.op := by
  refine forEach_inv (fun q => q.cst.pages = s.cst.pages ∧ q.cst.locks = s.cst.locks ∧ q.cst.op = s.cst.op) allRegions
    State.loadRegion (fun q r ⟨hp, hl, ho⟩ => ?_) s ⟨rfl, rfl, rfl⟩
  obtain ⟨ep, el, eo⟩ := q.loadRegion_store r
  exact ⟨ep.trans hp, el.trans hl, eo.trans ho⟩

theorem State.beginReset_cst (s : State) (cause : ResetCause) : (s.beginReset cause).cst = s.resetStore.cst := rfl

theorem State.startUp_store (s : State) (on : Bool) : (s.startUp on).cst.pages = s.cst.pages ∧
    (s.startUp on).cst.locks = s.cst.locks ∧ (s.startUp on).cst.op = s.cst.op := by
  have h : (s.startUp on).cst = (s.seeGuard on).loadAll.cst := by simp [State.startUp]
  rw [h]
  exact (s.seeGuard on).loadAll_store

/-! ### What each work of the store keeps -/

/-- From `a` to `b` the store leaves locked regions alone, and a save stays guarded. -/
def Cst.safeTo (a b : Cst) : Prop := b.guarded ∧ a.keepsLocked b

theorem Cst.safeTo_of_eq {a b : Cst} (h : a.guarded) (hp : b.pages = a.pages) (hl : b.locks = a.locks)
    (ho : b.op = a.op) : a.safeTo b := ⟨Cst.guarded_of_eq h hl ho, Cst.keepsLocked_of_eq hl hp⟩

theorem Cst.safeTo_of_idle {a b : Cst} (hp : b.pages = a.pages) (hl : b.locks = a.locks) (ho : b.op = .idle) :
    a.safeTo b := ⟨Cst.guarded_of_idle (by simp [ho, StoreOp.idle]), Cst.keepsLocked_of_eq hl hp⟩

variable {s : State}

theorem State.endPage_safe {r : Region} {gen : Gen} {image : TableImage} (h : s.cst.guarded)
    (hk : s.cst.op.kind = .save r gen image) : s.cst.safeTo (s.endPage r gen image).cst := by
  obtain ⟨hr, hf, hn⟩ := h r gen image hk
  dsimp only [State.endPage]
  set q := s.setPage s.cst.op.page (.build (regionId r) (s.cst.op.page - regionFirst r) gen image) with hq
  have hsq : s.cst.keepsLocked q.cst := Cst.keepsLocked_of_set hr ⟨hf, hn⟩ rfl rfl
  split_ifs with hlast
  · have hnext : r.holds (s.cst.op.page + 1) := ⟨by omega, hlast⟩
    obtain ⟨hp, hl, hkind, hpage⟩ := q.nextSavePage_store r (s.cst.op.page + 1)
    refine ⟨Cst.guarded_of_save (hkind.trans hk) (by rw [hl]; exact hr) (by rw [hpage]; exact hnext), hsq.trans ?_⟩
    rcases hp with hp | hp
    · exact Cst.keepsLocked_of_eq hl hp
    · exact Cst.keepsLocked_of_set hr hnext hl hp
  · obtain ⟨hp, hl, ho⟩ := q.completeSave_store r gen
    exact ⟨(Cst.safeTo_of_idle hp hl ho).1, hsq.trans (Cst.safeTo_of_idle hp hl ho).2⟩

theorem State.cutOffSave_keepsLocked (h : s.cst.guarded) : s.cst.keepsLocked s.cutOffSave.cst := by
  obtain ⟨hl, -, hp | ⟨r, gen, image, p, hk, -, hp⟩⟩ := s.cutOffSave_store
  · exact Cst.keepsLocked_of_eq hl hp
  · obtain ⟨hr, hn⟩ := h r gen image hk
    exact Cst.keepsLocked_of_set hr hn hl hp

theorem State.beginReset_safe (h : s.cst.guarded) (cause : ResetCause) : s.cst.safeTo (s.beginReset cause).cst := by
  rw [State.beginReset_cst]
  obtain ⟨hp, hl, ho⟩ := s.resetStore_store
  exact ⟨(Cst.safeTo_of_idle hp hl ho).1, (s.cutOffSave_keepsLocked h).trans (Cst.safeTo_of_idle hp hl ho).2⟩

theorem State.resumeOp_safe (h : s.cst.guarded) : s.cst.safeTo s.resumeOp.cst := by
  dsimp only [State.resumeOp]
  set q := s.updOp fun o => { o with running := true, suspendPending := false, resume := none } with hq
  have hsq : s.cst.safeTo q.cst := ⟨fun r gen image e => h r gen image e, Cst.keepsLocked_of_eq rfl rfl⟩
  split
  next r gen image hk =>
    obtain ⟨hp, hl, ho⟩ := q.beginErase_store r q.cst.op.page
    obtain ⟨hr, hn⟩ := hsq.1 r gen image hk
    exact ⟨Cst.guarded_of_eq hsq.1 hl ho, hsq.2.trans (Cst.keepsLocked_of_set hr hn hl hp)⟩
  · exact hsq

theorem State.startSave_safe {r : Region} (hr : s.cst.locks.get r = false) (image : TableImage) :
    s.cst.safeTo (s.startSave r image).cst := by
  obtain ⟨hp, hl, ⟨gen, hk⟩, hpage⟩ := s.startSave_store r image
  refine ⟨Cst.guarded_of_save hk (hl ▸ hr) (hpage ▸ r.holds_first), ?_⟩
  rcases hp with hp | hp
  · exact Cst.keepsLocked_of_eq hl hp
  · exact Cst.keepsLocked_of_set hr r.holds_first hl hp

/-- A SAVE is refused, or starts a save of an unlocked region, after a sweep where one runs (R165). -/
theorem State.doSave_cases (s : State) (fields : List Field) : (∃ st, s.doSave fields = s.answer .SAVE st) ∨
    ∃ r image, s.cst.locks.get r = false ∧ (s.doSave fields = (s.startSave r image).answer .SAVE .accepted ∨
      s.doSave fields = (s.abandonSweep.startSave r image).answer .SAVE .accepted) := by
  unfold State.doSave
  split
  · exact .inl ⟨_, rfl⟩
  · split
    · exact .inl ⟨_, rfl⟩
    · exact .inl ⟨_, rfl⟩
    · exact .inl ⟨_, rfl⟩
    next image _ _ hg => exact .inr ⟨_, image, (by simpa using hg : _ ∧ _).1, .inr rfl⟩
    next image _ _ hg => exact .inr ⟨_, image, (by simpa using hg : _ ∧ _).1, .inl rfl⟩

theorem State.doSave_safe (h : s.cst.guarded) (fields : List Field) : s.cst.safeTo (s.doSave fields).cst := by
  obtain ⟨st, e⟩ | ⟨r, image, hr, e | e⟩ := s.doSave_cases fields <;> rw [e, State.answer_cst]
  · exact Cst.safeTo_of_eq h rfl rfl rfl
  · exact State.startSave_safe hr image
  · obtain ⟨hp, hl, ho⟩ := s.abandonSweep_store
    have hb := State.startSave_safe (s := s.abandonSweep) (r := r) (hl ▸ hr) image
    exact ⟨hb.1, (Cst.safeTo_of_idle hp hl ho).2.trans hb.2⟩

theorem State.doAbrt_safe (h : s.cst.guarded) (fields : List Field) : s.cst.safeTo (s.doAbrt fields).cst := by
  have hs : s.cst.safeTo s.cst := Cst.safeTo_of_eq h rfl rfl rfl
  unfold State.doAbrt
  split_ifs
  · exact hs
  · split
    · exact hs
    · exact Cst.safeTo_of_idle rfl rfl rfl
    next r gen _ _ =>
      have he := Cst.safeTo_of_idle (s.cutOffSave.endSave_store r gen false).1 rfl rfl
      exact ⟨he.1, (s.cutOffSave_keepsLocked h).trans he.2⟩

theorem State.doSwep_safe (h : s.cst.guarded) (fields : List Field) : s.cst.safeTo (s.doSwep fields).cst := by
  have hs : s.cst.safeTo s.cst := Cst.safeTo_of_eq h rfl rfl rfl
  unfold State.doSwep
  split_ifs
  · exact hs
  · exact hs
  · exact ⟨Cst.guarded_of_idle (by simp), Cst.keepsLocked_of_eq rfl rfl⟩

/-- A LOCK sets a mark only where no save of the region exists (R163). -/
theorem State.doLock_safe (h : s.cst.guarded) (fields : List Field) (armed : Bool) :
    s.cst.safeTo (s.doLock fields armed).cst := by
  have hs : s.cst.safeTo s.cst := Cst.safeTo_of_eq h rfl rfl rfl
  unfold State.doLock
  split
  · exact hs
  next r _ =>
    split_ifs with _ _ hsave
    · exact hs
    · exact hs
    · exact hs
    · constructor
      · intro r' gen image hk
        obtain ⟨hr, hn⟩ := h r' gen image hk
        have hne : r ≠ r' := by
          rintro rfl
          have hk' : s.cst.op.kind = .save r gen image := hk
          simp [State.saving, hk'] at hsave
        exact ⟨by simpa [PerRegion.get_set, hne] using hr, hn⟩
      · intro r' hr'
        refine ⟨?_, fun _ _ => rfl⟩
        by_cases hrr : r = r' <;> simp [PerRegion.get_set, hrr, hr']

/-! ### Every command, every step -/

theorem Does.safe {q t : State} {c : Instr} (hd : Does q c t) (h : q.cst.guarded) : q.cst.safeTo t.cst := by
  have same {b : Cst} (e : b = q.cst) : q.cst.safeTo b :=
    Cst.safeTo_of_eq h (by rw [e]) (by rw [e]) (by rw [e])
  have seen (on : Bool) : q.cst.safeTo (q.seeGuard on).cst := Cst.safeTo_of_eq h rfl rfl rfl
  cases hd
  case powerOn volts => exact State.beginReset_safe (s := q.updSmc _) h _
  case brownout => exact State.beginReset_safe (s := q.updSmc _) h _
  case lineReset => exact State.beginReset_safe (s := q.updSmc _) h _
  case lineRequestReset => exact State.beginReset_safe h _
  case startUpTimerExpiry on n =>
    obtain ⟨hp, hl, ho⟩ := q.startUp_store on
    dsimp only
    exact Cst.safeTo_of_eq h hp hl ho
  case cstSupplyChange st =>
    obtain ⟨hp, hl, hk, hn⟩ := q.cstTakesSupply_store st
    refine ⟨fun r gen image e => ?_, Cst.keepsLocked_of_eq hl hp⟩
    rw [hl, hn]
    exact h r gen image (hk ▸ e)
  case savePageEnd hk => exact State.endPage_safe h hk
  case sweepDamaged n hk =>
    obtain ⟨hp, hl, ho⟩ := q.sweepDamaged_store n
    exact Cst.safeTo_of_idle hp hl ho
  case sweepOn n hk =>
    obtain ⟨hp, hl, ho⟩ := q.sweepOn_store n
    refine ⟨Cst.guarded_of_idle fun r gen image e => ?_, Cst.keepsLocked_of_eq hl hp⟩
    rcases ho with ho | ho <;> simp [ho, StoreOp.idle, hk] at e
  case resumeTimerExpiry => exact State.resumeOp_safe h
  case save on fields =>
    have hsave := State.doSave_safe (seen on).1 fields
    exact ⟨hsave.1, (seen on).2.trans hsave.2⟩
  case swep fields => exact State.doSwep_safe h fields
  case abrt fields => exact State.doAbrt_safe h fields
  case stst on fields => 
    have he : ((q.seeGuard on).doStst fields).cst = (q.seeGuard on).cst := by simp
    exact he ▸ seen on
  case lock fields armed => exact State.doLock_safe (s := q.disarm) h fields armed
  case phcDriverFault => exact same (by split_ifs <;> simp)
  case phcClass1Report => exact same (by split_ifs <;> simp)
  case lfsResponseChange => exact same (by split_ifs <;> simp)
  all_goals exact same (by simp)

theorem State.ready.cst_eq {s q : State} (h : s.ready q) : q.cst = s.cst := by
  obtain ⟨n, l, r, a, rfl⟩ := h
  rfl

/-- Settles O5: a step leaves the store ready for a command's work, and no work writes outside an unlocked region. -/
theorem lockedRegionsKeepTheirPages : Obligations.LockedRegionsKeepTheirPages := by
  intro s t h hstep
  suffices hsafe : s.cst.safeTo t.cst from hsafe
  obtain rfl | ⟨c, rest, -, q, hq, ht⟩ := step_cases hstep
  · exact Cst.safeTo_of_eq h rfl rfl rfl
  · have hqs : q.cst = s.cst := hq.cst_eq
    rcases ht with rfl | hd
    · exact Cst.safeTo_of_eq h (by rw [hqs]) (by rw [hqs]) (by rw [hqs])
    · exact hqs ▸ hd.safe (hqs ▸ h)

end Sys2Proof.Machine
end

section
/-! The bounds of lists, counts and pages (R43, R140, R153, R154, R161, R162, R178, R179, R183): block by block, what
each operation makes of the bounded lists, then what each command makes of them, and from these the obligation. -/

namespace Sys2Proof.Machine

/-! ### The port (R178, R179, R183) -/

/-- What the port bounds: the line under assembly, the lines that hold a place, the notices waiting. -/
def Clp.lists (c : Clp) : Option Assembly × List RxLine × List Notice := (c.rx, c.buffer, c.queue)

theorem Clp.bounded_of_lists {c d : Clp} (h : c.bounded) (e : d.lists = c.lists) : d.bounded := by
  simp only [Clp.lists, Prod.mk.injEq] at e
  obtain ⟨hr, hb, hq⟩ := e
  simpa only [Clp.bounded, hr, hb, hq] using h

/-- With a reply line waiting the transmitter begins no notice. -/
theorem Clp.pump_lists {c : Clp} (h : c.replies ≠ []) : c.pump.lists = c.lists := by
  unfold Clp.pump
  split
  · rfl
  · split
    · rfl
    next hr => exact absurd hr h

@[simp] theorem Clp.answer_lists (c : Clp) (k : LineKey) (st : Status) (l : List Field) :
    (c.answer k st l).lists = c.lists :=
  Clp.pump_lists (by simp)

@[simp] theorem Clp.answerRun_lists (c : Clp) (k : LineKey) (l : List (List Field)) :
    (c.answerRun k l).lists = c.lists :=
  Clp.pump_lists (by simp)

theorem Clp.pump_bounded {c : Clp} (h : c.bounded) : c.pump.bounded := by
  obtain ⟨sending, replies, queue, e, -, hq⟩ := c.pump_spec
  obtain ⟨hb, hn, hr⟩ := h
  rw [e]
  exact ⟨hb, hq.trans hn, hr⟩

theorem Clp.dropLine_bounded {c : Clp} (h : c.bounded) : c.dropLine.bounded :=
  ⟨h.1, h.2.1, by simp [Clp.dropLine]⟩

theorem Clp.seeGap_bounded {c : Clp} (h : c.bounded) (t : Time) : (c.seeGap t).bounded := by
  unfold Clp.seeGap
  split
  · split_ifs
    · exact Clp.dropLine_bounded h
    · exact h
  · exact h

theorem Assembly.take_length {a : Assembly} (h : a.codes.length ≤ 320) (t : Time) (x : Byte) :
    (a.take t x).codes.length ≤ 320 := by
  unfold Assembly.take
  split_ifs with hl
  · simp only [List.length_append, List.length_singleton]
    omega
  · exact h

theorem Clp.takeChar_bounded {c : Clp} (h : c.bounded) (init : Bool) (t : Time) (x : Byte) :
    (c.takeChar init t x).bounded := by
  obtain ⟨hb, hq, hr⟩ := Clp.seeGap_bounded h t
  refine ⟨hb, hq, ?_⟩
  rintro a ⟨⟩
  apply Assembly.take_length
  cases hx : (c.seeGap t).rx with
  | none => simp
  | some a => exact hr a hx

theorem Clp.place_bounded {c : Clp} (h : c.bounded) (l : RxLine) : (c.place l).bounded := by
  obtain ⟨hb, hq, hr⟩ := h
  unfold Clp.place
  split_ifs with hl
  · exact ⟨by simp only [List.length_append, List.length_singleton]; omega, hq, hr⟩
  · exact ⟨hb, hq, hr⟩

theorem Clp.endLine_bounded {c : Clp} (h : c.bounded) (t : Time) : (c.endLine t).bounded := by
  have hg := Clp.seeGap_bounded h t
  dsimp only [Clp.endLine]
  split
  · exact hg
  · have hn : Clp.bounded { c.seeGap t with rx := none } := ⟨hg.1, hg.2.1, by simp⟩
    split_ifs
    · exact hn
    · exact Clp.place_bounded hn _

theorem Clp.takeLine_bounded {c : Clp} (h : c.bounded) (l : RxLine) : (c.takeLine l).bounded := by
  unfold Clp.takeLine
  split
  · exact Clp.bounded_of_lists h (by rw [Clp.answer_lists]; rfl)
  · exact Clp.bounded_of_lists h rfl

theorem Clp.lineEnds_bounded {c : Clp} (h : c.bounded) : c.lineEnds.bounded := by
  obtain ⟨hb, hq, hr⟩ := h
  apply Clp.pump_bounded
  split_ifs
  · exact ⟨by simp only [List.length_tail]; omega, hq, hr⟩
  · exact ⟨hb, hq, hr⟩

theorem Clp.takeNotice_bounded {c : Clp} (h : c.bounded) (n : Notice) : (c.takeNotice n).bounded := by
  obtain ⟨hb, hq, hr⟩ := h
  unfold Clp.takeNotice
  split_ifs with _ hl
  · exact ⟨hb, hq, hr⟩
  · exact Clp.pump_bounded ⟨hb, by simp only [List.length_append, List.length_singleton]; omega, hr⟩
  · exact ⟨hb, hq, hr⟩

theorem Clp.reset_bounded : Clp.reset.bounded := ⟨by simp [Clp.reset], by simp [Clp.reset], by simp [Clp.reset]⟩

@[simp] theorem State.beginReset_clp (s : State) (cause : ResetCause) : (s.beginReset cause).clp = .reset := rfl

/-- The arm record is not among what the port bounds. -/
@[simp] theorem State.disarm_lists (s : State) : s.disarm.clp.lists = s.clp.lists := rfl

/-- The arm record, the mask and the flags are not among the bounded lists. -/
theorem State.updClp_answer_lists (s : State) (f : Clp → Clp) (h : (f s.clp).lists = s.clp.lists) (k : Keyword)
    (st : Status) (l : List Field) : ((s.updClp f).answer k st l).clp.lists = s.clp.lists := by
  simp [h]

theorem State.doArms_lists (s : State) (fields : List Field) : (s.doArms fields).clp.lists = s.clp.lists := by
  unfold State.doArms
  split
  · exact s.updClp_answer_lists _ rfl _ _ _
  · simp

theorem State.doNmsk_lists (s : State) (fields : List Field) : (s.doNmsk fields).clp.lists = s.clp.lists := by
  unfold State.doNmsk
  split
  · simp
  · split_ifs
    · simp
    · exact s.updClp_answer_lists _ rfl _ _ _

theorem State.doStat_lists (s : State) (fields : List Field) : (s.doStat fields).clp.lists = s.clp.lists := by
  unfold State.doStat
  split_ifs
  · simp
  · simp only [State.answerRun_clp, Clp.answerRun_lists]
    rfl

/-- Every request is answered, and an answer touches none of the port's bounded lists. -/
theorem Does.clp_bounded {q t : State} {c : Instr} (hd : Does q c t) (h : q.clp.bounded) : t.clp.bounded := by
  have same {d : Clp} (e : d.lists = q.clp.lists) : d.bounded := Clp.bounded_of_lists h e
  cases hd
  case powerOn => exact Clp.reset_bounded
  case brownout => exact Clp.reset_bounded
  case lineReset => exact Clp.reset_bounded
  case lineRequestReset => exact Clp.reset_bounded
  case lineGapTimeout => exact Clp.dropLine_bounded h
  case characterReceived init n => exact Clp.takeChar_bounded h init n _
  case lineComplete n => exact Clp.endLine_bounded h n
  case lineTaken l _ _ => exact Clp.takeLine_bounded h l
  case lineSent => exact Clp.lineEnds_bounded h
  case noticeHandedIn n => exact Clp.takeNotice_bounded h n
  case armLapse => exact same rfl
  case arms => exact same (q.doArms_lists _)
  case nmsk => exact same (q.doNmsk_lists _)
  case stat => exact same (q.doStat_lists _)
  case idnt => exact same (by unfold State.doIdnt; split <;> simp)
  case modeRun => exact same (by unfold State.doModeRun; dsimp only; (repeat' split) <;> simp)
  case modeStandby => exact same (by unfold State.doModeStandby; dsimp only; (repeat' split) <;> simp)
  case rset => exact same (by unfold State.doRset; (repeat' split) <;> simp)
  case layr => exact same (by unfold State.doLayr; (repeat' split) <;> simp)
  case layw => exact same (by unfold State.doLayw; (repeat' split) <;> simp)
  case tunr => exact same (by unfold State.doTunr; (repeat' split) <;> simp)
  case tunw => exact same (by unfold State.doTunw; (repeat' split) <;> simp)
  case oppt => exact same (by unfold State.doOppt; (repeat' split) <;> simp)
  case mapr => exact same (by unfold State.doMapr; dsimp only; (repeat' split) <;> simp)
  case mapw => exact same (by unfold State.doMapw; (repeat' split) <;> simp)
  case testCh => exact same (by unfold State.doTestCh; (repeat' split) <;> simp)
  case testLift => exact same (by unfold State.doTestLift; (repeat' split) <;> simp)
  case clrl => exact same (by unfold State.doClrl; (repeat' split) <;> simp)
  case rspr => exact same (by unfold State.doRspr; (repeat' split) <;> simp)
  case rspw => exact same (by unfold State.doRspw; (repeat' split) <;> simp)
  case fltr => exact same (by unfold State.doFltr; (repeat' split) <;> simp)
  case fltc => exact same (by unfold State.doFltc State.clearRecords; dsimp only; (repeat' split) <;> simp)
  case trct => exact same (by unfold State.doTrct; dsimp only; (repeat' split) <;> simp)
  case trcr => exact same (by unfold State.doTrcr; dsimp only; (repeat' split) <;> simp)
  case trcf => exact same (by unfold State.doTrcf; (repeat' split) <;> simp)
  case save => exact same (by unfold State.doSave; (repeat' split) <;> simp)
  case swep => exact same (by unfold State.doSwep; (repeat' split) <;> simp)
  case abrt => exact same (by unfold State.doAbrt; (repeat' split) <;> simp)
  case page => exact same (by unfold State.doPage; (repeat' split) <;> simp)
  case stst => exact same (by unfold State.doStst; (repeat' split) <;> simp)
  case lock => exact same (by unfold State.doLock; (repeat' split) <;> simp)
  case phcDriverFault => exact same (by split_ifs <;> simp)
  case phcClass1Report => exact same (by split_ifs <;> simp)
  case lfsResponseChange => exact same (by split_ifs <;> simp)
  all_goals exact same (by simp)

theorem State.ready.clp_lists {s q : State} (h : s.ready q) : q.clp.lists = s.clp.lists := by
  obtain ⟨n, l, r, a, rfl⟩ := h
  rfl

/-! ### The Trace Buffer (R153, R154) -/

theorem TraceSlot.reset_bounded : TraceSlot.reset.bounded := ⟨by simp [TraceSlot.reset], by simp [TraceSlot.reset]⟩

theorem bump_le {bound n : Nat} (h : n ≤ bound) : bump bound n ≤ bound := by
  unfold bump
  split_ifs <;> omega

theorem TraceSlot.offer_bounded {x : TraceSlot} (h : x.bounded) (r : EdgeRecord) : (x.offer r).bounded := by
  obtain ⟨he, ho⟩ := h
  dsimp only [TraceSlot.offer]
  split_ifs with hl
  · exact ⟨by simp only [List.length_append, List.length_singleton]; omega, bump_le ho⟩
  · exact ⟨he, bump_le ho⟩

theorem TraceSlot.offer_state (x : TraceSlot) (r : EdgeRecord) : (x.offer r).state = x.state := by
  dsimp only [TraceSlot.offer]
  split_ifs <;> rfl

theorem TraceSlot.offers_bounded {x : TraceSlot} (h : x.bounded) (l : List EdgeRecord) :
    (l.foldl TraceSlot.offer x).bounded ∧ (l.foldl TraceSlot.offer x).state = x.state := by
  induction l generalizing x with
  | nil => exact ⟨h, rfl⟩
  | cons r l ih =>
    obtain ⟨hb, hs⟩ := ih (TraceSlot.offer_bounded h r)
    exact ⟨hb, hs.trans (x.offer_state r)⟩

/-- How many of the slots are FILLING. -/
def fillings (l : List TraceSlot) : Nat := (l.filter fun x => x.state == .filling).length

theorem fillings_set_of_not {l : List TraceSlot} {x : TraceSlot} (h : x.state ≠ .filling) (i : Nat) :
    fillings (l.set i x) ≤ fillings l := by
  induction l generalizing i with
  | nil => simp [fillings]
  | cons y l ih =>
    cases i with
    | zero => by_cases hy : y.state = .filling <;> simp [fillings, h, hy]
    | succ i =>
      have := ih i
      by_cases hy : y.state = .filling <;> simpa [fillings, hy] using this

theorem fillings_set_same {l : List TraceSlot} {x : TraceSlot} {i : Nat} (hi : i < l.length)
    (h : x.state = l[i].state) : fillings (l.set i x) = fillings l := by
  induction l generalizing i with
  | nil => simp at hi
  | cons y l ih =>
    cases i with
    | zero =>
      have h' : x.state = y.state := h
      by_cases hy : y.state = .filling <;> simp [fillings, h', hy]
    | succ i =>
      have := ih (by simpa using hi) (by simpa using h)
      by_cases hy : y.state = .filling <;> simpa [fillings, hy] using this

/-- A FILLING slot replaced by one that is not. -/
theorem fillings_set_closed {l : List TraceSlot} {x : TraceSlot} {i : Nat} (hi : i < l.length)
    (h : l[i].state = .filling) (hx : x.state ≠ .filling) : fillings (l.set i x) + 1 = fillings l := by
  induction l generalizing i with
  | nil => simp at hi
  | cons y l ih =>
    cases i with
    | zero =>
      have h' : y.state = .filling := h
      simp [fillings, h', hx]
    | succ i =>
      have := ih (by simpa using hi) (by simpa using h)
      by_cases hy : y.state = .filling <;> simpa [fillings, hy] using this

theorem fillings_set_le (l : List TraceSlot) (x : TraceSlot) (i : Nat) : fillings (l.set i x) ≤ fillings l + 1 := by
  induction l generalizing i with
  | nil => simp [fillings]
  | cons y l ih =>
    cases i with
    | zero => by_cases hy : y.state = .filling <;> by_cases hx : x.state = .filling <;> simp [fillings, hx, hy, Nat.le_add_right_of_le]
    | succ i =>
      have := ih i
      by_cases hy : y.state = .filling <;> simpa [fillings, hy] using this

/-- Replacing a slot keeps the bounds, where the slots that are FILLING stay at most one. -/
theorem Trb.set_bounded {b : Trb} (h : b.bounded) {x : TraceSlot} (hx : x.bounded) (i : Nat)
    (hf : fillings (b.slots.set i x) ≤ 1) : Trb.bounded { b with slots := b.slots.set i x } := by
  obtain ⟨hq, hl, hs, -⟩ := h
  refine ⟨hq, by simp [hl], fun y hy => ?_, hf⟩
  rcases List.mem_or_eq_of_mem_set hy with hy | rfl
  · exact hs y hy
  · exact hx

theorem Trb.slot_bounded {b : Trb} (h : b.bounded) (i : Nat) : (b.slot i).bounded := by
  obtain ⟨-, -, hs, -⟩ := h
  unfold Trb.slot
  rw [List.getD_eq_getElem?_getD]
  cases hi : b.slots[i]? with
  | none => exact TraceSlot.reset_bounded
  | some x => exact hs x (List.mem_of_getElem? hi)

theorem Trb.slot_of_first {b : Trb} {st : SlotState} {i : Nat} (h : b.first st = some i) :
    ∃ hi : i < b.slots.length, b.slot i = b.slots[i] ∧ b.slots[i].state = st := by
  obtain ⟨hi, hst, -⟩ := List.findIdx?_eq_some_iff_getElem.mp h
  exact ⟨hi, by simp [Trb.slot, hi], by simpa using hst⟩

variable {s : State}

theorem State.setSlot_bounded (h : s.trb.bounded) {x : TraceSlot} (hx : x.bounded) (i : Nat)
    (hf : fillings (s.trb.slots.set i x) ≤ 1) : (s.setSlot i x).trb.bounded := Trb.set_bounded h hx i hf

theorem State.push_trb_bounded (h : s.trb.bounded) (c : TraceCause) : (s.push c).trb.bounded := by
  obtain ⟨hq, hl, hs, hf⟩ := h
  unfold State.push
  split_ifs with hlen
  · exact ⟨by simp only [State.updTrb_trb, List.length_append, List.length_singleton]; omega, hl, hs, hf⟩
  · exact ⟨hq, hl, hs, hf⟩
  · exact ⟨hq, hl, hs, hf⟩

theorem State.pushRequests_trb_bounded (h : s.trb.bounded) (n : Nat) : (s.pushRequests n).trb.bounded := by
  induction n generalizing s with
  | zero => exact h
  | succ n ih => exact ih (State.push_trb_bounded h _)

theorem Trb.fillings_le_one {b : Trb} (h : b.bounded) : fillings b.slots ≤ 1 := h.2.2.2

/-- A slot that closes leaves no more slots FILLING than before. -/
theorem State.closeSlot_trb_bounded (h : s.trb.bounded) (lost : Bool) : (s.closeSlot lost).trb.bounded := by
  unfold State.closeSlot
  split
  next i _ =>
    have hx : (s.closed (s.trb.slot i) lost).bounded := Trb.slot_bounded h i
    exact State.setSlot_bounded h hx i
      ((fillings_set_of_not (by simp [State.closed]) i).trans (Trb.fillings_le_one h))
  · exact h

theorem State.offerEdge_trb_bounded (h : s.trb.bounded) (r : EdgeRecord) : (s.offerEdge r).trb.bounded := by
  unfold State.offerEdge
  split
  next i hi =>
    obtain ⟨hlen, hslot, -⟩ := Trb.slot_of_first hi
    refine State.setSlot_bounded h (TraceSlot.offer_bounded (Trb.slot_bounded h i) r) i ?_
    rw [fillings_set_same hlen (by rw [TraceSlot.offer_state, hslot])]
    exact Trb.fillings_le_one h
  · exact h

theorem State.offerHanded_trb_bounded (h : s.trb.bounded) : s.offerHanded.trb.bounded := by
  unfold State.offerHanded
  split
  next i hi =>
    obtain ⟨hlen, hslot, -⟩ := Trb.slot_of_first hi
    obtain ⟨hb, hst⟩ := TraceSlot.offers_bounded (Trb.slot_bounded h i) (s.handovers.filterMap wantEdge)
    refine Trb.set_bounded h hb i ?_
    rw [fillings_set_same hlen (by rw [hst, hslot])]
    exact Trb.fillings_le_one h
  · exact h

/-- After the FILLING slot has closed, none is FILLING (R155). -/
theorem State.closeSlot_fillings (h : s.trb.bounded) (lost : Bool) : fillings (s.closeSlot lost).trb.slots = 0 := by
  have hone := Trb.fillings_le_one h
  unfold State.closeSlot
  split
  next i hi =>
    obtain ⟨hlen, -, hst⟩ := Trb.slot_of_first hi
    have := fillings_set_closed hlen hst (x := s.closed (s.trb.slot i) lost) (by simp [State.closed])
    have hz : fillings (s.trb.slots.set i (s.closed (s.trb.slot i) lost)) = 0 := by omega
    exact hz
  next hn =>
    have hnone := (s.trb.first_eq_none_iff .filling).mp hn
    simp only [fillings, List.length_eq_zero_iff, List.filter_eq_nil_iff, beq_iff_eq]
    exact hnone

theorem State.openSlot_trb_bounded (h : s.trb.bounded) (hf : fillings s.trb.slots = 0) (n : Word32) :
    (s.openSlot n).trb.bounded := by
  unfold State.openSlot
  split
  · exact h
  next c rest hq =>
    have hr : (s.updTrb fun t => { t with queue := rest }).trb.bounded := by
      obtain ⟨hl, hs⟩ := h
      refine ⟨?_, hs⟩
      simp only [hq, List.length_cons] at hl
      simp only [State.updTrb_trb]
      omega
    dsimp only
    split
    next i _ =>
      refine State.setSlot_bounded hr ⟨by simp [openedSlot, TraceSlot.reset], by simp [openedSlot, TraceSlot.reset]⟩ i ?_
      exact (fillings_set_le _ _ i).trans (by simp [hf])
    · exact hr

theorem Trb.reset_bounded : Trb.reset.bounded :=
  ⟨by simp [Trb.reset], by simp [Trb.reset], fun x hx => by
    rw [List.eq_of_mem_replicate hx]
    exact TraceSlot.reset_bounded, by simp [Trb.reset, TraceSlot.reset]⟩

@[simp] theorem State.beginReset_trb (s : State) (cause : ResetCause) : (s.beginReset cause).trb = .reset := rfl

theorem Does.trb_bounded {q t : State} {c : Instr} (hd : Does q c t) (h : q.trb.bounded) : t.trb.bounded := by
  have same {b : Trb} (e : b = q.trb) : b.bounded := e ▸ h
  cases hd
  case powerOn => exact Trb.reset_bounded
  case brownout => exact Trb.reset_bounded
  case lineReset => exact Trb.reset_bounded
  case lineRequestReset => exact Trb.reset_bounded
  case trbCycleStart n =>
    exact State.openSlot_trb_bounded (State.closeSlot_trb_bounded h false) (State.closeSlot_fillings h false) n
  case trbEdgeRecord r => exact State.offerEdge_trb_bounded h r
  case trbLockLost => exact State.closeSlot_trb_bounded (State.offerHanded_trb_bounded h) true
  case triggerPush c => exact State.push_trb_bounded h c
  case trct fields =>
    unfold State.doTrct
    dsimp only
    split
    · split
      · exact h
      · split_ifs
        · exact h
        · exact State.pushRequests_trb_bounded h _
    · exact h
  case trcf fields =>
    unfold State.doTrcf
    split
    · split
      · exact h
      · split_ifs
        · exact h
        · exact State.setSlot_bounded h TraceSlot.reset_bounded _
            ((fillings_set_of_not (by simp [TraceSlot.reset]) _).trans (Trb.fillings_le_one h))
    · exact h
  case phcDriverFault => exact same (by split_ifs <;> simp)
  case phcClass1Report => exact same (by split_ifs <;> simp)
  case lfsResponseChange => exact same (by split_ifs <;> simp)
  all_goals exact same (by simp)

theorem State.ready.trb_eq {s q : State} (h : s.ready q) : q.trb = s.trb := by
  obtain ⟨n, l, r, a, rfl⟩ := h
  rfl

/-! ### The Fault Record Table (R140) -/

theorem PerOut.get_set {α : Type} (p : PerOut α) (i j : Out) (a : α) :
    (p.set i a).get j = if i = j then a else p.get j := by
  cases i <;> cases j <;> simp [PerOut.set, PerOut.get, PerOcv.get_set, PerLs.get_set]

theorem FaultTable.get_set (t : FaultTable) (i j : FaultId) (r : FaultRec) :
    (t.set i r).get j = if i = j then r else t.get j := by
  cases i <;> cases j <;>
    simp [FaultTable.set, FaultTable.get, PerChan.get_set, PerUnit.get_set, PerOut.get_set]

theorem State.recompute_table (s : State) : s.recompute.fmg.table = s.fmg.table := by
  refine forEach_inv (fun q => q.fmg.table = s.fmg.table) allUnits _ (fun q u h => ?_) _
    (forEach_inv (fun q => q.fmg.table = s.fmg.table) allChans _ (fun q ch h => ?_) s rfl)
  · dsimp only [State.recomputeUnit]
    split_ifs <;> exact h
  · dsimp only [State.recomputeChan]
    split_ifs <;> exact h

@[simp] theorem State.changeRecords_table (s : State) (new : FaultTable) : (s.changeRecords new).fmg.table = new := by
  simp [State.changeRecords, State.recompute_table]

@[simp] theorem State.changeRecord_table (s : State) (id : FaultId) (r : FaultRec) :
    (s.changeRecord id r).fmg.table = s.fmg.table.set id r := s.changeRecords_table _

@[simp] theorem State.occur_table (s : State) (id : FaultId) (r : FaultRec) :
    (s.occur id r).fmg.table = s.fmg.table.set id r.counted := by
  simp [State.occur]

theorem FaultTable.set_bounded {t : FaultTable} (h : t.bounded) {r : FaultRec} (hr : r.count ≤ 255) (id : FaultId) :
    (t.set id r).bounded := by
  intro j
  rw [FaultTable.get_set]
  split_ifs
  · exact hr
  · exact h j

theorem FaultTable.clean_get (id : FaultId) : FaultTable.clean.get id = .clean := by
  rcases id with _ | _ | (_ | _ | _ | _) | (_ | _ | _ | _) | (_ | _ | _ | _) | (_ | _ | _ | _) |
    ((_ | _ | _ | _) | (_ | _)) | ((_ | _ | _ | _) | (_ | _)) | _ | _ | (_ | _) | (_ | _) | _ | _ | _ | _ <;> rfl

theorem FaultTable.clean_bounded : FaultTable.clean.bounded := fun id => by simp [FaultTable.clean_get, FaultRec.clean]

theorem FaultTable.afterLine_get (t : FaultTable) (id : FaultId) : t.afterLine.get id = (t.get id).afterLine := by
  cases id <;> simp [FaultTable.afterLine, FaultTable.get]
  all_goals next out => cases out <;> simp [PerOut.get]

theorem FaultRec.afterLine_count (r : FaultRec) : r.afterLine.count = r.count := by
  unfold FaultRec.afterLine
  split <;> rfl

theorem FaultTable.afterLine_bounded {t : FaultTable} (h : t.bounded) : t.afterLine.bounded := by
  intro id
  rw [FaultTable.afterLine_get, FaultRec.afterLine_count]
  exact h id

theorem FaultRec.cleared_count (r : FaultRec) : r.cleared.count = r.count := by
  unfold FaultRec.cleared
  split_ifs <;> rfl

theorem FaultTable.clear_bounded {t : FaultTable} (h : t.bounded) (ids : List FaultId) : (t.clear ids).bounded := by
  induction ids generalizing t with
  | nil => exact h
  | cons id ids ih => exact ih (FaultTable.set_bounded h (by rw [FaultRec.cleared_count]; exact h id) id)

theorem State.beginReset_table (s : State) (cause : ResetCause) :
    (s.beginReset cause).fmg.table = if cause.cold then .clean else s.fmg.table.afterLine := by
  have hf : s.resetStore.fmg = s.fmg := by simp
  rw [← hf]
  rfl

theorem State.beginReset_table_bounded (h : s.fmg.table.bounded) (cause : ResetCause) :
    (s.beginReset cause).fmg.table.bounded := by
  rw [State.beginReset_table]
  split_ifs
  · exact FaultTable.clean_bounded
  · exact FaultTable.afterLine_bounded h

/-- A count never passes 255, whatever it was raised from (R140, R144). -/
theorem State.occur_table_bounded (h : s.fmg.table.bounded) (id : FaultId) {r : FaultRec} (hr : r.count ≤ 255) :
    (s.occur id r).fmg.table.bounded := by
  rw [State.occur_table]
  exact FaultTable.set_bounded h (bump_le hr) id

theorem State.changeRecord_table_bounded (h : s.fmg.table.bounded) (id : FaultId) {r : FaultRec} (hr : r.count ≤ 255) :
    (s.changeRecord id r).fmg.table.bounded := by
  rw [State.changeRecord_table]
  exact FaultTable.set_bounded h hr id

theorem State.seenFirst_count (s : State) (id : FaultId) (r : FaultRec) : (s.seenFirst id r).count = r.count := by
  unfold State.seenFirst
  split_ifs <;> rfl

theorem State.takePresent_table_bounded (h : s.fmg.table.bounded) (id : FaultId) :
    (s.takePresent id).fmg.table.bounded := by
  have hc : (s.seenFirst id (s.fault id)).count ≤ 255 := by
    rw [State.seenFirst_count]
    exact h id
  dsimp only [State.takePresent]
  split
  · split_ifs
    · exact State.occur_table_bounded h id hc
    · exact State.changeRecord_table_bounded h id hc
  · split_ifs
    · exact State.occur_table_bounded h id hc
    · exact State.changeRecord_table_bounded h id hc
  · exact State.changeRecord_table_bounded h id hc
  · exact State.occur_table_bounded h id hc

theorem State.takeGone_table_bounded (h : s.fmg.table.bounded) (id : FaultId) :
    (s.takeGone id).fmg.table.bounded := by
  dsimp only [State.takeGone]
  split
  · exact State.changeRecord_table_bounded h id (h id)
  · exact State.changeRecord_table_bounded h id (h id)
  · exact h

theorem State.takeEvent_table_bounded (h : s.fmg.table.bounded) (id : FaultId) :
    (s.takeEvent id).fmg.table.bounded := by
  refine State.occur_table_bounded h id ?_
  dsimp only
  rw [State.seenFirst_count]
  exact h id

theorem State.doFltc_table_bounded (h : s.fmg.table.bounded) (fields : List Field) :
    (s.doFltc fields).fmg.table.bounded := by
  have hclear (ids : List FaultId) : (s.clearRecords ids).fmg.table.bounded := by
    simpa [State.clearRecords] using FaultTable.clear_bounded h ids
  unfold State.doFltc
  split
  · exact hclear _
  · split
    · exact h
    · exact hclear _

theorem Does.table_bounded {q t : State} {c : Instr} (hd : Does q c t) (h : q.fmg.table.bounded) :
    t.fmg.table.bounded := by
  have same {f : FaultTable} (e : f = q.fmg.table) : f.bounded := e ▸ h
  cases hd
  case powerOn => exact State.beginReset_table_bounded (s := q.updSmc _) h _
  case brownout => exact State.beginReset_table_bounded (s := q.updSmc _) h _
  case lineReset => exact State.beginReset_table_bounded (s := q.updSmc _) h _
  case lineRequestReset => exact State.beginReset_table_bounded h _
  case faultPresent id => exact State.takePresent_table_bounded h id
  case faultGone id => exact State.takeGone_table_bounded h id
  case faultEvent id => exact State.takeEvent_table_bounded h id
  case fltc fields => exact State.doFltc_table_bounded h fields
  case resetRelease =>
    exact same (by dsimp only [State.releaseReset]; split_ifs <;> simp [State.supplyLow, State.recompute_table])
  case startUpTimerExpiry => exact same (by simp [State.startUp, State.recompute_table])
  case rspw =>
    exact same (by unfold State.doRspw; (repeat' split) <;> simp [State.writeResponse, State.recompute_table])
  case modeRun =>
    exact same (by unfold State.doModeRun; dsimp only; (repeat' split) <;> simp [State.enterRun, State.recompute_table])
  case phcDriverFault => exact same (by split_ifs <;> simp)
  case phcClass1Report => exact same (by split_ifs <;> simp)
  case lfsResponseChange => exact same (by split_ifs <;> simp)
  all_goals exact same (by simp)

theorem State.ready.fmg_eq {s q : State} (h : s.ready q) : q.fmg = s.fmg := by
  obtain ⟨n, l, r, a, rfl⟩ := h
  rfl

/-! ### The store (R161, R162) -/

theorem Page.erased_length : Page.erased.bytes.length = 128 := by simp [Page.erased]

theorem bytes32_length (w : Word32) : (bytes32 w).length = 4 := rfl

theorem Page.build_length (id index : Nat) (gen : Gen) (image : TableImage) :
    (Page.build id index gen image).bytes.length = 128 := by
  simp [Page.build, pageBody_length, bytes32_length]

theorem Cst.bounded_of_pages {a b : Cst} (h : a.bounded) (e : b.pages = a.pages) : b.bounded := by
  unfold Cst.bounded
  rwa [e]

theorem Cst.bounded_of_set {a b : Cst} (h : a.bounded) {n : Nat} {p : Page} (hp : p.bytes.length = 128)
    (e : b.pages = a.pages.set n p) : b.bounded := by
  obtain ⟨hl, hb⟩ := h
  refine ⟨by rw [e, List.length_set, hl], fun x hx => ?_⟩
  rw [e] at hx
  rcases List.mem_or_eq_of_mem_set hx with hx | rfl
  · exact hb x hx
  · exact hp

theorem State.nextSavePage_cst_bounded (h : s.cst.bounded) (r : Region) (n : Nat) :
    (s.nextSavePage r n).cst.bounded := by
  rcases (s.nextSavePage_store r n).1 with hp | hp
  · exact Cst.bounded_of_pages h hp
  · exact Cst.bounded_of_set h Page.erased_length hp

theorem State.endPage_cst_bounded (h : s.cst.bounded) (r : Region) (gen : Gen) (image : TableImage) :
    (s.endPage r gen image).cst.bounded := by
  have hset : (s.setPage s.cst.op.page (.build (regionId r) (s.cst.op.page - regionFirst r) gen image)).cst.bounded :=
    Cst.bounded_of_set h (Page.build_length _ _ _ _) rfl
  dsimp only [State.endPage]
  split_ifs
  · exact State.nextSavePage_cst_bounded hset r _
  · exact Cst.bounded_of_pages hset (State.completeSave_store _ r gen).1

theorem State.cutOffSave_cst_bounded (h : s.cst.bounded) : s.cutOffSave.cst.bounded := by
  obtain ⟨-, -, hp | ⟨r, gen, image, p, -, hlen, hp⟩⟩ := s.cutOffSave_store
  · exact Cst.bounded_of_pages h hp
  · exact Cst.bounded_of_set h hlen hp

theorem State.beginReset_cst_bounded (h : s.cst.bounded) (cause : ResetCause) : (s.beginReset cause).cst.bounded := by
  rw [State.beginReset_cst]
  exact Cst.bounded_of_pages (State.cutOffSave_cst_bounded h) s.resetStore_store.1

theorem State.startSave_cst_bounded (h : s.cst.bounded) (r : Region) (image : TableImage) :
    (s.startSave r image).cst.bounded := by
  rcases (s.startSave_store r image).1 with hp | hp
  · exact Cst.bounded_of_pages h hp
  · exact Cst.bounded_of_set h Page.erased_length hp

theorem State.doSave_cst_bounded (h : s.cst.bounded) (fields : List Field) : (s.doSave fields).cst.bounded := by
  obtain ⟨st, e⟩ | ⟨r, image, hr, e | e⟩ := s.doSave_cases fields <;> rw [e, State.answer_cst]
  · exact h
  · exact State.startSave_cst_bounded h r image
  · exact State.startSave_cst_bounded (Cst.bounded_of_pages h s.abandonSweep_store.1) r image

theorem State.doAbrt_cst_bounded (h : s.cst.bounded) (fields : List Field) : (s.doAbrt fields).cst.bounded := by
  unfold State.doAbrt
  split_ifs
  · exact h
  · split
    · exact h
    · exact Cst.bounded_of_pages h s.abandonSweep_store.1
    next r gen _ _ =>
      exact Cst.bounded_of_pages (State.cutOffSave_cst_bounded h) (s.cutOffSave.endSave_store r gen false).1

theorem State.resumeOp_cst_bounded (h : s.cst.bounded) : s.resumeOp.cst.bounded := by
  dsimp only [State.resumeOp]
  split
  · exact Cst.bounded_of_set h Page.erased_length (State.beginErase_store _ _ _).1
  · exact h

theorem Does.cst_bounded {q t : State} {c : Instr} (hd : Does q c t) (h : q.cst.bounded) : t.cst.bounded := by
  have same {b : Cst} (e : b.pages = q.cst.pages) : b.bounded := Cst.bounded_of_pages h e
  cases hd
  case powerOn => exact State.beginReset_cst_bounded (s := q.updSmc _) h _
  case brownout => exact State.beginReset_cst_bounded (s := q.updSmc _) h _
  case lineReset => exact State.beginReset_cst_bounded (s := q.updSmc _) h _
  case lineRequestReset => exact State.beginReset_cst_bounded h _
  case startUpTimerExpiry on n =>
    dsimp only
    exact same (q.startUp_store on).1
  case cstSupplyChange st => exact same (q.cstTakesSupply_store st).1
  case savePageEnd r gen image _ => exact State.endPage_cst_bounded h r gen image
  case sweepDamaged n _ => exact same (q.sweepDamaged_store n).1
  case sweepOn n _ => exact same (q.sweepOn_store n).1
  case resumeTimerExpiry => exact State.resumeOp_cst_bounded h
  case save on fields => exact State.doSave_cst_bounded (s := q.seeGuard on) h fields
  case swep fields => exact same (by unfold State.doSwep; split_ifs <;> simp)
  case abrt fields => exact State.doAbrt_cst_bounded h fields
  case stst on fields => exact same (by simp; rfl)
  case lock fields armed => exact same (by unfold State.doLock; (repeat' split) <;> simp)
  case phcDriverFault => exact same (by split_ifs <;> simp)
  case phcClass1Report => exact same (by split_ifs <;> simp)
  case lfsResponseChange => exact same (by split_ifs <;> simp)
  all_goals exact same (by simp)

/-! ### The Angle Schedule (R43) -/

theorem State.placeAll_length (s : State) (fired : Nat → EntryKind → Bool) :
    (s.placeAll fired).length = s.asc.plan.length :=
  (sortEntries_perm _).length_eq.trans (List.length_map _)

theorem Asc.bounded_of_placeAll {q : State} {plan : List PlanEntry} (h : s.asc.bounded) (hp : plan = s.asc.plan)
    (hq : q.asc.plan = s.asc.plan) (fired : Nat → EntryKind → Bool) : Asc.bounded ⟨q.placeAll fired, plan⟩ :=
  ⟨by rw [State.placeAll_length, hq]; exact h.2, by rw [hp]; exact h.2⟩

theorem State.fireDue_asc_bounded (h : s.asc.bounded) (v hold : Nat) : (s.fireDue v hold).asc.bounded :=
  ⟨by simpa [State.fireDue] using h.1, h.2⟩

theorem State.fireCycleStart_asc_bounded (h : s.asc.bounded) : s.fireCycleStart.asc.bounded := by
  unfold State.fireCycleStart
  split_ifs
  · exact h
  · exact Asc.bounded_of_placeAll h rfl rfl _

theorem State.advance_asc_bounded (h : s.asc.bounded) (c n : Nat) (new : AngleClock) (hold : Nat) :
    (s.advance c n new hold).asc.bounded := by
  have hm : (s.moveClock c n new).asc.bounded := h
  have hb : ((s.moveClock c n new).fireDue cycleAu 0).countCycle.fireCycleStart.asc.bounded :=
    State.fireCycleStart_asc_bounded (s := ((s.moveClock c n new).fireDue cycleAu 0).countCycle)
      (State.fireDue_asc_bounded hm _ _)
  dsimp only [State.advance]
  split_ifs
  · exact hm
  · exact State.fireDue_asc_bounded hm _ _
  · exact State.fireDue_asc_bounded hb _ _
  · exact State.fireDue_asc_bounded hm _ _

theorem State.passAngles_asc_bounded (h : s.asc.bounded) (c n : Nat) (new : AngleClock) (hold : Nat) :
    (s.passAngles c n new hold).asc.bounded := by
  dsimp only [State.passAngles]
  split
  · exact State.advance_asc_bounded h _ _ _ _
  · split_ifs
    · simpa using State.advance_asc_bounded (s := { s with ceu := { s.ceu with refSeen := false, reportSent := true } })
        h _ _ _ _
    · apply State.advance_asc_bounded
      exact h

theorem State.run_asc_bounded (h : s.asc.bounded) (n hold : Nat) : (s.run n hold).asc.bounded := by
  unfold State.run
  split
  · exact h
  · exact h
  · exact State.passAngles_asc_bounded h _ _ _ _

theorem State.runAngles_asc_bounded (h : s.asc.bounded) (n hold : Nat) : (s.runAngles n hold).asc.bounded := by
  unfold State.runAngles
  split
  · exact State.run_asc_bounded h _ _
  · exact State.run_asc_bounded (State.run_asc_bounded (State.run_asc_bounded h _ _) _ _) _ _

theorem State.clockToTooth_asc_bounded (h : s.asc.bounded) (w : Wheel) (n : Nat) (t : Word32) (hold : Nat) :
    (s.clockToTooth w n t hold).asc.bounded := by
  unfold State.clockToTooth
  split
  · exact h
  · exact State.passAngles_asc_bounded h _ _ _ _

theorem State.lockedEdge_asc_bounded (h : s.asc.bounded) (w : Wheel) (t : Word32) (gap : Bool) (hold : Nat) :
    (s.lockedEdge w t gap hold).asc.bounded := by
  unfold State.lockedEdge
  split
  · exact State.clockToTooth_asc_bounded (s := s.updCkt _) h _ _ _ _
  · simpa using h
  · simpa using h
  · exact State.clockToTooth_asc_bounded (s := s.updCkt _) h _ _ _ _

theorem State.acceptEdge_asc_bounded (h : s.asc.bounded) (w : Wheel) (i : Option Word32) (hold : Nat) :
    (s.acceptEdge w i hold).asc.bounded := by
  dsimp only [State.acceptEdge]
  split
  · split_ifs <;> simpa using h
  · split_ifs <;> simpa using h
  · refine State.lockedEdge_asc_bounded ?_ _ _ _ _
    split_ifs <;> simpa using h

/-! A layout that validates has a plan within the schedule's capacity (R12, R42). -/

theorem Layout.chanPlan_length (l : Layout) (ch : Chan) : (l.chanPlan ch).length ≤ (l.edges.get ch).length := by
  unfold Layout.chanPlan
  split <;> simp

theorem Layout.plan_length_le (l : Layout) : l.plan.length ≤ l.entryCount := by
  have hc : (l.boundChans.flatMap l.chanPlan).length ≤ (l.boundChans.map fun ch => (l.edges.get ch).length).sum := by
    rw [List.length_flatMap]
    exact List.sum_le_sum fun ch _ => l.chanPlan_length ch
  have hu : (l.boundUnits.flatMap l.unitPlan).length = 3 * l.boundUnits.length := by
    simp [List.length_flatMap, Layout.unitPlan, Nat.mul_comm]
  simp only [Layout.plan, Layout.entryCount, List.cons_append, List.length_cons, List.length_append, hu]
  omega

theorem Layout.plan_length_of_valid {o : Origin} {l : Layout} (h : validate o l = none) : l.plan.length ≤ 32 := by
  have hcap : checkCapacity l = none := by
    simp only [validate, Option.or_eq_none_iff] at h
    exact h.2.2.2.2.2.2.2.2.2.2.2
  have : ¬ 32 < l.entryCount := by
    intro hlt
    simp [checkCapacity, hlt] at hcap
  have := l.plan_length_le
  omega

theorem State.doModeRun_asc_bounded (h : s.asc.bounded) (fields : List Field) : (s.doModeRun fields).asc.bounded := by
  dsimp only [State.doModeRun]
  split_ifs
  · exact h
  · exact h
  · split
    · exact h
    next hv =>
      have he : (s.dropValidation.enterRun.answer .MODE .ok).asc = ⟨[], s.dropValidation.tbm.layout.plan⟩ := by
        simp [State.enterRun, State.ascEnterRun]
      rw [he]
      exact ⟨by simp, Layout.plan_length_of_valid hv⟩

theorem State.doModeStandby_asc_bounded (h : s.asc.bounded) (fields : List Field) (seen : LoadSeen) :
    (s.doModeStandby fields seen).asc.bounded := by
  dsimp only [State.doModeStandby]
  split_ifs
  · exact h
  · exact h
  · exact h
  · simp [State.leaveRun, Asc.bounded]

theorem Does.asc_bounded {q t : State} {c : Instr} (hd : Does q c t) (h : q.asc.bounded) : t.asc.bounded := by
  have same {b : Asc} (e : b = q.asc) : b.bounded := e ▸ h
  have empty : Asc.bounded ⟨[], []⟩ := ⟨by simp, by simp⟩
  cases hd
  case powerOn => exact empty
  case brownout => exact empty
  case lineReset => exact empty
  case lineRequestReset => exact empty
  case crkEdge w i => exact State.acceptEdge_asc_bounded h w i _
  case angleClockReach n => exact State.runAngles_asc_bounded h n _
  case ascLockGained => exact Asc.bounded_of_placeAll h rfl rfl _
  case ascLockLost => exact ⟨by simp [State.emptyList], h.2⟩
  case modeRun fields => exact State.doModeRun_asc_bounded h fields
  case modeStandby fields seen => exact State.doModeStandby_asc_bounded h fields seen
  case phcDriverFault => exact same (by split_ifs <;> simp)
  case phcClass1Report => exact same (by split_ifs <;> simp)
  case lfsResponseChange => exact same (by split_ifs <;> simp)
  all_goals exact same (by simp)

theorem State.ready.asc_eq {s q : State} (h : s.ready q) : q.asc = s.asc := by
  obtain ⟨n, l, r, a, rfl⟩ := h
  rfl

/-! ### The obligations -/

theorem State.ready.bounded {s q : State} (h : s.ready q) (hs : s.bounded) : q.bounded := by
  obtain ⟨hclp, htrb, hfmg, hcst, hasc⟩ := hs
  exact ⟨Clp.bounded_of_lists hclp h.clp_lists, h.trb_eq ▸ htrb, h.fmg_eq ▸ hfmg, h.cst_eq ▸ hcst, h.asc_eq ▸ hasc⟩

theorem Does.bounded {q t : State} {c : Instr} (hd : Does q c t) (h : q.bounded) : t.bounded := by
  obtain ⟨hclp, htrb, hfmg, hcst, hasc⟩ := h
  exact ⟨hd.clp_bounded hclp, hd.trb_bounded htrb, hd.table_bounded hfmg, hd.cst_bounded hcst, hd.asc_bounded hasc⟩

/-- Settles O3: getting ready and every work keep the bounds, block by block. -/
theorem everyStepKeepsTheBounds : Obligations.EveryStepKeepsTheBounds :=
  fun _ _ hs h => step_inv State.bounded (fun _ _ hr => hr.bounded) (fun _ _ hb => hb) (fun _ _ _ hd => hd.bounded) h hs

/-- Settles O4: block by block, from the reset records. -/
theorem resetStateIsWithinTheBounds : Obligations.ResetStateIsWithinTheBounds := by
  refine ⟨⟨Clp.reset_bounded, Trb.reset_bounded, FaultTable.clean_bounded, ⟨?_, ?_⟩, ?_⟩, rfl, ?_⟩
  · exact List.length_replicate
  · intro p hp
    rw [List.eq_of_mem_replicate hp]
    exact Page.erased_length
  · exact ⟨by simp [State.reset], by simp [State.reset]⟩
  · exact Cst.guarded_of_idle (by simp [State.reset, Cst.blankStore, StoreOp.idle])

end Sys2Proof.Machine
end

section
/-! Proofs about the Command Line Port (R177 to R185): what a reply adds to what is owed, which line goes out when one
ends, what becomes of a notice, of a character, of a completed line, of a line taken, and what the port's own requests
answer. -/

namespace Sys2Proof.Machine

/-! ### The transmitter (R182) -/

theorem Clp.pump_of_sending {c : Clp} {x : Sending} (h : c.sending = some x) : c.pump = c := by
  simp [Clp.pump, h]

theorem Clp.pump_of_reply {c : Clp} {l : Line} {more : List Line} (h : c.sending = none) (hr : c.replies = l :: more) :
    c.pump = { c with sending := some (.reply l), replies := more } := by
  simp [Clp.pump, h, hr]

theorem Clp.pump_of_notice {c : Clp} {n : Notice} {more : List Notice} (h : c.sending = none) (hr : c.replies = [])
    (hq : c.queue = n :: more) : c.pump = { c with sending := some (.notice n), queue := more } := by
  simp [Clp.pump, h, hr, hq]

theorem Clp.pump_of_idle {c : Clp} (h : c.sending = none) (hr : c.replies = []) (hq : c.queue = []) : c.pump = c := by
  simp [Clp.pump, h, hr, hq]

/-! ### Replies (R180) -/

/-- With a reply line waiting, the transmitter moves it on and touches nothing else. -/
theorem Clp.pump_of_replies {c : Clp} (h : c.replies ≠ []) :
    ∃ sending replies, c.pump = { c with sending := sending, replies := replies } ∧ c.pump.owed = c.owed := by
  obtain ⟨l, more, hr⟩ := List.exists_cons_of_ne_nil h
  cases hs : c.sending with
  | none => exact ⟨_, _, Clp.pump_of_reply hs hr, by simp [Clp.pump_of_reply hs hr, Clp.owed, hs, hr]⟩
  | some x =>
    rw [Clp.pump_of_sending hs]
    exact ⟨c.sending, c.replies, rfl, rfl⟩

theorem Clp.owed_append (c : Clp) (ls : List Line) (r : Option (LineKey × Status)) :
    Clp.owed { c with replies := c.replies ++ ls, lastRefusal := r } = c.owed ++ ls := by
  unfold Clp.owed
  dsimp only
  split <;> simp

theorem Status.accepts_iff (st : Status) : st.accepts = true ↔ st = .ok ∨ st = .accepted := by
  cases st <;> simp [Status.accepts]

/-- A single-line reply is one line owed, and a refusal is kept; nothing else of the port changes. -/
theorem Clp.answer_eq (c : Clp) (key : LineKey) (st : Status) (fields : List Field) : ∃ sending replies,
    c.answer key st fields = { c with
      sending := sending
      replies := replies
      lastRefusal := if st.accepts then c.lastRefusal else some (key, st) } ∧
    (c.answer key st fields).owed = c.owed ++ [⟨.reply, key, .word st.token :: fields⟩] := by
  obtain ⟨sending, replies, e, ho⟩ := Clp.pump_of_replies (c := { c with
    replies := c.replies ++ [⟨.reply, key, .word st.token :: fields⟩]
    lastRefusal := if st.accepts then c.lastRefusal else some (key, st) }) (by simp)
  exact ⟨sending, replies, e, ho.trans (c.owed_append _ _)⟩

/-- A run is its lines owed, with an end line. -/
theorem Clp.answerRun_eq (c : Clp) (key : LineKey) (lines : List (List Field)) : ∃ sending replies,
    c.answerRun key lines = { c with sending := sending, replies := replies } ∧
    (c.answerRun key lines).owed =
      c.owed ++ lines.map (fun f => Line.mk .reply key f) ++ [⟨.reply, key, [.word .END, .num lines.length]⟩] := by
  obtain ⟨sending, replies, e, ho⟩ := Clp.pump_of_replies (c := { c with
    replies := c.replies ++ (lines.map fun f => Line.mk .reply key f) ++
      [⟨.reply, key, [.word .END, .num lines.length]⟩] }) (by simp)
  refine ⟨sending, replies, e, ho.trans ?_⟩
  simpa using c.owed_append (lines.map (fun f => Line.mk .reply key f) ++
    [⟨.reply, key, [.word .END, .num lines.length]⟩]) c.lastRefusal

/-- Settles O16: what answering adds to the lines owed, and that it changes nothing but these and the refusal kept. -/
theorem repliesAreOwedInFull : Obligations.RepliesAreOwedInFull := by
  intro c key st fields lines
  obtain ⟨x, l, ea, oa⟩ := c.answer_eq key st fields
  obtain ⟨y, m, er, ow⟩ := c.answerRun_eq key lines
  refine ⟨oa, by rw [ea]; simp only [Status.accepts_iff], ?_, ow, by rw [er]⟩
  rintro d (rfl | rfl)
  · rw [ea]
    simp
  · rw [er]
    simp

/-! ### A line on TXD ends (R182) -/

theorem exec_lineSent_of_sending {s : State} {x : Sending} (h : s.clp.sending = some x) (dt : Nat) :
    exec (.lineSent dt) s = .next ((s.pass dt).updClp Clp.lineEnds) := by
  have he : exec (.lineSent dt) s = execLineSent dt s := rfl
  rw [he, execLineSent, h]

/-- The port as a line ends, before the next one begins: the place of a line answered in full is free. -/
def Clp.placeFreed (c : Clp) : Clp :=
  if c.answering && c.replies.isEmpty && c.request.isNone then
    { c with answering := false, buffer := c.buffer.tail }
  else c

theorem Clp.lineEnds_eq (c : Clp) : c.lineEnds = Clp.pump { c.placeFreed with sending := none } := by
  unfold Clp.lineEnds Clp.placeFreed
  dsimp only
  split_ifs <;> rfl

theorem Clp.placeFreed_waiting (c : Clp) : c.placeFreed.replies = c.replies ∧ c.placeFreed.queue = c.queue := by
  unfold Clp.placeFreed
  split_ifs <;> exact ⟨rfl, rfl⟩

section
variable {c : Clp}

theorem Clp.lineEnds_of_reply {l : Line} {more : List Line} (h : c.replies = l :: more) :
    c.lineEnds = { c.placeFreed with sending := some (.reply l), replies := more } :=
  c.lineEnds_eq.trans
    (Clp.pump_of_reply (c := { c.placeFreed with sending := none }) rfl (c.placeFreed_waiting.1.trans h))

theorem Clp.lineEnds_of_notice {n : Notice} {more : List Notice} (h : c.replies = []) (hq : c.queue = n :: more) :
    c.lineEnds = { c.placeFreed with sending := some (.notice n), queue := more } :=
  c.lineEnds_eq.trans (Clp.pump_of_notice (c := { c.placeFreed with sending := none }) rfl
    (c.placeFreed_waiting.1.trans h) (c.placeFreed_waiting.2.trans hq))

theorem Clp.lineEnds_of_nothing (h : c.replies = []) (hq : c.queue = []) :
    c.lineEnds = { c.placeFreed with sending := none } :=
  c.lineEnds_eq.trans (Clp.pump_of_idle (c := { c.placeFreed with sending := none }) rfl
    (c.placeFreed_waiting.1.trans h) (c.placeFreed_waiting.2.trans hq))

end

/-- Settles O19: the line that ends frees the place, and the next line is by what waits. -/
theorem repliesGoOutBeforeNotices : Obligations.RepliesGoOutBeforeNotices := by
  intro s dt x hx
  have he : exec (.lineSent dt) s = .next { s with now := s.now + dt, clp := s.clp.lineEnds } :=
    exec_lineSent_of_sending hx dt
  refine ⟨fun l more hl => ?_, fun n more hl hn => ?_, fun hl hn => ?_⟩
  · rw [he, Clp.lineEnds_of_reply hl]
    rfl
  · rw [he, Clp.lineEnds_of_notice hl hn]
    rfl
  · rw [he, Clp.lineEnds_of_nothing hl hn]
    rfl

/-! ### Notices (R183) -/

/-- The port with a notice more waiting. -/
def Clp.queued (c : Clp) (n : Notice) : Clp := { c with queue := c.queue ++ [n] }

theorem Clp.takeNotice_of_masked {c : Clp} {n : Notice} (h : c.mask.on (noticeKind n) = false) : c.takeNotice n = c := by
  simp [Clp.takeNotice, h]

section
variable {c : Clp} {n : Notice} (h : c.mask.on (noticeKind n) = true)
include h

theorem Clp.takeNotice_of_full (hl : 8 ≤ c.queue.length) : c.takeNotice n = { c with dropped := true } := by
  simp [Clp.takeNotice, h, Nat.not_lt.mpr hl]

theorem Clp.takeNotice_of_room (hl : c.queue.length < 8) : c.takeNotice n = (c.queued n).pump := by
  simp [Clp.takeNotice, h, hl, Clp.queued]

end

/-- Settles O20: the notice by the mask, by the eight places, and by whether the transmitter is idle. -/
theorem noticesAreMaskedQueuedOrDropped : Obligations.NoticesAreMaskedQueuedOrDropped := by
  intro s t src n ho
  have he : exec (.noticeHandedIn src) s = .next { t with clp := t.clp.takeNotice n } :=
    execNoticeHandedIn_of_offers src n ho
  refine ⟨fun hm => ?_, fun hm hl => ?_, fun hm hl hs => ?_, fun hm hl hs hr => ?_⟩
  · rw [he, Clp.takeNotice_of_masked hm]
  · rw [he, Clp.takeNotice_of_full hm hl]
  · obtain ⟨x, hx⟩ := Option.isSome_iff_exists.mp hs
    have hp : (t.clp.queued n).pump = t.clp.queued n := Clp.pump_of_sending hx
    rw [he, Clp.takeNotice_of_room hm hl, hp]
    rfl
  · obtain ⟨m, rest, hq⟩ := List.exists_cons_of_ne_nil (l := t.clp.queue ++ [n]) (by simp)
    have hp : (t.clp.queued n).pump = { t.clp.queued n with sending := some (.notice m), queue := rest } :=
      Clp.pump_of_notice hs hr hq
    refine ⟨m, rest, hq, ?_⟩
    rw [he, Clp.takeNotice_of_room hm hl, hp]
    rfl

/-! ### The port after a reset (R177) -/

section
variable {s : State}

theorem exec_brownout {volts : Nat} (hv : volts < 60) (hc : s.smc.coldHeld = false) (dt : Nat) :
    exec (.supplyCrossing dt volts) s =
      .next (((s.pass dt).updSmc fun m => { m with supply := volts }).beginReset .brownout) := by
  have he : exec (.supplyCrossing dt volts) s = execSupplyCrossing dt volts s := rfl
  rw [he, execSupplyCrossing]
  exact if_pos (Bool.and_eq_true_iff.mpr ⟨decide_eq_true hv, congrArg not hc⟩)

theorem exec_lineReset (hc : s.smc.coldHeld = false) (dt : Nat) : exec (.lineReset dt) s =
    .next (((s.pass dt).updSmc fun m => { m with rstnLow := true }).beginReset .line) := by
  have he : exec (.lineReset dt) s = execLineReset dt s := rfl
  rw [he, execLineReset]
  exact if_neg (Bool.eq_false_iff.mp hc)

theorem exec_lineRequestReset (ha : s.smc.resetAsked = true) (hf : s.clp.free = true) :
    exec .lineRequestReset s = .next (s.beginReset .lineRequest) := by
  have he : exec .lineRequestReset s = execLineRequestReset s := rfl
  rw [he, execLineRequestReset, if_pos (by simp [ha, hf])]

end

/-- Settles O8: each of the four kinds begins the reset in the case given, and a reset leaves the port as it is said. -/
theorem resetsEmptyThePort : Obligations.ResetsEmptyThePort := by
  intro s dt volts
  have hreset (q : State) (cause : ResetCause) : (q.beginReset cause).clp =
      ⟨none, [], false, none, [], none, [], ⟨true, false, false, true, true, true, true⟩, false, false, false, none, none⟩ := rfl
  exact ⟨⟨_, rfl, hreset _ _⟩, fun hv hc => ⟨_, exec_brownout hv hc dt, hreset _ _⟩,
    fun hc => ⟨_, exec_lineReset hc dt, hreset _ _⟩, fun ha hf => ⟨_, exec_lineRequestReset ha hf, hreset _ _⟩⟩

/-! ### Characters and lines (R179) -/

theorem Assembly.gapped_iff (a : Assembly) (t : Time) : a.gapped t = true ↔ a.fromInit = false ∧ a.last + ms 5 < t := by
  simp [Assembly.gapped]

theorem Clp.seeGap_of_none {c : Clp} (h : c.rx = none) (t : Time) : c.seeGap t = c := by
  simp [Clp.seeGap, h]

theorem Clp.seeGap_of_gapped {c : Clp} {a : Assembly} (h : c.rx = some a) {t : Time} (hg : a.gapped t = true) :
    c.seeGap t = { c with rx := none, lineError := true } := by
  simp [Clp.seeGap, h, hg, Clp.dropLine]

theorem Clp.seeGap_of_not_gapped {c : Clp} {a : Assembly} (h : c.rx = some a) {t : Time} (hg : ¬ a.gapped t = true) :
    c.seeGap t = c := by
  simp [Clp.seeGap, h, hg]

theorem Assembly.take_of_room {a : Assembly} (h : a.codes.length < 320) (t : Time) (x : Byte) :
    a.take t x = { a with codes := a.codes ++ [x], bad := a.bad || !printable x, last := t } := if_pos h

theorem Assembly.take_of_full {a : Assembly} (h : 320 ≤ a.codes.length) (t : Time) (x : Byte) :
    a.take t x = { a with long := true, last := t } := if_neg (by omega)

theorem exec_characterReceived {s : State} (h : s.smc.inReset = false) (dt : Nat) (x : Byte) :
    exec (.characterReceived dt x) s =
      .next { s with now := s.now + dt, clp := s.clp.takeChar (s.smc.mode == .init) (s.now + dt) x } := by
  have he : exec (.characterReceived dt x) s = execCharacterReceived dt x s := rfl
  rw [he, execCharacterReceived]
  exact if_neg (by simp [h])

theorem exec_lineComplete {s : State} (h : s.smc.inReset = false) (dt : Nat) :
    exec (.lineComplete dt) s = .next { s with now := s.now + dt, clp := s.clp.endLine (s.now + dt) } := by
  have he : exec (.lineComplete dt) s = execLineComplete dt s := rfl
  rw [he, execLineComplete]
  exact if_neg (by simp [h])

theorem exec_lineGapTimeout {s : State} {a : Assembly} (h : s.clp.rx = some a) (hi : a.fromInit = false) :
    exec .lineGapTimeout s = .next { s with
      now := max s.now (a.last + ms 5 + 1), clp := { s.clp with rx := none, lineError := true } } := by
  have he : exec .lineGapTimeout s = execLineGapTimeout s := rfl
  rw [he, execLineGapTimeout, h]
  exact if_neg (by simp [hi])

theorem Clp.endLine_of_none {c : Clp} {t : Time} (h : (c.seeGap t).rx = none) : c.endLine t = c.seeGap t := by
  simp [Clp.endLine, h]

theorem Clp.endLine_of_some {c : Clp} {t : Time} {a : Assembly} (h : c.rx = some a) (hg : ¬ a.gapped t = true) :
    c.endLine t = if a.fromInit then { c with rx := none }
      else Clp.place { c with rx := none } ⟨a.codes, a.long, a.bad⟩ := by
  simp [Clp.endLine, Clp.seeGap_of_not_gapped h hg, h]

/-- Settles O17: a character, and a CR LF, by the line under assembly, its gap, its length and the places free. -/
theorem charactersMakeLinesThatTakePlaces : Obligations.CharactersMakeLinesThatTakePlaces := by
  refine ⟨⟨fun s dt x hr => ?_, fun s a ha hi => exec_lineGapTimeout ha hi⟩, fun s dt hr => ?_⟩
  · have going {a : Assembly} (hg : a.fromInit = true ∨ s.now + dt ≤ a.last + ms 5) :
        ¬ a.gapped (s.now + dt) = true := by
      rw [Assembly.gapped_iff]
      rintro ⟨hi, hlt⟩
      rcases hg with hg | hg
      · simp [hi] at hg
      · exact absurd hlt (Nat.not_lt.mpr hg)
    rw [exec_characterReceived hr]
    refine ⟨fun hn => ?_, fun a ha hi hg => ?_, fun a ha hg hl => ?_, fun a ha hg hl => ?_⟩
    · simp [Clp.takeChar, Clp.seeGap_of_none hn, hn, Assembly.take_of_room, printable]
    · simp [Clp.takeChar, Clp.seeGap_of_gapped ha ((a.gapped_iff _).mpr ⟨hi, hg⟩), Assembly.take_of_room, printable]
    · simp [Clp.takeChar, Clp.seeGap_of_not_gapped ha (going hg), ha, Assembly.take_of_room hl, printable]
    · simp [Clp.takeChar, Clp.seeGap_of_not_gapped ha (going hg), ha, Assembly.take_of_full hl]
  · have going {a : Assembly} (hg : s.now + dt ≤ a.last + ms 5) : ¬ a.gapped (s.now + dt) = true := by
      rw [Assembly.gapped_iff]
      exact fun h => absurd h.2 (Nat.not_lt.mpr hg)
    rw [exec_lineComplete hr]
    refine ⟨fun hn => ?_, fun a ha => ⟨fun hi => ?_, fun hi hg => ?_, fun hi hg hl => ?_, fun hi hg hl => ?_⟩⟩
    · rw [Clp.endLine_of_none (by rw [Clp.seeGap_of_none hn, hn]), Clp.seeGap_of_none hn]
    · rw [Clp.endLine_of_some ha (by simp [Assembly.gapped_iff, hi]), if_pos hi]
    · have hs := Clp.seeGap_of_gapped ha ((a.gapped_iff _).mpr ⟨hi, hg⟩)
      rw [Clp.endLine_of_none (by rw [hs]), hs]
    · rw [Clp.endLine_of_some ha (going hg), if_neg (by simp [hi]), Clp.place, if_pos hl]
    · rw [Clp.endLine_of_some ha (going hg), if_neg (by simp [hi]), Clp.place, if_neg (Nat.not_lt.mpr hl)]

/-! ### Lines taken (R180, R181) -/

theorem consumesArm_iff (k : Keyword) : consumesArm k = true ↔ k = .RSET ∨ k = .LOCK ∨ k = .CLRL := by
  cases k <;> simp [consumesArm]

theorem exec_lineTaken {s : State} {l : RxLine} {rest : List RxLine} (ht : s.takesRequests = true)
    (hf : s.clp.free = true) (hb : s.clp.buffer = l :: rest) :
    exec .lineTaken s = .next (s.updClp fun c => c.takeLine l) := by
  have he : exec .lineTaken s = execLineTaken s := rfl
  rw [he, execLineTaken, ht, hf, hb]
  rfl

/-- A line splits where its parts stand as the format says (R178). -/
theorem splitLine_eq_some_iff_parts (c body : List Byte) (sum : Byte) : splitLine c = some (body, sum) ↔
    ∃ (hi lo : Byte) (h n : Nat), hexDigit? hi = some h ∧ hexDigit? lo = some n ∧
      c = 0x3E#8 :: body ++ [0x2A#8, hi, lo] ∧ sum.toNat = 16 * h + n := by
  rw [splitLine_eq_some_iff]
  have hbound {d : Byte} {k : Nat} (hk : hexDigit? d = some k) : k < 16 := by
    rw [hexDigit?_eq_some_iff] at hk
    omega
  refine exists_congr fun hi => exists_congr fun lo => exists_congr fun h => exists_congr fun n => ?_
  refine and_congr_right fun hh => and_congr_right fun hn => and_congr_right fun _ => ?_
  have := hbound hh
  have := hbound hn
  constructor
  · rintro rfl
    simp only [BitVec.toNat_ofNat]
    omega
  · intro e
    apply BitVec.eq_of_toNat_eq
    simp only [BitVec.toNat_ofNat]
    omega

theorem keywordCodes_length (k : Keyword) : (keywordCodes k).length = 4 := by
  cases k <;> rfl

theorem keywordCodes_capital (k : Keyword) : (keywordCodes k).all capital = true := by
  cases k <;> rfl

theorem find_keyword_self (k : Keyword) : allKeywords.find? (fun x => keywordCodes x == keywordCodes k) = some k := by
  cases k <;> rfl

section
variable {l : RxLine} {body : List Byte} {sum : Byte} {key : List Byte} {rest : List (List Byte)}

theorem checkLine_of_long (h : l.long = true) : checkLine l = .refuse .dashes .long := by simp [checkLine, h]

theorem checkLine_of_bad (h : l.long = false) (hb : l.bad = true) : checkLine l = .refuse .dashes .format := by
  simp [checkLine, h, hb]

theorem checkLine_of_unsplit (h : l.long = false) (hb : l.bad = false) (hs : splitLine l.codes = none) :
    checkLine l = .refuse .dashes .format := by
  simp [checkLine, h, hb, hs]

variable (h : l.long = false) (hb : l.bad = false) (hs : splitLine l.codes = some (body, sum))
include h hb hs

theorem checkLine_of_wrong_sum (hc : checksum body ≠ sum) : checkLine l = .refuse .dashes .check := by
  simp [checkLine, h, hb, hs, hc]

variable (hc : checksum body = sum) (hk : splitSpaces body = key :: rest)
include hc hk

theorem checkLine_of_malformed_key (hm : key.length ≠ 4 ∨ ¬ key.all capital) :
    checkLine l = .refuse .dashes .format := by
  have : (key.length != 4 || !key.all capital) = true := by simpa using hm
  simp only [checkLine, h, hb, hs, hc, hk, this, bne_self_eq_false, Bool.false_eq_true, if_false, if_true]

/-! Past the form of the keyword, the dispatch list decides. -/

theorem checkLine_of_unknown (hl : key.length = 4) (ha : key.all capital = true)
    (hn : allKeywords.find? (fun k => keywordCodes k == key) = none) : checkLine l = .refuse (.raw key) .unknown := by
  have : (key.length != 4 || !key.all capital) = false := by simp [hl, ha]
  simp only [checkLine, h, hb, hs, hc, hk, hn, this, bne_self_eq_false, Bool.false_eq_true, if_false]

theorem checkLine_of_keyword {k : Keyword} (hkey : key = keywordCodes k) :
    checkLine l = .request ⟨k, rest.map readField⟩ := by
  have : (key.length != 4 || !key.all capital) = false := by simp [hkey, keywordCodes_length, keywordCodes_capital]
  simp only [checkLine, h, hb, hs, hc, hk, this, hkey ▸ find_keyword_self k, bne_self_eq_false, Bool.false_eq_true,
    if_false]

end

/-- Settles O18: a line taken by what its checks say, and each check on a line that passes those before it. -/
theorem linesAreTakenAndCheckedInOrder : Obligations.LinesAreTakenAndCheckedInOrder := by
  refine ⟨fun s l rest ht hf hb => ⟨fun r hr => ?_, fun key st hr => ?_⟩, fun l => ⟨checkLine_of_long, checkLine_of_bad,
    fun hl hb hn => ?_, fun body sum hl hb hp => ?_⟩⟩
  · rw [exec_lineTaken ht hf hb]
    simp only [State.updClp, Clp.takeLine, hr, consumesArm_iff]
  · rw [exec_lineTaken ht hf hb]
    simp only [State.updClp, Clp.takeLine, hr]
  · refine checkLine_of_unsplit hl hb ?_
    by_contra hs
    obtain ⟨⟨body, sum⟩, hs⟩ := Option.ne_none_iff_exists'.mp hs
    simp only [splitLine_eq_some_iff_parts, hexDigit?_eq_some_iff] at hs
    exact hn body sum hs
  · have hs : splitLine l.codes = some (body, sum) := by
      simpa only [splitLine_eq_some_iff_parts, hexDigit?_eq_some_iff] using hp
    refine ⟨checkLine_of_wrong_sum hl hb hs, fun hc key rest hk => ⟨checkLine_of_malformed_key hl hb hs hc hk,
      fun h4 ha hn => checkLine_of_unknown hl hb hs hc hk h4 ha (by simpa using fun k _ => hn k),
      fun k hkey => checkLine_of_keyword hl hb hs hc hk hkey⟩⟩

/-! ### Requests of the port itself (R181, R183 to R185) -/

/-- A request that begins is performed on the state as it begins. -/
theorem exec_of_begins {s t : State} {k : Keyword} {fields : List Field} {c : Instr} {act : State → State}
    (he : exec c s = .next (s.request k fields act)) (hb : s.begins k fields t) : exec c s = .next (act t) := by
  rw [he, State.request_of_begins act hb]

theorem State.begins.arm_eq_none {s t : State} {k : Keyword} {fields : List Field} (h : s.begins k fields t)
    (hk : consumesArm k = false) : t.clp.arm = none := by
  obtain ⟨-, rfl⟩ := h
  simp [State.begun, hk]

theorem State.begins.now_eq {s t : State} {k : Keyword} {fields : List Field} (h : s.begins k fields t) :
    t.now = s.now := by
  obtain ⟨-, rfl⟩ := h
  rfl

theorem State.doArms_of_op {fields : List Field} {op : ArmOp} (h : armOp? fields = some op) (s : State) :
    s.doArms fields = (s.updClp fun c => { c with arm := some (op, s.now + ms 50) }).answer .ARMS .ok := by
  simp only [State.doArms, h]

theorem State.doArms_of_none {fields : List Field} (h : armOp? fields = none) (s : State) :
    s.doArms fields = s.answer .ARMS .format := by
  simp only [State.doArms, h]

theorem armOp?_eq_none {fields : List Field} (hr : fields ≠ [.word .RESET]) (hl : fields ≠ [.word .LOCK])
    (hc : fields ≠ [.word .CLRL]) : armOp? fields = none := by
  unfold armOp?
  split
  · exact absurd rfl hr
  · exact absurd rfl hl
  · exact absurd rfl hc
  · rfl

theorem Clp.armTaken_iff (c : Clp) : c.armTaken = true ↔
    ∃ r, c.request = some r ∧ (r.key = .RSET ∨ r.key = .LOCK ∨ r.key = .CLRL) := by
  cases h : c.request <;> simp [Clp.armTaken, h, consumesArm_iff]

theorem exec_armLapse {s : State} {op : ArmOp} {x : Time} (h : s.clp.arm = some (op, x)) : exec .armLapse s =
    if s.clp.armTaken then .next s else .next { s with now := max s.now x, clp := { s.clp with arm := none } } := by
  have he : exec .armLapse s = execArmLapse s := rfl
  rw [he, execArmLapse, h]
  rfl

/-- The token that names a kind of notice (R183). -/
def noticeToken : NoticeKind → Token
  | .flt => .FLT
  | .syn => .SYN
  | .chs => .CHS
  | .lft => .LFT
  | .trc => .TRC
  | .sto => .STO
  | .mod => .MOD
  | .rdy => .RDY

/-- The fields of an NMSK that spell pairs, as `maskPairs?_spec` reads them (R183). -/
def maskSpelling (pairs : List (NoticeKind × Bool)) : List Field :=
  pairs.flatMap fun p => [.word (noticeToken p.1), .word (if p.2 then .ON else .OFF)]

theorem maskSpelling_injective {ps qs : List (NoticeKind × Bool)} (h : maskSpelling ps = maskSpelling qs) : ps = qs := by
  induction ps generalizing qs with
  | nil =>
    cases qs with
    | nil => rfl
    | cons q qs => simp [maskSpelling] at h
  | cons p ps ih =>
    cases qs with
    | nil => simp [maskSpelling] at h
    | cons q qs =>
      obtain ⟨k, b⟩ := p
      obtain ⟨j, c⟩ := q
      simp only [maskSpelling, List.flatMap_cons, List.cons_append, List.nil_append, List.cons.injEq,
        Field.word.injEq] at h
      obtain ⟨hk, hb, hrest⟩ := h
      have hkj : k = j := by cases k <;> cases j <;> first | rfl | cases hk
      have hbc : b = c := by cases b <;> cases c <;> first | rfl | cases hb
      rw [hkj, hbc, ih hrest]

theorem State.doNmsk_of_none {fields : List Field} (h : maskPairs? fields = none) (s : State) :
    s.doNmsk fields = s.answer .NMSK .format := by
  simp only [State.doNmsk, h]

section
variable {fields : List Field} {pairs : List (NoticeKind × Bool)} (h : maskPairs? fields = some pairs) (s : State)
include h

theorem State.doNmsk_of_rdy (hr : ∃ b, (.rdy, b) ∈ pairs) : s.doNmsk fields = s.answer .NMSK .range := by
  obtain ⟨b, hb⟩ := hr
  have : (pairs.any fun p => p.1 == .rdy) = true := List.any_eq_true.mpr ⟨_, hb, by simp⟩
  simp only [State.doNmsk, h, this, if_true]

theorem State.doNmsk_of_no_rdy (hr : ∀ b, (.rdy, b) ∉ pairs) : s.doNmsk fields =
    (s.updClp fun c => { c with mask := pairs.foldl Mask.set s.clp.mask }).answer .NMSK .ok
      (pairs.foldl Mask.set s.clp.mask).fields := by
  have : (pairs.any fun p => p.1 == .rdy) = false := by
    simp only [List.any_eq_false, beq_iff_eq]
    rintro ⟨k, b⟩ hp rfl
    exact hr b hp
  simp only [State.doNmsk, h, this, Bool.false_eq_true, if_false]

end

theorem Mask.on_set (m : Mask) (p : NoticeKind × Bool) (k : NoticeKind) (h : p.1 ≠ .rdy) :
    (m.set p).on k = if p.1 = k then p.2 else m.on k := by
  obtain ⟨j, b⟩ := p
  cases j <;> cases k <;> simp_all [Mask.set, Mask.on]

/-- Kinds that are not named keep their place in the mask. -/
theorem Mask.on_foldl_of_not_mem (pairs : List (NoticeKind × Bool)) (m : Mask) (k : NoticeKind)
    (hr : ∀ b, (.rdy, b) ∉ pairs) (h : ∀ b, (k, b) ∉ pairs) : (pairs.foldl Mask.set m).on k = m.on k := by
  induction pairs generalizing m with
  | nil => rfl
  | cons p pairs ih =>
    have hp : p.1 ≠ .rdy := fun e => hr p.2 (by simp [← e])
    have hk : p.1 ≠ k := fun e => h p.2 (by simp [← e])
    rw [List.foldl_cons, ih _ (fun b hb => hr b (by simp [hb])) (fun b hb => h b (by simp [hb])), Mask.on_set m p k hp,
      if_neg hk]

/-- A kind named once takes what its pair says. -/
theorem Mask.on_foldl_of_mem (pairs : List (NoticeKind × Bool)) (m : Mask) {k : NoticeKind} {b : Bool}
    (hr : ∀ b, (.rdy, b) ∉ pairs) (hn : (pairs.map fun p => p.1).Nodup) (h : (k, b) ∈ pairs) :
    (pairs.foldl Mask.set m).on k = b := by
  induction pairs generalizing m with
  | nil => simp at h
  | cons p pairs ih =>
    have hr' : ∀ b, (.rdy, b) ∉ pairs := fun b hb => hr b (by simp [hb])
    rw [List.map_cons, List.nodup_cons] at hn
    obtain ⟨hnp, hn⟩ := hn
    rw [List.foldl_cons]
    rcases List.mem_cons.mp h with rfl | h
    · have hnot : ∀ c, (k, c) ∉ pairs := fun c hc => hnp (List.mem_map.mpr ⟨_, hc, rfl⟩)
      rw [Mask.on_foldl_of_not_mem pairs _ k hr' hnot, Mask.on_set m (k, b) k (fun e => hr b (by simp [← e])), if_pos rfl]
    · exact ih _ hr' hn h

/-- Settles O21: ARMS by what it names, its lapse by what has been taken, STAT and IDNT by their one check, NMSK by its
pairs. -/
theorem armsStatIdntAndNmsk : Obligations.ArmsStatIdntAndNmsk := by
  refine ⟨⟨fun s t fields hb => ?_, fun s op x hx => ?_⟩, fun s t fields => ⟨fun hb => ?_, fun hb => ?_⟩,
    fun s t fields hb => ?_⟩
  · have he : exec (.arms fields) s = .next (t.doArms fields) :=
      exec_of_begins (act := fun s => s.doArms fields) rfl hb
    have named {op : ArmOp} (h : armOp? fields = some op) : exec (.arms fields) s =
        .next (({ t with clp := { t.clp with arm := some (op, s.now + ms 50) } } : State).answer .ARMS .ok) := by
      rw [he, State.doArms_of_op h, ← hb.now_eq]
      rfl
    refine ⟨hb.arm_eq_none rfl, fun h => named (by rw [h]; rfl), fun h => named (by rw [h]; rfl),
      fun h => named (by rw [h]; rfl), fun hr hl hc => ?_⟩
    rw [he, State.doArms_of_none (armOp?_eq_none hr hl hc)]
  · rw [exec_armLapse hx]
    exact ⟨fun h => if_neg (mt s.clp.armTaken_iff.mp h), fun h => if_pos (s.clp.armTaken_iff.mpr h)⟩
  · have he : exec (.stat fields) s = .next (t.doStat fields) :=
      exec_of_begins (act := fun s => s.doStat fields) rfl hb
    rw [he]
    exact ⟨fun h => congrArg _ (if_pos h), fun h => congrArg _ ((if_neg (not_not_intro h)).trans rfl)⟩
  · have he : exec (.idnt fields) s = .next (t.doIdnt fields) :=
      exec_of_begins (act := fun s => s.doIdnt fields) rfl hb
    rw [he]
    refine ⟨fun h => congrArg _ (if_pos h), fun i h hi => ?_, fun h hi => ?_⟩
    · simp [State.doIdnt, h, hi, identityFields]
    · simp [State.doIdnt, h, hi, identityFields, List.replicate]
  · have he : exec (.nmsk fields) s = .next (t.doNmsk fields) :=
      exec_of_begins (act := fun s => s.doNmsk fields) rfl hb
    rw [he]
    have hspec := maskPairs?_spec fields
    refine ⟨fun h => ?_, fun pairs h hn => ?_, fun pairs h hn => ?_⟩
    · rw [State.doNmsk_of_none (Option.eq_none_iff_forall_ne_some.mpr fun pairs e => h pairs ((hspec pairs).mp e).1)]
    · have hnone : maskPairs? fields = none := by
        refine Option.eq_none_iff_forall_ne_some.mpr fun ps e => ?_
        obtain ⟨hps, hnd⟩ := (hspec ps).mp e
        exact hn (maskSpelling_injective (h.symm.trans hps) ▸ hnd)
      rw [State.doNmsk_of_none hnone]
    · have hp : maskPairs? fields = some pairs := (hspec pairs).mpr ⟨h, hn⟩
      refine ⟨fun hr => by rw [State.doNmsk_of_rdy hp t hr], fun hr => ?_⟩
      refine ⟨pairs.foldl Mask.set t.clp.mask, fun k b hkb => Mask.on_foldl_of_mem pairs _ hr hn hkb,
        fun k hk => Mask.on_foldl_of_not_mem pairs _ k hr hk, ?_⟩
      rw [State.doNmsk_of_no_rdy hp t hr]
      rfl

end Sys2Proof.Machine
end

section
/-! Proofs about the supply, the resets and the start-up (R152, R162, R172 to R174): what a recomputation of the responses
in force makes of the state, what a reset begins and what its release sets, how the supply moves the supply state, and
what the start-up loads. -/

namespace Sys2Proof.Machine

/-! ### The responses in force (R147) -/

theorem PerChan.set_get {α : Type} (p : PerChan α) (ch : Chan) : p.set ch (p.get ch) = p := by cases ch <;> rfl

theorem PerUnit.set_get {α : Type} (p : PerUnit α) (u : LiftUnit) : p.set u (p.get u) = p := by cases u <;> rfl

/-- What a recomputation of a channel's response sends. -/
def State.chanResponseNews (s : State) (ch : Chan) : List Handover :=
  if s.chanResponseNow ch = s.fmg.chanResponse.get ch then []
  else [.tgaResponse ch (s.chanResponseNow ch), .phcResponse ch (s.chanResponseNow ch)]

/-- What a recomputation of a unit's response sends. -/
def State.unitResponseNews (s : State) (u : LiftUnit) : List Handover :=
  if s.unitLowNow u = s.fmg.unitLow.get u then [] else [.lfsResponse u (s.unitLowNow u)]

theorem State.recomputeChan_eq (s : State) (ch : Chan) : s.recomputeChan ch = State.sends
    { s with fmg := { s.fmg with chanResponse := s.fmg.chanResponse.set ch (s.chanResponseNow ch) } }
    (s.chanResponseNews ch) := by
  unfold State.recomputeChan State.chanResponseNews
  by_cases h : s.chanResponseNow ch = s.fmg.chanResponse.get ch
  · simp [h, PerChan.set_get, State.sends]
  · simp [h, State.hand, State.sends]

theorem State.recomputeUnit_eq (s : State) (u : LiftUnit) : s.recomputeUnit u = State.sends
    { s with fmg := { s.fmg with unitLow := s.fmg.unitLow.set u (s.unitLowNow u) } } (s.unitResponseNews u) := by
  unfold State.recomputeUnit State.unitResponseNews
  by_cases h : s.unitLowNow u = s.fmg.unitLow.get u
  · simp [h, PerUnit.set_get, State.sends]
  · simp [h, State.hand, State.sends]

theorem forEach_recomputeChan (s : State) : forEach allChans State.recomputeChan s = State.sends
    { s with fmg := { s.fmg with chanResponse := s.fmg.chanResponse.map fun ch _ => s.chanResponseNow ch } }
    (allChans.flatMap s.chanResponseNews) := by
  calc forEach allChans State.recomputeChan s
      = (((s.recomputeChan .IN1).recomputeChan .EX1).recomputeChan .IN2).recomputeChan .EX2 := rfl
    _ = State.sends { s with fmg := { s.fmg with chanResponse := s.fmg.chanResponse.map fun ch _ => s.chanResponseNow ch } }
        (s.chanResponseNews .IN1 ++ (s.chanResponseNews .EX1 ++ (s.chanResponseNews .IN2 ++ s.chanResponseNews .EX2))) := by
      simp only [State.recomputeChan_eq]
      simp only [State.sends, List.append_assoc]
      rfl
    _ = _ := by simp [allChans]

theorem forEach_recomputeUnit (s : State) : forEach allUnits State.recomputeUnit s = State.sends
    { s with fmg := { s.fmg with unitLow := s.fmg.unitLow.map fun u _ => s.unitLowNow u } }
    (allUnits.flatMap s.unitResponseNews) := by
  calc forEach allUnits State.recomputeUnit s = (s.recomputeUnit .L1).recomputeUnit .L2 := rfl
    _ = State.sends { s with fmg := { s.fmg with unitLow := s.fmg.unitLow.map fun u _ => s.unitLowNow u } }
        (s.unitResponseNews .L1 ++ s.unitResponseNews .L2) := by
      simp only [State.recomputeUnit_eq]
      simp only [State.sends, List.append_assoc]
      rfl
    _ = _ := by simp [allUnits]

/-- A recomputation sets every response in force by the rule and sends what has changed (R147). -/
theorem State.recompute_eq (s : State) : s.recompute = s.responsesSet := by
  unfold State.recompute
  rw [forEach_recomputeUnit, forEach_recomputeChan]
  simp only [State.sends, State.responsesSet, State.responseNews, List.append_assoc]
  rfl

/-! ### The reset values -/

/-- Settles O7: block by block, the values of the reset records. -/
theorem resetStateHoldsTheManualsValues : Obligations.ResetStateHoldsTheManualsValues := by
  have hfault (id : FaultId) : State.reset.fault id = .clean := FaultTable.clean_get id
  refine ⟨rfl, rfl, rfl, rfl, rfl, rfl, rfl, rfl, rfl, rfl, rfl, rfl, rfl, rfl, rfl, rfl, rfl, rfl, rfl, rfl, ?_, ?_, ?_,
    rfl, rfl, rfl, rfl, rfl, rfl, hfault, ?_, ?_, rfl, rfl, rfl, rfl, rfl, rfl, rfl⟩
  · intro ch
    cases ch <;> exact ⟨rfl, rfl, rfl, rfl⟩
  · intro o
    cases o <;> exact ⟨rfl, rfl, rfl, rfl, rfl, rfl, rfl, rfl, rfl, rfl⟩
  · intro o
    cases o <;> exact ⟨rfl, rfl, rfl, rfl, rfl, rfl, rfl⟩
  · intro ch
    cases ch <;> rfl
  · intro u
    cases u <;> rfl

/-! ### A page cut off (R162, R168; log 9) -/

/-- Two pages that differ in the last byte alone do not both pass, and are not both erased. -/
theorem Page.differ_in_last {l : List Byte} (hl : l.length = 127) {a b : Byte} (hab : a ≠ b) (i j : Option TableImage) :
    ¬ (Page.passes ⟨l ++ [a], i⟩ = true ∧ Page.passes ⟨l ++ [b], j⟩ = true) ∧
    ¬ (Page.isErased ⟨l ++ [a], i⟩ = true ∧ Page.isErased ⟨l ++ [b], j⟩ = true) := by
  have htake (x : Byte) : (l ++ [x]).take 124 = l.take 124 := by
    rw [List.take_append_of_le_length (by omega)]
  have hdrop (x : Byte) : (l ++ [x]).drop 124 = l.drop 124 ++ [x] := by
    rw [List.drop_append_of_le_length (by omega)]
  constructor
  · simp only [Page.passes, htake, hdrop, beq_iff_eq]
    rintro ⟨ha, hb⟩
    exact hab (by simpa using ha.trans hb.symm)
  · simp only [Page.isErased, beq_iff_eq]
    rintro ⟨ha, hb⟩
    exact hab (by simpa using ha.trans hb.symm)

theorem Page.damaged_iff (p : Page) : p.damaged = true ↔ ¬ p.isErased = true ∧ ¬ p.passes = true := by
  simp [Page.damaged]

/-- A page cut off and not left erased is damaged: three pages that differ in the last byte cannot all be erased or
pass. -/
theorem damagedBytes_damaged (free : List Byte) (image : Option TableImage) :
    Page.damaged ⟨damagedBytes free, image⟩ = true := by
  dsimp only [damagedBytes]
  set raw := (free ++ List.replicate 128 0#8).take 128 with hraw
  have hlen : raw.length = 128 := by simp [hraw]
  have hl : (raw.take 127).length = 127 := by simp [hlen]
  have hrest : raw = raw.take 127 ++ [raw.getD 127 0#8] := by
    have h127 : raw.drop 127 = [raw.getD 127 0#8] := by
      rw [List.drop_eq_getElem_cons (by omega), List.drop_eq_nil_of_le (by omega)]
      simp [List.getD_eq_getElem?_getD, hlen]
    rw [← h127, List.take_append_drop]
  cases hf : List.find? _ _ with
  | some l => simpa [Page.damaged, Page.isErased, Page.passes] using List.find?_some hf
  | none =>
    simp only [List.find?_eq_none, List.mem_cons, List.not_mem_nil, or_false, forall_eq_or_imp, forall_eq] at hf
    obtain ⟨hf0, hf1⟩ := hf
    rw [hrest] at hf0
    have hxor (x y : Byte) (hxy : x ≠ y) : raw.getD 127 0#8 ^^^ x ≠ raw.getD 127 0#8 ^^^ y := fun h => hxy (by simpa using h)
    have h0 := hxor 0#8 1#8 (by decide)
    have h1 := hxor 0#8 2#8 (by decide)
    rw [BitVec.xor_zero] at h0 h1
    obtain ⟨p01, e01⟩ := Page.differ_in_last hl h0 none none
    obtain ⟨p02, e02⟩ := Page.differ_in_last hl h1 none image
    obtain ⟨p12, e12⟩ := Page.differ_in_last hl (hxor 1#8 2#8 (by decide)) none image
    simp only [Page.damaged_iff, Option.getD_none] at hf0 hf1 ⊢
    by_cases he0 : Page.isErased ⟨raw.take 127 ++ [raw.getD 127 0#8], none⟩ = true
    · have hs1 := by_contra fun h => hf1 ⟨fun e => e01 ⟨he0, e⟩, h⟩
      exact ⟨fun e => e02 ⟨he0, e⟩, fun p => p12 ⟨hs1, p⟩⟩
    · have hs0 := by_contra fun h => hf0 ⟨he0, h⟩
      have he1 := by_contra fun h => hf1 ⟨h, fun p => p01 ⟨hs0, p⟩⟩
      exact ⟨fun e => e12 ⟨he1, e⟩, fun p => p02 ⟨hs0, p⟩⟩

theorem Page.good_eq_false_of_not_passes {p : Page} (h : p.passes = false) (r : Region) (i : Nat) :
    p.good r i = false := by
  simp [Page.good, h]

/-- A region with a page that is not good, and one that is not erased, is INVALID (R162). -/
theorem evaluatePages_invalid {r : Region} {l : List Page} {i : Nat} {p : Page} (hi : l[i]? = some p)
    (hbad : p.good r i = false) (hne : ∃ x ∈ l, x.isErased = false) : (evaluatePages r l).status = .invalid := by
  have hlen : (goodGens r l).length < l.length := by
    have hm : (l.mapIdx fun i p => if p.good r i then some p.gen else none).length = l.length := by simp
    rw [← hm]
    refine List.length_filterMap_lt_length_iff_exists.mpr ⟨none, List.mem_of_getElem? (i := i) ?_, rfl⟩
    simp [hi, hbad]
  unfold evaluatePages
  dsimp only
  split
  next g rest hg =>
    have : (goodGens r l).length ≠ l.length := by omega
    simp [this]
  · obtain ⟨x, hx, hxe⟩ := hne
    have : l.all Page.isErased = false := List.all_eq_false.mpr ⟨x, hx, by simp [hxe]⟩
    simp [this]

/-! ### A reset begins (R173) -/

/-- What O9 says of the state `t` that a reset of a kind makes of `s`. -/
def State.began (s t : State) (cause : ResetCause) : Prop :=
  t.smc.mode = .init ∧ t.smc.cause = cause ∧ t.smc.inReset = true ∧ t.smc.supplyReported = false ∧
  t.smc.resetAsked = false ∧ t.smc.startTimer = none ∧ t.smc.repeatTimer = none ∧ t.blocksReset ∧
  t.fmg.table = (if cause = .powerOn ∨ cause = .brownout then .clean else s.fmg.table.afterLine) ∧
  t.cst.locks = s.cst.locks ∧
  (∀ r gen image, s.cst.op.kind = .save r gen image → s.cst.op.running = true → s.cst.guarded →
    s.cst.pages.length = 36 → (evaluatePages r (t.regionPages r)).status = .invalid) ∧
  ∀ n, (∀ r gen image, s.cst.op.kind = .save r gen image → s.cst.op.running = true → n ≠ s.cst.op.page) →
    t.page n = s.page n

theorem ResetCause.cold_iff (c : ResetCause) : c.cold = true ↔ c = .powerOn ∨ c = .brownout := by
  cases c <;> simp [ResetCause.cold]

variable {s : State}

theorem Region.holds_lt {r : Region} {n : Nat} (h : r.holds n) : n < 36 := by
  obtain ⟨-, h⟩ := h
  cases r <;> simp only [regionFirst, regionSize] at h <;> omega

theorem State.regionPages_getElem? (s : State) {r : Region} {i : Nat} (h : i < regionSize r) :
    (s.regionPages r)[i]? = some (s.page (regionFirst r + i)) := by
  simp [State.regionPages, h]

/-- A save cut off leaves its region INVALID (R162, R168). -/
theorem State.cutOffPage_invalid {r : Region} {n : Nat} (hn : r.holds n) (hlen : s.cst.pages.length = 36) :
    (evaluatePages r ((s.cutOffPage r n).regionPages r)).status = .invalid := by
  obtain ⟨hf, hl⟩ := hn
  have h36 : n < 36 := Region.holds_lt ⟨hf, hl⟩
  have hi : n - regionFirst r < regionSize r := by omega
  have hat (q : State) : (q.regionPages r)[n - regionFirst r]? = some (q.page n) := by
    rw [State.regionPages_getElem? q hi]
    congr 2
    omega
  have hset (p : Page) (q : State) (hq : q.cst.pages = s.cst.pages.set n p) : q.page n = p := by
    simp [State.page, hq, List.getD_eq_getElem?_getD, hlen, h36]
  by_cases he : (Config.cutOffErased s.freeCount && !s.blankBut r n) = true
  · obtain ⟨-, hb⟩ := Bool.and_eq_true_iff.mp he
    have hpages : (s.cutOffPage r n).cst.pages = s.cst.pages.set n .erased := by simp [State.cutOffPage, he]
    have hsame : (s.cutOffPage r n).regionPages r = (s.setPage n .erased).regionPages r := by
      simp only [State.regionPages, State.page, hpages]
      rfl
    refine evaluatePages_invalid (hat _) ?_ ?_
    · rw [hset _ _ hpages, Page.erased_good]
    · rw [hsame]
      simpa [State.blankBut] using hb
  · have hpages : (s.cutOffPage r n).cst.pages =
        s.cst.pages.set n ⟨damagedBytes (Config.cutOffBytes s.freeCount), none⟩ := by simp [State.cutOffPage, he]
    have hd := damagedBytes_damaged (Config.cutOffBytes s.freeCount) none
    simp only [Page.damaged, Bool.and_eq_true, Bool.not_eq_eq_eq_not, Bool.not_true] at hd
    refine evaluatePages_invalid (hat _) ?_ ⟨_, List.mem_of_getElem? (hat _), ?_⟩
    · rw [hset _ _ hpages]
      exact Page.good_eq_false_of_not_passes hd.2 _ _
    · rw [hset _ _ hpages]
      exact hd.1

theorem State.beginReset_began (s : State) (cause : ResetCause) : s.began (s.beginReset cause) cause := by
  have hcst := s.beginReset_cst cause
  have hpages : (s.beginReset cause).cst.pages = s.cutOffSave.cst.pages := by rw [hcst]; rfl
  refine ⟨rfl, rfl, rfl, rfl, rfl, rfl, rfl, ⟨rfl, rfl, rfl, rfl, rfl, rfl, rfl, rfl, rfl, ?_, rfl, rfl, rfl, rfl⟩, ?_, ?_,
    fun r gen image hk hr hg hl => ?_, fun n hn => ?_⟩
  · rfl
  · rw [State.beginReset_table]
    simp only [ResetCause.cold_iff]
  · rw [hcst]
    exact s.cutOffSave_store.1
  · have hcut : s.cutOffSave = s.cutOffPage r s.cst.op.page := by simp [State.cutOffSave, hk, hr]
    obtain ⟨-, hn⟩ := hg r gen image hk
    have := State.cutOffPage_invalid hn hl
    rw [← hcut] at this
    have hp : (s.beginReset cause).regionPages r = s.cutOffSave.regionPages r := by
      simp only [State.regionPages, State.page, hpages]
    rwa [hp]
  · have hp : (s.beginReset cause).page n = s.cutOffSave.page n := by simp only [State.page, hpages]
    rw [hp]
    obtain ⟨-, -, he | ⟨r, gen, image, p, hk, -, he⟩⟩ := s.cutOffSave_store
    · simp only [State.page, he]
    · by_cases hr : s.cst.op.running = true
      · have hne : s.cst.op.page ≠ n := Ne.symm (hn r gen image hk hr)
        simp [State.page, he, List.getD_eq_getElem?_getD, List.getElem?_set_ne hne]
      · have hcut : s.cutOffSave = s := by
          simp only [State.cutOffSave, hk, hr]
        rw [hcut]

theorem State.beginReset_supply (s : State) (cause : ResetCause) :
    (s.beginReset cause).smc.supply = s.smc.supply := by
  simp [State.beginReset]

theorem State.beginReset_rstnLow (s : State) (cause : ResetCause) :
    (s.beginReset cause).smc.rstnLow = s.smc.rstnLow := by
  simp [State.beginReset]

/-- Settles O9: each kind begins in the case given; what a reset begins does not look at the supply, the time or RSTN;
the records by their state. -/
theorem resetsBeginWithEveryBlockReset : Obligations.ResetsBeginWithEveryBlockReset := by
  refine ⟨fun s dt volts => ⟨?_, fun hv hc => ?_, fun hc => ?_, fun hc => ?_, fun ha hf => ?_⟩, fun f id => ?_⟩
  · exact ⟨_, rfl, State.beginReset_began ((s.pass dt).updSmc fun m => { m with supply := volts }) _,
      State.beginReset_supply _ _, by simp⟩
  · refine ⟨_, exec_brownout hv hc dt, State.beginReset_began ((s.pass dt).updSmc fun m => { m with supply := volts }) _,
      State.beginReset_supply _ _, by simp⟩
  · refine ⟨_, exec_lineReset hc dt, State.beginReset_began ((s.pass dt).updSmc fun m => { m with rstnLow := true }) _,
      State.beginReset_rstnLow _ _, by simp⟩
  · have he : exec (.lineReset dt) s = execLineReset dt s := rfl
    rw [he, execLineReset]
    exact if_pos hc
  · exact ⟨_, exec_lineRequestReset ha hf, s.beginReset_began _, by simp⟩
  · rw [FaultTable.afterLine_get]
    unfold FaultRec.afterLine
    refine ⟨fun h => ?_, fun h => ?_, fun h => ?_, fun h => ?_⟩ <;> rw [h]
    rfl

end Sys2Proof.Machine
end

section
/-! Proofs about the release of a reset, the supply states and the start-up (R101, R152, R162, R172 to R174): how the
supply moves the supply state and what a change of it sends, and what the start-up's load makes of each table. -/

namespace Sys2Proof.Machine

/-! ### What is sent -/

theorem State.report_eq_sends (s : State) (src : Block) (id : FaultId) (kind : ReportKind) :
    s.report src id kind = s.sends [.report src id kind] := rfl

theorem State.notice_eq_sends (s : State) (src : Block) (n : Notice) : s.notice src n = s.sends [.notice src n] := rfl

theorem State.supplyLow_eq (s : State) : s.supplyLow = State.sends
    { s with smc := { s.smc with supplyReported := true, repeatTimer := some (s.now + ms 100) } }
    [.report .smc .supplyLow .present] := rfl

theorem State.supplyBack_eq (s : State) : s.supplyBack = State.sends
    { s with smc := { s.smc with supplyReported := false, repeatTimer := none } }
    (if s.smc.supplyReported then [.report .smc .supplyLow .gone] else []) := by
  cases h : s.smc.supplyReported <;> simp [State.supplyBack, h, State.updSmc, State.report_eq_sends, State.sends]

theorem State.handSupply_eq (s : State) (st : SupplyState) : s.handSupply st =
    s.sends ((allChans.map fun ch => .phcSupply ch st) ++ [.cstSupply st]) := by
  rw [State.handSupply, forEach_hand_eq_sends, State.hand_eq_sends, State.sends_sends]

/-! ### The supply states (R172) -/

theorem State.changeSupply_of_eq {s : State} {new : SupplyState} (h : new = s.smc.supplyState) :
    s.changeSupply new = s := if_pos h

theorem State.changeSupply_of_ne {s : State} {new : SupplyState} (h : new ≠ s.smc.supplyState) :
    s.changeSupply new =
      ((if new = .belowDrive then (s.updSmc fun m => { m with supplyState := new }).supplyLow
        else if s.smc.supplyState = .belowDrive then (s.updSmc fun m => { m with supplyState := new }).supplyBack
        else s.updSmc fun m => { m with supplyState := new }).sends
      ((allChans.map fun ch => .phcSupply ch new) ++ [.cstSupply new])) := by
  rw [← State.handSupply_eq]
  exact if_neg h

/-- `s` with the time and the supply of a SUPPLY_CROSSING. -/
def State.supplied (s : State) (dt volts : Nat) : State :=
  { s with now := s.now + dt, smc := { s.smc with supply := volts } }

/-- A supply of 6.0 V or more leaves an unheld part in its mode and moves its supply state. -/
theorem exec_supplyCrossing_of_released {s : State} {volts : Nat} (hr : s.smc.inReset = false) (hv : 60 ≤ volts)
    (dt : Nat) : exec (.supplyCrossing dt volts) s =
      .next ((s.supplied dt volts).changeSupply (s.smc.supplyState.next volts)) := by
  have he : exec (.supplyCrossing dt volts) s = execSupplyCrossing dt volts s := rfl
  have hlow : ¬ volts < 60 := Nat.not_lt.mpr hv
  rw [he, execSupplyCrossing]
  simp only [hlow, decide_false, Bool.false_and, Bool.false_eq_true, if_false]
  exact if_neg (by simp [State.updSmc, State.pass, hr])

/-- Settles O11: the thresholds state by state; a change of the supply state by whether BELOW_DRIVE is entered or left. -/
theorem supplyChangesAreReportedAndHandedOn : Obligations.SupplyChangesAreReportedAndHandedOn := by
  refine ⟨fun v => ⟨fun h st => ?_, fun _ _ => ?_, fun _ => ?_, fun _ _ => ?_, fun _ => ?_, fun _ _ => ?_, fun _ _ => ?_,
    fun _ => ?_⟩, fun s dt volts hr hv => ?_, fun s x hx => ?_⟩
  · exact if_pos h
  iterate 7
    unfold SupplyState.next
    split_ifs <;> first | rfl | omega
  · have hstate : (s.supplied dt volts).smc.supplyState = s.smc.supplyState := rfl
    dsimp only
    rw [exec_supplyCrossing_of_released hr hv]
    refine ⟨fun h => ?_, fun h hlow => ?_, fun h hold => ?_, fun h hlow hold => ?_⟩
    · rw [State.changeSupply_of_eq (s := s.supplied dt volts) h]
      rfl
    · rw [State.changeSupply_of_ne (s := s.supplied dt volts) h, if_pos hlow, State.supplyLow_eq, State.sends_sends]
      rfl
    · have hlow : s.smc.supplyState.next volts ≠ .belowDrive := fun e => h (e.trans hold.symm)
      rw [State.changeSupply_of_ne (s := s.supplied dt volts) h, if_neg hlow, if_pos (hstate.trans hold), State.supplyBack_eq, State.sends_sends]
      rfl
    · rw [State.changeSupply_of_ne (s := s.supplied dt volts) h, if_neg hlow, if_neg (hstate ▸ hold)]
      rfl
  · have he : exec .supplyLowRepeat s = execSupplyLowRepeat s := rfl
    rw [he, execSupplyLowRepeat, hx]
    rfl

/-! ### The release of a reset (R152, R173) -/

/-- The part just released, before the supply state is acted on. -/
def State.released (s : State) : State :=
  (State.responsesSet { s with
    lfs := .reset s.now
    smc := { s.smc with
      inReset := false, rstnLow := false, supplyState := supplyAt s.smc.supply, startTimer := some (s.now + ms 20) }
    }).evalFlt

theorem State.releaseReset_eq (s : State) : s.releaseReset =
    if supplyAt s.smc.supply = .belowDrive then s.released.supplyLow else s.released := by
  dsimp only [State.releaseReset]
  rw [State.recompute_eq]
  rfl

/-- What a release says of the blocks other than the Supply and Mode Control. -/
theorem State.releaseReset_blocks (s : State) :
    s.releaseReset.fmg = s.released.fmg ∧ s.releaseReset.clp = s.clp ∧ s.releaseReset.tbm = s.tbm ∧
    s.releaseReset.ckt = s.ckt ∧ s.releaseReset.asc = s.asc ∧ s.releaseReset.ceu = s.ceu ∧ s.releaseReset.phc = s.phc ∧
    s.releaseReset.tga = s.tga ∧ s.releaseReset.vdr = s.vdr ∧ s.releaseReset.lfs = .reset s.now ∧
    s.releaseReset.trb = s.trb ∧ s.releaseReset.cst = s.cst ∧ s.releaseReset.now = s.now := by
  rw [State.releaseReset_eq]
  split_ifs <;> exact ⟨rfl, rfl, rfl, rfl, rfl, rfl, rfl, rfl, rfl, rfl, rfl, rfl, rfl⟩

theorem State.releaseReset_smc (s : State) :
    s.releaseReset.smc = { s.smc with
      inReset := false, rstnLow := false, supplyState := supplyAt s.smc.supply, startTimer := some (s.now + ms 20)
      supplyReported := if supplyAt s.smc.supply = .belowDrive then true else s.smc.supplyReported
      repeatTimer := if supplyAt s.smc.supply = .belowDrive then some (s.now + ms 100) else s.smc.repeatTimer } := by
  rw [State.releaseReset_eq]
  split_ifs <;> rfl

theorem exec_resetRelease {s : State} (hr : s.smc.inReset = true) (hs : 65 < s.smc.supply ∨ s.smc.cause = .lineRequest)
    (dt : Nat) : exec (.resetRelease dt) s = .next (s.pass dt).releaseReset := by
  have he : exec (.resetRelease dt) s = execResetRelease dt s := rfl
  rw [he, execResetRelease]
  have hmay : s.smc.mayRelease = true := by
    simp only [Smc.mayRelease, Bool.or_eq_true, beq_iff_eq]
    exact hs.imp decide_eq_true id
  exact if_pos (by simp [State.pass, hr, hmay])

/-- Settles O10: the record of the Supply and Mode Control by `State.releaseReset_smc`, the responses in force by the
rule, the rest unchanged. -/
theorem resetReleaseStartsTheStartUpTimer : Obligations.ResetReleaseStartsTheStartUpTimer := by
  intro s dt hr hs
  have hsmc := (s.pass dt).releaseReset_smc
  obtain ⟨hfmg, hclp, htbm, hckt, hasc, hceu, hphc, htga, hvdr, hlfs, htrb, hcst, hnow⟩ := (s.pass dt).releaseReset_blocks
  refine ⟨_, exec_resetRelease hr hs dt, hnow, by rw [hsmc], by rw [hsmc], by rw [hsmc]; rfl, by rw [hsmc]; rfl,
    by rw [hsmc, hnow], by rw [hsmc]; rfl, fun hlow => ?_, by rw [hfmg]; rfl, fun ch => ?_, fun u => ?_,
    by rw [hfmg]; rfl, hclp, htbm, hckt, hasc, hceu, hphc, htga, hvdr, by rw [hlfs, hnow], htrb, hcst⟩
  · rw [hsmc] at hlow
    have hb : supplyAt (s.pass dt).smc.supply = .belowDrive := hlow
    refine ⟨by rw [hsmc, if_pos hb], by rw [hsmc, hnow]; exact if_pos hb, ?_⟩
    rw [State.releaseReset_eq, if_pos hb, State.supplyLow_eq]
    simp [State.sends]
  · rw [hfmg]
    exact PerChan.get_map _ _ _
  · rw [hfmg]
    exact PerUnit.get_map _ _ _

/-! ### The start-up's load (R101, R162, R174) -/

/-- The layout that a load of a content leaves, and its origin. -/
def loadedLayout : Option TableImage → Layout × Origin
  | some (.layout l) => if l.legal then (l, .loaded) else (.blank, .blank)
  | _ => (.blank, .blank)

/-- The tuning table that a load of a content leaves, and its origin. -/
def loadedTuning : Option TableImage → Tuning × Origin
  | some (.tuning x) => if x.legal then (x, .loaded) else (.builtIn, .default)
  | _ => (.builtIn, .default)

/-- The response table that a load of a content leaves, and its origin. -/
def loadedResponse : Option TableImage → ResponseTable × Origin
  | some (.response x) => if responseLegal x then (x, .loaded) else (.builtIn, .default)
  | _ => (.builtIn, .default)

/-- The map that a load of a content leaves. -/
def loadedMap : Option TableImage → PhaseMap
  | some (.map m) => if m.legal then .loaded m else .blank
  | _ => .blank

theorem Tbm.load_layout (t : Tbm) (c : Option TableImage) :
    t.load .layout c = { t with layout := (loadedLayout c).1, layoutOrigin := (loadedLayout c).2 } := by
  rcases c with _ | (l | _ | _ | _) <;> try rfl
  cases h : l.legal <;> simp [Tbm.load, loadedLayout, h]

theorem Tbm.load_tuning (t : Tbm) (c : Option TableImage) :
    t.load .tuning c = { t with tuning := (loadedTuning c).1, tuningOrigin := (loadedTuning c).2 } := by
  rcases c with _ | (_ | x | _ | _) <;> try rfl
  cases h : x.legal <;> simp [Tbm.load, loadedTuning, h]

theorem Tbm.load_response (t : Tbm) (c : Option TableImage) :
    t.load .response c = { t with response := (loadedResponse c).1, responseOrigin := (loadedResponse c).2 } := by
  rcases c with _ | (_ | _ | x | _) <;> try rfl
  cases h : responseLegal x <;> simp [Tbm.load, loadedResponse, h]

theorem Tbm.load_map (t : Tbm) (ch : Chan) (c : Option TableImage) :
    t.load (mapRegion ch) c = { t with maps := t.maps.set ch (loadedMap c) } := by
  rcases c with _ | (_ | _ | _ | m)
  case some.map =>
    cases ch <;> cases h : m.legal <;> simp [Tbm.load, mapRegion, loadedMap, h]
  all_goals cases ch <;> rfl

/-- What start-up hands to the Table Memory of a region: its content where it is VALID. -/
def State.storedContent (s : State) (r : Region) : Option TableImage :=
  if (evaluatePages r (s.regionPages r)).status = .valid then regionContent r (s.regionPages r) else none

theorem State.storedContent_eq_some_iff {s : State} {r : Region} {c : TableImage} : s.storedContent r = some c ↔
    (evaluatePages r (s.regionPages r)).status = .valid ∧ regionContent r (s.regionPages r) = some c := by
  simp [State.storedContent]

theorem State.storedContent_congr {s q : State} (h : q.cst.pages = s.cst.pages) (r : Region) :
    q.storedContent r = s.storedContent r := by
  have hp : q.regionPages r = s.regionPages r := by simp only [State.regionPages, State.page, h]
  rw [State.storedContent, hp, State.storedContent]

theorem State.loadRegion_regions (s : State) (r : Region) :
    (s.loadRegion r).cst.regions = s.cst.regions.set r (evaluatePages r (s.regionPages r)) := by
  dsimp only [State.loadRegion]
  split_ifs <;> rfl

theorem State.loadRegion_tbm (s : State) (r : Region) :
    (s.loadRegion r).tbm = s.tbm.load r (s.storedContent r) := by
  have hget : ((s.evaluateRegion r).cst.regions.get r) = evaluatePages r (s.regionPages r) :=
    PerRegion.get_set_same _ _ _
  have hload : (s.loadRegion r).tbm = s.tbm.load r (if ((s.evaluateRegion r).cst.regions.get r).status = .valid then
      regionContent r ((s.evaluateRegion r).regionPages r) else none) := by
    dsimp only [State.loadRegion]
    split_ifs <;> rfl
  rw [hload, hget]
  rfl

/-- The regions of a list loaded in order, each from the pages as they stood. -/
theorem forEach_loadRegion (l : List Region) (s : State) :
    (forEach l State.loadRegion s).tbm = l.foldl (fun t r => t.load r (s.storedContent r)) s.tbm ∧
    ∀ r, (forEach l State.loadRegion s).cst.regions.get r =
      if r ∈ l then evaluatePages r (s.regionPages r) else s.cst.regions.get r := by
  induction l generalizing s with
  | nil => simp [forEach]
  | cons a l ih =>
    have hstep : forEach (a :: l) State.loadRegion s = forEach l State.loadRegion (s.loadRegion a) := rfl
    have hpages : (s.loadRegion a).cst.pages = s.cst.pages := (s.loadRegion_store a).1
    have hpagesOf (r : Region) : (s.loadRegion a).regionPages r = s.regionPages r := by
      simp only [State.regionPages, State.page, hpages]
    obtain ⟨htbm, hregions⟩ := ih (s.loadRegion a)
    refine ⟨?_, fun r => ?_⟩
    · rw [hstep, htbm, State.loadRegion_tbm, List.foldl_cons]
      simp only [State.storedContent_congr hpages]
    · rw [hstep, hregions, hpagesOf, State.loadRegion_regions, PerRegion.get_set]
      by_cases hl : r ∈ l
      · simp [hl]
      · by_cases ha : a = r
        · simp [ha]
        · simp [hl, ha, Ne.symm ha]

/-- The tables after a start-up load (R6, R16, R101, R145). -/
theorem State.loadAll_tbm (s : State) : s.loadAll.tbm = { s.tbm with
    layout := (loadedLayout (s.storedContent .layout)).1
    layoutOrigin := (loadedLayout (s.storedContent .layout)).2
    tuning := (loadedTuning (s.storedContent .tuning)).1
    tuningOrigin := (loadedTuning (s.storedContent .tuning)).2
    response := (loadedResponse (s.storedContent .response)).1
    responseOrigin := (loadedResponse (s.storedContent .response)).2
    maps := s.tbm.maps.map fun ch _ => loadedMap (s.storedContent (mapRegion ch)) } := by
  have hident (t : Tbm) (c : Option TableImage) : t.load .ident c = t := rfl
  calc s.loadAll.tbm
      = ((((((((s.tbm.load .ident (s.storedContent .ident)).load .layout (s.storedContent .layout)).load
          .tuning (s.storedContent .tuning)).load .response (s.storedContent .response)).load
          (mapRegion .IN1) (s.storedContent .mapIn1)).load (mapRegion .EX1) (s.storedContent .mapEx1)).load
          (mapRegion .IN2) (s.storedContent .mapIn2)).load (mapRegion .EX2) (s.storedContent .mapEx2)) :=
        (forEach_loadRegion allRegions s).1
    _ = _ := by
      simp only [hident, Tbm.load_layout, Tbm.load_tuning, Tbm.load_response, Tbm.load_map]
      rfl

theorem State.loadAll_regions (s : State) (r : Region) :
    s.loadAll.cst.regions.get r = evaluatePages r (s.regionPages r) := by
  have hall : r ∈ allRegions := by cases r <;> decide
  exact ((forEach_loadRegion allRegions s).2 r).trans (if_pos hall)

theorem State.loadAll_guardOn (s : State) : s.loadAll.cst.guardOn = s.cst.guardOn := by
  refine forEach_inv (fun q => q.cst.guardOn = s.cst.guardOn) allRegions State.loadRegion (fun q r h => ?_) s rfl
  dsimp only [State.loadRegion]
  split_ifs <;> exact h

/-- IDENT is loaded first, and no other region's load sets the identity (R185). -/
theorem State.loadAll_identity (s : State) :
    s.loadAll.cst.identStatus = (evaluatePages .ident (s.regionPages .ident)).status ∧
    s.loadAll.cst.identity = (if s.loadAll.cst.identStatus = .valid then
      some (Config.decodeIdentity ((s.regionPages .ident).map Page.payload)) else none) := by
  have hother (r : Region) (hr : r ≠ .ident) : ∀ q : State,
      (q.loadRegion r).cst.identStatus = q.cst.identStatus ∧ (q.loadRegion r).cst.identity = q.cst.identity := by
    intro q
    dsimp only [State.loadRegion]
    rw [if_neg hr]
    exact ⟨rfl, rfl⟩
  have hall : s.loadAll = (((((((s.loadRegion .ident).loadRegion .layout).loadRegion .tuning).loadRegion
      .response).loadRegion .mapIn1).loadRegion .mapEx1).loadRegion .mapIn2).loadRegion .mapEx2 := rfl
  rw [hall]
  simp only [hother .layout (by decide), hother .tuning (by decide), hother .response (by decide),
    hother .mapIn1 (by decide), hother .mapEx1 (by decide), hother .mapIn2 (by decide), hother .mapEx2 (by decide)]
  exact ⟨rfl, rfl⟩

theorem loadedLayout_of_legal {l : Layout} (h : l.legal = true) : loadedLayout (some (.layout l)) = (l, .loaded) :=
  if_pos h

theorem loadedTuning_of_legal {x : Tuning} (h : x.legal = true) : loadedTuning (some (.tuning x)) = (x, .loaded) :=
  if_pos h

theorem loadedResponse_of_legal {x : ResponseTable} (h : responseLegal x = true) :
    loadedResponse (some (.response x)) = (x, .loaded) := if_pos h

theorem loadedMap_of_legal {m : MapData} (h : m.legal = true) : loadedMap (some (.map m)) = .loaded m := if_pos h

variable {c : Option TableImage}

theorem loadedLayout_of_none_legal (h : ∀ l, c = some (.layout l) → l.legal = false) :
    loadedLayout c = (.blank, .blank) := by
  rcases c with _ | (l | _ | _ | _) <;> try rfl
  simp [loadedLayout, h l rfl]

theorem loadedTuning_of_none_legal (h : ∀ x, c = some (.tuning x) → x.legal = false) :
    loadedTuning c = (.builtIn, .default) := by
  rcases c with _ | (_ | x | _ | _) <;> try rfl
  simp [loadedTuning, h x rfl]

theorem loadedResponse_of_none_legal (h : ∀ x, c = some (.response x) → responseLegal x = false) :
    loadedResponse c = (.builtIn, .default) := by
  rcases c with _ | (_ | _ | x | _) <;> try rfl
  simp [loadedResponse, h x rfl]

theorem loadedMap_of_none_legal (h : ∀ m, c = some (.map m) → m.legal = false) : loadedMap c = .blank := by
  rcases c with _ | (_ | _ | _ | m) <;> try rfl
  simp [loadedMap, h m rfl]

/-- A recomputation of the responses touches the Fault Manager's responses and what is in flight, and nothing else. -/
theorem State.responsesSet_keeps (s : State) : s.responsesSet.now = s.now ∧ s.responsesSet.smc = s.smc ∧
    s.responsesSet.tbm = s.tbm ∧ s.responsesSet.cst = s.cst ∧ s.responsesSet.freeCount = s.freeCount ∧
    s.responsesSet.fmg.table = s.fmg.table ∧ s.responsesSet.handovers = s.handovers ++ s.responseNews ∧
    ∀ ch, s.responsesSet.fmg.chanResponse.get ch = s.responsesSet.chanResponseNow ch :=
  ⟨rfl, rfl, rfl, rfl, rfl, rfl, rfl, fun _ => PerChan.get_map _ _ _⟩

/-- The end of the start-up: the part in STANDBY, its notice sent (R174). -/
def State.standsBy (s : State) : State :=
  { s with
    smc := { s.smc with mode := .standby, startTimer := none }
    handovers := s.handovers ++ [.notice .smc (.rdy s.smc.cause s.cst.regions)] }

theorem State.startUp_eq (s : State) (on : Bool) : s.startUp on = (s.seeGuard on).loadAll.responsesSet.standsBy := by
  have hstands (u : State) : ((u.notice .smc (.rdy u.smc.cause u.cst.regions)).updSmc fun m =>
      { m with mode := .standby, startTimer := none }) = u.standsBy := rfl
  rw [← State.recompute_eq]
  exact hstands _

theorem exec_startUpTimerExpiry {s : State} {x : Time} (hx : s.smc.startTimer = some x) : exec .startUpTimerExpiry s =
    .next { (s.reachTime x).startUp (Config.guardAtStartUp s.freeCount) with freeCount := s.freeCount + 1 } := by
  have he : exec .startUpTimerExpiry s = execStartUpTimerExpiry s := rfl
  rw [he, execStartUpTimerExpiry, hx]

/-- Settles O12: the state that the load leaves, then the tables field by field. -/
theorem startUpLoadsTheRegionsAndEntersStandby : Obligations.StartUpLoadsTheRegionsAndEntersStandby := by
  intro s x hx
  set q := (s.reachTime x).seeGuard (Config.guardAtStartUp s.freeCount) with hq
  have hpages (r : Region) : q.regionPages r = s.regionPages r := rfl
  have hregions (r : Region) : q.loadAll.cst.regions.get r = evaluatePages r (s.regionPages r) := q.loadAll_regions r
  have hcontent {r : Region} {c : TableImage} : q.storedContent r = some c ↔
      (q.loadAll.cst.regions.get r).status = .valid ∧ regionContent r (s.regionPages r) = some c := by
    rw [State.storedContent_eq_some_iff, hregions, hpages]
  obtain ⟨hstatus, hident⟩ := q.loadAll_identity
  have htbm := q.loadAll_tbm
  obtain ⟨hnow, hsmc, htb, hcst, hfree, htable, hsent, hresponse⟩ := q.loadAll.responsesSet_keeps
  obtain ⟨-, hlnow, hlho, hlsmc, -, -, -, -, -, -, -, -, hlfmg, -, hlfree⟩ := q.loadAll_keeps
  have hguard : q.loadAll.cst.guardOn = q.cst.guardOn := State.loadAll_guardOn q
  have hstored : q.loadAll.cst.pages = q.cst.pages := q.loadAll_store.1
  refine ⟨_, exec_startUpTimerExpiry hx, ?_⟩
  rw [State.startUp_eq, ← hq]
  generalize hu : q.loadAll.responsesSet = u at *
  generalize q.loadAll.cst = c at *
  subst hcst
  dsimp only [State.standsBy]
  rw [hsmc, hlsmc]
  refine ⟨hnow.trans hlnow, hguard, rfl, rfl, hstored, hregions, hstatus, hident, ⟨q.loadAll.responseNews, ?_⟩, ?_,
    hresponse, ?_⟩
  · rw [hsent, hlho]
    rfl
  · rw [htable, hlfmg]
    rfl
  rw [htb, htbm]
  refine ⟨fun l hl hlegal => ?_, fun hnone => ?_, fun y hy hlegal => ?_, fun hnone => ?_, fun y hy hlegal => ?_,
    fun hnone => ?_, fun ch => ⟨fun m hm hlegal => ?_, fun hnone => ?_⟩⟩
  all_goals dsimp only
  · rw [hcontent.mpr hl, loadedLayout_of_legal hlegal]
    exact ⟨rfl, rfl⟩
  · rw [loadedLayout_of_none_legal fun l hl => hnone l (hcontent.mp hl)]
    exact ⟨rfl, rfl⟩
  · rw [hcontent.mpr hy, loadedTuning_of_legal hlegal]
    exact ⟨rfl, rfl⟩
  · rw [loadedTuning_of_none_legal fun y hy => hnone y (hcontent.mp hy)]
    exact ⟨rfl, rfl⟩
  · rw [hcontent.mpr hy, loadedResponse_of_legal hlegal]
    exact ⟨rfl, rfl⟩
  · rw [loadedResponse_of_none_legal fun y hy => hnone y (hcontent.mp hy)]
    exact ⟨rfl, rfl⟩
  · rw [PerChan.get_map, hcontent.mpr hm, loadedMap_of_legal hlegal]
    rfl
  · rw [PerChan.get_map, loadedMap_of_none_legal fun m hm => hnone m (hcontent.mp hm)]

end Sys2Proof.Machine
end

section
/-! Proofs about the Crank Tracker (R23, R24, R27 to R33): what its notifications send, what the stall leaves, what an
accepted edge makes of the record, how a gap edge locks the crank, and what a reference report makes of the lock. -/

namespace Sys2Proof.Machine

/-! ### Notifications (R39, R40) -/

theorem State.synNotice_eq_sends (s : State) (old : CrankState) (cause : SynCause) : s.synNotice old cause =
    s.sends [.notice .ckt (.syn s.ckt.state old cause s.ckt.rpm s.ckt.cycles)] := rfl

/-- What the loss of the lock sends to each receiver (R39). -/
def lockLostNews : List Handover :=
  [.ascLock false, .ceuLock false] ++ allChans.map Handover.phcLockLost ++ allUnits.map Handover.lfsLockLost ++ [.trbLockLost]

theorem State.notifyLockLost_eq_sends (s : State) : s.notifyLockLost = s.sends lockLostNews := by
  simp only [State.notifyLockLost, forEach_hand_eq_sends]
  simp only [State.hand_eq_sends, State.sends_sends, List.append_assoc]
  rfl

theorem State.notifyLockGained_eq_sends (s : State) :
    s.notifyLockGained = s.sends [.ascLock true, .ceuLock true] := by
  simp [State.notifyLockGained, State.hand_eq_sends]

/-- What a loss of the lock sends, where the tracker was CYCLE_LOCKED. -/
theorem State.notifyLockLost_if (s : State) (old : CrankState) :
    (if old = .cycleLocked then s.notifyLockLost else s) =
      s.sends (if old = .cycleLocked then lockLostNews else []) := by
  split_ifs
  · exact s.notifyLockLost_eq_sends
  · simp [State.sends]

/-- The handover is no reference report. -/
def Handover.notReference : Handover → Bool
  | .referenceReport _ _ => false
  | _ => true

theorem State.dropClock_eq (s : State) : s.dropClock =
    { s with
      ckt := { s.ckt with clock := none }
      ceu := { s.ceu with refSeen := false, reportSent := false }
      handovers := s.handovers.filter Handover.notReference } := by
  have hf : (fun h => (wantReferenceReport h).isNone) = Handover.notReference := by
    funext h
    cases h <;> rfl
  rw [State.dropClock, hf]

/-! ### Stall (R23) -/

theorem State.stallExpires_eq (s : State) : s.stallExpires = State.sends
    { s with
      ckt := s.ckt.stalled
      ceu := { s.ceu with refSeen := false, reportSent := false }
      handovers := s.handovers.filter Handover.notReference }
    ((if s.ckt.state = .cycleLocked then lockLostNews else []) ++
      [.notice .ckt (.syn .stopped s.ckt.state .stall 0 s.ckt.cycles)]) := by
  dsimp only [State.stallExpires]
  rw [State.notifyLockLost_if, State.synNotice_eq_sends, State.sends_sends, State.dropClock_eq]
  rfl

/-- Settles O25: the record by `Ckt.stalled`, the rest by `State.stallExpires_eq`. -/
theorem stallStopsTheTracker : Obligations.StallStopsTheTracker := by
  intro s x hx
  have he : exec .stallTimerExpiry s = execStallTimerExpiry s := rfl
  rw [he, execStallTimerExpiry, hx]
  dsimp only
  rw [State.stallExpires_eq]
  rfl

/-! ### An accepted edge with an interval (R21, R22, R24) -/

/-- The interval `i` begins at a gap edge, by the test on the interval before it (R24). -/
def Ckt.gapAt (k : Ckt) (w : Wheel) (i : Word32) : Bool :=
  k.lastInterval.any fun b => decide (w.gapFactor * b.toNat ≤ 8 * i.toNat)

/-- The pitch period that the interval `i` gives (R24). -/
def Ckt.pitchAt (k : Ckt) (w : Wheel) (i : Word32) : Nat :=
  if k.gapAt w i then quotient i.toNat (w.missing + 1) else i.toNat

theorem Ckt.isGap_accept_some (k : Ckt) (w : Wheel) (t i : Word32) (expiry : Time) :
    (k.accept w t (some i) expiry).isGap w = k.gapAt w i := by
  cases h : k.lastInterval <;> simp [Ckt.accept, Ckt.isGap, Ckt.gapAt, h]

theorem Ckt.accept_some (k : Ckt) (w : Wheel) (t i : Word32) (expiry : Time) : k.accept w t (some i) expiry = { k with
    stall := some expiry
    lastEdge := some t
    intervalBefore := k.lastInterval
    lastInterval := some i
    pitch := some (k.pitchAt w i) } := by
  cases h : k.lastInterval <;> simp [Ckt.accept, Ckt.newPitch, Ckt.isGap, Ckt.pitchAt, Ckt.gapAt, h]

/-- A gap edge finds the noise gone (R22). -/
def Ckt.noiseGone (k : Ckt) : Bool := k.noiseTally == 0 && k.lastGap.isSome && k.noiseReported

theorem State.gapNoise_eq (s : State) : s.gapNoise = State.sends
    { s with ckt := { s.ckt with noiseTally := 0, noiseReported := s.ckt.noiseReported && !s.ckt.noiseGone } }
    (if s.ckt.noiseGone then [.report .ckt .crankNoise .gone] else []) := by
  have hclean : (s.ckt.noiseTally == 0 && s.ckt.lastGap.isSome && s.ckt.noiseReported) = s.ckt.noiseGone := rfl
  dsimp only [State.gapNoise]
  rw [hclean]
  cases h : s.ckt.noiseGone <;> simp [State.updCkt, State.report_eq_sends, State.sends]

/-- The state after an edge with the interval `i` is accepted and, at a gap, the noise judged. -/
def State.noted (s : State) (w : Wheel) (i : Word32) : State :=
  State.sends
    { s with ckt := { s.ckt with
      stall := some (s.now + ms w.stallMs)
      lastEdge := some s.timeBase
      intervalBefore := s.ckt.lastInterval
      lastInterval := some i
      pitch := some (s.ckt.pitchAt w i)
      noiseTally := if s.ckt.gapAt w i then 0 else s.ckt.noiseTally
      noiseReported := s.ckt.noiseReported && !(s.ckt.gapAt w i && s.ckt.noiseGone) } }
    (if s.ckt.gapAt w i && s.ckt.noiseGone then [.report .ckt .crankNoise .gone] else [])

theorem State.noted_eq (s : State) (w : Wheel) (i : Word32) :
    (if s.ckt.gapAt w i then
      (s.updCkt fun k => k.accept w s.timeBase (some i) (s.now + ms w.stallMs)).gapNoise
    else s.updCkt fun k => k.accept w s.timeBase (some i) (s.now + ms w.stallMs)) = s.noted w i := by
  unfold State.noted
  rw [State.gapNoise_eq]
  simp only [State.updCkt, Ckt.accept_some]
  cases h : s.ckt.gapAt w i
  · simp [State.sends]
  · rfl

theorem State.acceptEdge_of_seeking {s : State} (h : s.ckt.state = .seeking) (w : Wheel) (i : Word32) (hold : Nat) :
    s.acceptEdge w (some i) hold = (s.noted w i).seekingEdge w s.timeBase (s.ckt.gapAt w i) := by
  have hst : (s.noted w i).ckt.state = .seeking := h
  rw [← State.noted_eq] at hst ⊢
  dsimp only [State.acceptEdge]
  have hg : (s.updCkt fun k => k.accept w s.timeBase (some i) (s.now + ms w.stallMs)).ckt.isGap w = s.ckt.gapAt w i :=
    Ckt.isGap_accept_some _ _ _ _ _
  rw [hg, hst]

theorem State.acceptEdge_of_locked {s : State} (h : s.ckt.state = .crankLocked ∨ s.ckt.state = .cycleLocked) (w : Wheel)
    (i : Word32) (hold : Nat) :
    s.acceptEdge w (some i) hold = (s.noted w i).lockedEdge w s.timeBase (s.ckt.gapAt w i) hold := by
  have hst : (s.noted w i).ckt.state = .crankLocked ∨ (s.noted w i).ckt.state = .cycleLocked := h
  rw [← State.noted_eq] at hst ⊢
  dsimp only [State.acceptEdge]
  have hg : (s.updCkt fun k => k.accept w s.timeBase (some i) (s.now + ms w.stallMs)).ckt.isGap w = s.ckt.gapAt w i :=
    Ckt.isGap_accept_some _ _ _ _ _
  rw [hg]
  rcases hst with hst | hst <;> rw [hst]

/-- An edge that is no noise is accepted with its interval. -/
theorem Ckt.classify_of_interval {k : Ckt} {w : Wheel} {last : Word32} (hw : w.positions ≠ 0)
    (hlast : k.lastEdge = some last) {t : Word32} (hmin : 6666 / w.positions ≤ (t - last).toNat)
    (hli : ∀ li, k.lastInterval = some li → li.toNat ≤ 4 * (t - last).toNat) :
    k.classify w t = .accepted (some (t - last)) := by
  have h1 : ¬ (t - last).toNat < w.minInterval := by
    rw [Wheel.minInterval_of_positions hw]
    exact Nat.not_lt.mpr hmin
  unfold Ckt.classify
  rw [hlast]
  dsimp only
  rw [if_neg h1]
  cases hl : k.lastInterval with
  | none => rfl
  | some li => exact if_neg (Nat.not_lt.mpr (hli li hl))

/-- An accepted edge in RUN, as the step takes it. -/
theorem exec_crkEdge_of_accepted {s : State} {w : Wheel} {dt : Nat} {i : Option Word32} (hr : s.inRun = true)
    (hw : s.tbm.inForce.wheel = some w) (hc : s.ckt.classify w (BitVec.ofNat 32 (s.now + dt)) = .accepted i)
    (hold : Nat) : exec (.crkEdge dt hold) s = .next ((s.pass dt).acceptEdge w i hold) := by
  rw [exec_crkEdge]
  exact execCrkEdge_of_accepted hr hw hc hold

/-! ### Teeth counted in SEEKING (R27, R28, R33) -/

theorem quotient_of_pos {a b : Nat} (h : b ≠ 0) : quotient a b = a / b := if_neg h

theorem Ckt.pitchAt_eq (k : Ckt) (w : Wheel) (i : Word32) :
    k.pitchAt w i = if k.gapAt w i then i.toNat / (w.missing + 1) else i.toNat := by
  rw [Ckt.pitchAt, quotient_of_pos (Nat.succ_ne_zero _)]

theorem State.noted_of_no_gap {s : State} {w : Wheel} {i : Word32} (h : s.ckt.gapAt w i = false) : s.noted w i =
    { s with ckt := { s.ckt with
      stall := some (s.now + ms w.stallMs)
      lastEdge := some s.timeBase
      intervalBefore := s.ckt.lastInterval
      lastInterval := some i
      pitch := some i.toNat } } := by
  simp [State.noted, Ckt.pitchAt, h, State.sends]

theorem State.noted_of_gap {s : State} {w : Wheel} {i : Word32} (h : s.ckt.gapAt w i = true) : s.noted w i =
    State.sends
      { s with ckt := { s.ckt with
        stall := some (s.now + ms w.stallMs)
        lastEdge := some s.timeBase
        intervalBefore := s.ckt.lastInterval
        lastInterval := some i
        pitch := some (quotient i.toNat (w.missing + 1))
        noiseTally := 0
        noiseReported := s.ckt.noiseReported && !s.ckt.noiseGone } }
      (if s.ckt.noiseGone then [.report .ckt .crankNoise .gone] else []) := by
  simp only [State.noted, Ckt.pitchAt, h, if_true, Bool.true_and]

/-- The record at a right-count gap edge with a gap before it (R28, R33). -/
theorem Ckt.rightGap_of_lastGap {k : Ckt} {lg t : Word32} (h : k.lastGap = some lg) (hne : t ≠ lg) :
    k.rightGap t = { k with rpm := 120000000 / (t - lg).toNat, tooth := some 1, lastGap := some t } := by
  have hpos : (t - lg).toNat ≠ 0 := by
    intro h0
    exact hne (sub_eq_zero.mp (BitVec.eq_of_toNat_eq h0))
  simp only [Ckt.rightGap, Ckt.revolution, h, Option.map_some, rpmOf, quotient_of_pos hpos]

theorem State.seekingEdge_of_right {s : State} {w : Wheel} (h : s.ckt.tooth = some w.teeth) (t : Word32) :
    s.seekingEdge w t true = s.enterCrankLocked w t := by
  simp [State.seekingEdge, h]

theorem State.seekingEdge_of_wrong {s : State} {w : Wheel} (h : s.ckt.tooth ≠ some w.teeth) (t : Word32) :
    s.seekingEdge w t true = s.updCkt fun k => { k with tooth := some 1, lastGap := some t } := by
  simp [State.seekingEdge, h]

theorem State.enterCrankLocked_eq (s : State) (w : Wheel) (t : Word32) : s.enterCrankLocked w t = State.sends
    { s with ckt := { s.ckt.rightGap t with
      state := .crankLocked
      clock := some ⟨s.ckt.anchorAt w 1 t (w.toothAngle 1), none, 0⟩
      halfCandidate := none
      notSeen := 0 } }
    [.notice .ckt (.syn .crankLocked .seeking .teeth (s.ckt.rightGap t).rpm s.ckt.cycles)] := rfl

/-- Settles O23: the state after the edge is noted, then the three cases of an edge in SEEKING. -/
theorem seekingCountsTeethBetweenGaps : Obligations.SeekingCountsTeethBetweenGaps := by
  intro s dt hold w last hr hw hp hs hl
  dsimp only
  intro hmin hli
  have hex := exec_crkEdge_of_accepted hr hw (Ckt.classify_of_interval hp hl hmin hli) hold
  rw [State.acceptEdge_of_seeking (s := s.pass dt) hs] at hex
  have hgap : (s.pass dt).ckt.gapAt w (BitVec.ofNat 32 (s.now + dt) - last) =
    s.ckt.lastInterval.any fun b => decide (w.gapFactor * b.toNat ≤ 8 * (BitVec.ofNat 32 (s.now + dt) - last).toNat) := rfl
  rw [← hgap]
  refine ⟨fun hg => ?_, fun hg ht => ?_, fun lg hg ht hlg hne => ?_⟩
  · rw [hex, hg, State.noted_of_no_gap hg]
    rfl
  · rw [hex, hg, State.seekingEdge_of_wrong (s := (s.pass dt).noted w _) ht, State.noted_of_gap hg,
      quotient_of_pos (Nat.succ_ne_zero _)]
    rfl
  · rw [hex, hg, State.seekingEdge_of_right (s := (s.pass dt).noted w _) ht, State.enterCrankLocked_eq,
      Ckt.rightGap_of_lastGap (k := ((s.pass dt).noted w _).ckt) (t := (s.pass dt).timeBase) hlg hne, State.noted_of_gap hg,
      quotient_of_pos (Nat.succ_ne_zero _)]
    simp only [State.sends, List.append_assoc]
    rfl

/-! ### Reference reports (R29, R30, R32) -/

/-- A relabelled clock shows the value it is given and keeps its place behind its anchor's time. -/
theorem AngleClock.relabel_value (c : AngleClock) {v m : Nat} (h : v < m) : (c.relabel v m).value m = v := by
  have hr : c.reached % m < m := Nat.mod_lt _ (by omega)
  calc ((v + m - c.reached % m) % m + c.reached) % m
      = (v + m - c.reached % m + c.reached) % m := Nat.mod_add_mod _ _ _
    _ = (v + m - c.reached % m + c.reached % m) % m := (Nat.add_mod_mod _ _ _).symm
    _ = v := by rw [Nat.sub_add_cancel (by omega), Nat.add_mod_right, Nat.mod_eq_of_lt h]

/-- The layout in force has the reference channel `ref`, whose window ends in half `home`. -/
def State.refersTo (s : State) (ref : Chan) (home : Bool) : Prop :=
  ∃ cam e, s.tbm.inForce.reference = some (ref, cam, e) ∧ home = decide (5760 ≤ cam.windowEnd e.angle)

section
variable {s : State} {ref : Chan} {home : Bool}

theorem State.refersTo.homeHalf_eq (h : s.refersTo ref home) : s.tbm.inForce.homeHalf.getD false = home := by
  obtain ⟨cam, e, hr, hh⟩ := h
  rw [Layout.homeHalf, hr, hh]
  rfl

theorem State.refersTo.reportMissing_eq (h : s.refersTo ref home) (kind : ReportKind) :
    s.reportMissing kind = s.sends [.report .ckt (.camMissing ref) kind] := by
  obtain ⟨cam, e, hr, -⟩ := h
  rw [State.reportMissing, hr]
  rfl

theorem State.refersTo.seenAgain_eq (h : s.refersTo ref home) (seen : Bool) : s.seenAgain seen = State.sends
    { s with ckt := { s.ckt with missingReported := s.ckt.missingReported && !(seen && s.ckt.missingReported) } }
    (if seen && s.ckt.missingReported then [.report .ckt (.camMissing ref) .gone] else []) := by
  unfold State.seenAgain
  cases hg : seen && s.ckt.missingReported
  · simp [State.sends]
  · rw [if_pos rfl]
    refine (State.refersTo.reportMissing_eq (s := s.updCkt _) (ref := ref) (home := home) h _).trans ?_
    simp [State.updCkt]

/-- One more report without the reference edge is the fourth in a row, or a later one (R30). -/
def Ckt.late (k : Ckt) : Bool := decide (3 ≤ k.notSeen)

theorem State.refersTo.countNotSeen_eq (h : s.refersTo ref home) (seen : Bool) : s.countNotSeen seen = State.sends
    { s with ckt := { s.ckt with
      notSeen := if seen then 0 else s.ckt.notSeen + 1
      missingReported := s.ckt.missingReported || !seen && s.ckt.late } }
    (if !seen && s.ckt.late then [.report .ckt (.camMissing ref) .present] else []) := by
  unfold State.countNotSeen
  cases seen
  · by_cases h3 : 3 ≤ s.ckt.notSeen
    · have h4 : 4 ≤ (s.updCkt fun k => { k with notSeen := k.notSeen + 1 }).ckt.notSeen := Nat.succ_le_succ h3
      simp only [Bool.false_eq_true, if_false, h4, if_true, Ckt.late, h3, decide_true, Bool.not_false, Bool.and_self, Bool.or_true]
      exact State.refersTo.reportMissing_eq (s := State.updCkt (s.updCkt _) _) (ref := ref) (home := home) h _
    · have h4 : ¬ 4 ≤ (s.updCkt fun k => { k with notSeen := k.notSeen + 1 }).ckt.notSeen :=
        fun h => h3 (Nat.le_of_succ_le_succ h)
      simp only [Bool.false_eq_true, if_false, h4, Ckt.late, h3, decide_false, Bool.and_false, Bool.or_false]
      simp [State.sends, State.updCkt]
  · simp [State.sends, State.updCkt]

end

/-- The half that a report proposes (R29). -/
def proposedHalf (seen home : Bool) : Bool := if seen then home else !home

theorem State.crankReport_of_first {s : State} {seen home : Bool}
    (h : (s.countNotSeen seen).ckt.halfCandidate ≠ some (!proposedHalf seen home)) (on : Bool) :
    s.crankReport seen home on =
      (s.countNotSeen seen).updCkt fun k => { k with halfCandidate := some (proposedHalf seen home) } := by
  dsimp only [State.crankReport]
  cases hc : (s.countNotSeen seen).ckt.halfCandidate with
  | none => rfl
  | some c =>
    have he : c = proposedHalf seen home := by
      rw [hc] at h
      generalize proposedHalf seen home = p at h
      revert h
      cases c <;> cases p <;> decide
    subst he
    dsimp only [proposedHalf]
    rw [bne_self_eq_false]
    rfl

theorem State.crankReport_of_agreeing {s : State} {seen home : Bool}
    (h : (s.countNotSeen seen).ckt.halfCandidate = some (!proposedHalf seen home)) (on : Bool) :
    s.crankReport seen home on = (s.countNotSeen seen).enterCycleLocked (proposedHalf seen home ^^ on) := by
  have hne : ((!proposedHalf seen home) != proposedHalf seen home) = true := by cases proposedHalf seen home <;> rfl
  dsimp only [State.crankReport]
  rw [h]
  exact if_pos hne

theorem State.enterCycleLocked_eq {s : State} {c : AngleClock} (h : s.ckt.clock = some c) (second : Bool) :
    s.enterCycleLocked second = State.sends
      { s with ckt := { s.ckt with
        state := .cycleLocked
        clock := some (c.relabel (c.value 5760 + if second then 5760 else 0) 11520)
        wrongHalf := 0
        awaySeen := false } }
      [.ascLock true, .ceuLock true, .notice .ckt (.syn .cycleLocked .crankLocked .half s.ckt.rpm s.ckt.cycles)] := by
  dsimp only [State.enterCycleLocked]
  rw [State.notifyLockGained_eq_sends, State.synNotice_eq_sends, State.sends_sends]
  simp only [State.updCkt, h]
  rfl

theorem State.halfSlip_eq {s : State} {c : AngleClock} (h : s.ckt.clock = some c) : s.halfSlip = State.sends
    { s with ckt := { s.ckt with
      state := .crankLocked
      clock := some (c.relabel (c.value 11520 % 5760) 5760)
      halfCandidate := none
      notSeen := 0
      awaySeen := false
      wrongHalf := 0 } }
    (.report .ckt .syncSlip .event :: (lockLostNews ++
      [.notice .ckt (.syn .crankLocked .cycleLocked .halfSlip s.ckt.rpm s.ckt.cycles)])) := by
  dsimp only [State.halfSlip]
  rw [State.notifyLockLost_eq_sends, State.synNotice_eq_sends, State.report_eq_sends, State.sends_sends,
    State.sends_sends]
  simp only [State.updCkt, h]
  rfl

theorem exec_referenceReport {s t : State} {seen lap : Bool} (h : s.offers (.referenceReport seen lap) t) :
    exec .referenceReport s = .next (t.takeReport seen lap) := execReferenceReport_of_offers seen lap h

theorem State.takeReport_of_crankLocked {s : State} (h : s.ckt.state = .crankLocked) (seen lap : Bool) :
    s.takeReport seen lap =
      (s.seenAgain seen).crankReport seen (s.tbm.inForce.homeHalf.getD false) (s.ckt.lap ^^ lap) := by
  dsimp only [State.takeReport]
  rw [h]

theorem State.takeReport_of_cycleLocked {s : State} (h : s.ckt.state = .cycleLocked) (seen lap : Bool) :
    s.takeReport seen lap =
      (s.seenAgain seen).cycleReport seen (s.tbm.inForce.homeHalf.getD false) (s.ckt.lap ^^ lap) := by
  dsimp only [State.takeReport]
  rw [h]

/-- A report counted in CRANK_LOCKED (R30). -/
theorem State.counted_eq {s : State} {ref : Chan} {home : Bool} (h : s.refersTo ref home) (seen : Bool) :
    (s.seenAgain seen).countNotSeen seen = State.sends
      { s with ckt := { s.ckt with
        notSeen := if seen then 0 else s.ckt.notSeen + 1
        missingReported := !seen && s.ckt.missingReported || !seen && s.ckt.late } }
      (if seen && s.ckt.missingReported then [.report .ckt (.camMissing ref) .gone]
        else if !seen && s.ckt.late then [.report .ckt (.camMissing ref) .present] else []) := by
  cases seen
  · exact h.countNotSeen_eq false
  · have hseen (q : State) : q.countNotSeen true = q.updCkt fun k => { k with notSeen := 0 } := rfl
    rw [hseen, h.seenAgain_eq]
    cases hm : s.ckt.missingReported <;> simp [State.sends, State.updCkt]

/-! ### The settled reports -/

theorem State.cycleReport_of_away {s : State} {home on seen : Bool}
    (h : (decide (5760 ≤ s.clockValue.getD 0) ^^ on) ≠ home) :
    s.cycleReport seen home on = s.updCkt fun k => { k with awaySeen := seen } :=
  if_pos (bne_iff_ne.mpr h)

/-- The tally of wrong halves after a report in the home half (R32). -/
def Ckt.wrongAfter (k : Ckt) (seen : Bool) : Nat := if k.awaySeen && !seen then k.wrongHalf + 1 else 0

theorem State.cycleReport_of_home {s : State} {home on seen : Bool}
    (h : (decide (5760 ≤ s.clockValue.getD 0) ^^ on) = home) :
    s.cycleReport seen home on =
      if 2 ≤ s.ckt.wrongAfter seen then
        (s.updCkt fun k => { k with wrongHalf := s.ckt.wrongAfter seen, awaySeen := false }).halfSlip
      else s.updCkt fun k => { k with wrongHalf := s.ckt.wrongAfter seen, awaySeen := false } :=
  if_neg fun hb => bne_iff_ne.mp hb h

theorem State.clockValue_of_cycleLocked {s : State} {c : AngleClock} (hs : s.ckt.state = .cycleLocked)
    (hc : s.ckt.clock = some c) : s.clockValue = some ((c.anchor.angle + c.reached) % 11520) := by
  simp [State.clockValue, hc, AngleClock.value, State.clockCircle, hs, cycleAu]

/-- Settles O26: in CRANK_LOCKED the report is counted, then proposes a half; in CYCLE_LOCKED it is judged in its half. -/
theorem reportsLockTheCycleOrSlip : Obligations.ReportsLockTheCycleOrSlip := by
  constructor
  · intro s t seen lap home ref cam e ho hst href hhome
    have hrefers : t.refersTo ref home := ⟨cam, e, href, hhome⟩
    have hcounted := t.counted_eq hrefers seen
    have htake := t.takeReport_of_crankLocked hst seen lap
    rw [hrefers.homeHalf_eq] at htake
    dsimp only
    refine ⟨fun hfirst => ?_, fun c hagree hclock => ?_⟩
    · rw [exec_referenceReport ho, htake, State.crankReport_of_first (by rw [hcounted]; exact hfirst), hcounted]
      rfl
    · refine ⟨c.relabel (c.value 5760 + if proposedHalf seen home ^^ (t.ckt.lap ^^ lap) then 5760 else 0) 11520,
        ?_, rfl, rfl, rfl, ?_⟩
      · refine c.relabel_value ?_
        have hlt : c.value 5760 < 5760 := Nat.mod_lt _ (by decide)
        split_ifs <;> omega
      · rw [exec_referenceReport ho, htake, State.crankReport_of_agreeing (by rw [hcounted]; exact hagree),
          State.enterCycleLocked_eq (c := c) (by rw [hcounted]; exact hclock), hcounted]
        simp only [State.sends, List.append_assoc]
        rfl
  · intro s t seen lap home ref cam e c ho hst hclock href hhome
    have hrefers : t.refersTo ref home := ⟨cam, e, href, hhome⟩
    have htake := t.takeReport_of_cycleLocked hst seen lap
    rw [hrefers.homeHalf_eq] at htake
    have hagain := hrefers.seenAgain_eq seen
    have hvalue : (t.seenAgain seen).clockValue = some ((c.anchor.angle + c.reached) % 11520) :=
      State.clockValue_of_cycleLocked (by rw [hagain]; exact hst) (by rw [hagain]; exact hclock)
    have hwrong : (t.seenAgain seen).ckt.wrongAfter seen = t.ckt.wrongAfter seen := by rw [hagain]; rfl
    dsimp only
    rw [exec_referenceReport ho, htake]
    refine ⟨fun haway => ?_, fun hhalf hlt => ?_, fun hhalf hge => ?_⟩
    · rw [State.cycleReport_of_away (by rw [hvalue]; exact haway), hagain]
      rfl
    · have hlt' : ¬ 2 ≤ t.ckt.wrongAfter seen := Nat.not_le.mpr hlt
      rw [State.cycleReport_of_home (by rw [hvalue]; exact hhalf), hwrong, if_neg hlt', hagain]
      rfl
    · have hge' : 2 ≤ t.ckt.wrongAfter seen := hge
      refine ⟨c.relabel (c.value 11520 % 5760) 5760, ?_, ?_⟩
      · rw [c.relabel_value (Nat.mod_lt _ (by decide))]
        exact Nat.mod_mod_of_dvd _ (by decide)
      · rw [State.cycleReport_of_home (by rw [hvalue]; exact hhalf), hwrong, if_pos hge',
          State.halfSlip_eq (s := State.updCkt _ _) (c := c) (by rw [hagain]; exact hclock), hagain]
        simp only [State.sends, State.updCkt, List.append_assoc]
        rfl

end Sys2Proof.Machine
end

section
/-! Proofs about the edges of a locked crank (R28, R31, R36, R37): what a wrong tooth count leaves, and from which state a
right one lets the clock pass on. -/

namespace Sys2Proof.Machine

/-! ### A wrong count (R28, R31) -/

theorem State.wrongCount_eq (s : State) (t : Word32) (gap : Bool) : s.wrongCount t gap = State.sends
    { s with
      ckt := { s.ckt with
        state := .seeking
        tooth := if gap then some 1 else none
        lastGap := if gap then some t else s.ckt.lastGap
        halfCandidate := none
        notSeen := 0
        awaySeen := false
        wrongHalf := 0
        clock := none }
      ceu := { s.ceu with refSeen := false, reportSent := false }
      handovers := s.handovers.filter Handover.notReference }
    ((if s.ckt.state = .cycleLocked then .report .ckt .syncSlip .event :: lockLostNews else []) ++
      [.notice .ckt (.syn .seeking s.ckt.state .count s.ckt.rpm s.ckt.cycles)]) := by
  have hslip (q : State) : (if s.ckt.state = .cycleLocked then (q.report .ckt .syncSlip .event).notifyLockLost else q) =
      q.sends (if s.ckt.state = .cycleLocked then .report .ckt .syncSlip .event :: lockLostNews else []) := by
    split_ifs
    · rw [State.notifyLockLost_eq_sends, State.report_eq_sends, State.sends_sends]
      rfl
    · simp [State.sends]
  dsimp only [State.wrongCount]
  rw [hslip, State.synNotice_eq_sends, State.sends_sends, State.dropClock_eq]
  rfl

variable {s : State} {w : Wheel}

theorem State.lockedEdge_of_wrong {gap : Bool}
    (h : gap = true ∧ s.ckt.tooth ≠ some w.teeth ∨ gap = false ∧ s.ckt.tooth = some w.teeth) (t : Word32) (hold : Nat) :
    s.lockedEdge w t gap hold = s.wrongCount t gap := by
  unfold State.lockedEdge
  rcases h with ⟨rfl, h⟩ | ⟨rfl, h⟩
  · rw [beq_eq_false_iff_ne.mpr h]
  · rw [beq_iff_eq.mpr h]

theorem State.lockedEdge_of_gap (h : s.ckt.tooth = some w.teeth) (t : Word32) (hold : Nat) :
    s.lockedEdge w t true hold = (s.updCkt fun k => k.rightGap t).clockToTooth w 1 t hold := by
  unfold State.lockedEdge
  rw [beq_iff_eq.mpr h]

theorem State.lockedEdge_of_tooth (h : s.ckt.tooth ≠ some w.teeth) (t : Word32) (hold : Nat) :
    s.lockedEdge w t false hold =
      (s.updCkt fun k => { k with tooth := some (bump 63 (s.ckt.tooth.getD 0)) }).clockToTooth w
        (bump 63 (s.ckt.tooth.getD 0)) t hold := by
  unfold State.lockedEdge
  rw [beq_eq_false_iff_ne.mpr h]

/-! ### The obligation -/

theorem State.noted_handovers_filter (s : State) (w : Wheel) (i : Word32) :
    ∃ pre, (s.noted w i).handovers.filter Handover.notReference = s.handovers.filter Handover.notReference ++ pre ∧
      (pre = [] ∨ pre = [.report .ckt .crankNoise .gone]) := by
  cases h : s.ckt.gapAt w i && s.ckt.noiseGone
  · exact ⟨[], by simp [State.noted, State.sends, h], .inl rfl⟩
  · refine ⟨[.report .ckt .crankNoise .gone], ?_, .inr rfl⟩
    simp only [State.noted, State.sends, h, if_true, List.filter_append]
    rfl

/-- Settles O24: a wrong count by `State.wrongCount_eq`, a right one by the clock's passage to the tooth. -/
theorem wrongCountsEndTheLockRightOnesMoveTheClock : Obligations.WrongCountsEndTheLockRightOnesMoveTheClock := by
  constructor
  · intro s dt hold w i hr hw hc hst
    have hgap : (s.pass dt).ckt.gapAt w i =
      s.ckt.lastInterval.any fun b => decide (w.gapFactor * b.toNat ≤ 8 * i.toNat) := rfl
    dsimp only
    rw [← hgap]
    intro hwrong
    obtain ⟨pre, hpre, hcases⟩ := (s.pass dt).noted_handovers_filter w i
    refine ⟨_, exec_crkEdge_of_accepted hr hw hc hold, ?_⟩
    rw [State.acceptEdge_of_locked (s := s.pass dt) hst, State.lockedEdge_of_wrong (s := (s.pass dt).noted w i) hwrong,
      State.wrongCount_eq]
    refine ⟨rfl, rfl, rfl, rfl, rfl, rfl, rfl, rfl, rfl, rfl, rfl, rfl, rfl, rfl, ⟨pre, ?_, hcases⟩, rfl⟩
    dsimp only [State.sends]
    have hnews : (if s.ckt.state = .cycleLocked then
        [.report .ckt .syncSlip .event, .ascLock false, .ceuLock false] ++ allChans.map Handover.phcLockLost ++
          allUnits.map Handover.lfsLockLost ++ [.trbLockLost] else []) =
        if s.ckt.state = .cycleLocked then .report .ckt .syncSlip .event :: lockLostNews else [] := by
      split_ifs <;> rfl
    rw [hpre, hnews]
    simp only [List.append_assoc]
    rfl
  · intro s dt hold w i c hr hw hc hst hclock
    have hgap : (s.pass dt).ckt.gapAt w i =
      s.ckt.lastInterval.any fun b => decide (w.gapFactor * b.toNat ≤ 8 * i.toNat) := rfl
    dsimp only
    rw [← hgap]
    intro n hn
    have hex := exec_crkEdge_of_accepted hr hw hc hold
    rw [State.acceptEdge_of_locked (s := s.pass dt) hst] at hex
    rcases hn with ⟨hg, ht, rfl⟩ | ⟨hg, ht, rfl⟩
    · rw [hg, State.lockedEdge_of_gap (s := (s.pass dt).noted w i) ht] at hex
      refine ⟨_, _, hex, ?_, ?_, fun lg _ hlg => ?_, fun h => (Bool.noConfusion (hg.symm.trans h)),
        State.clockToTooth_passesTo _ w 1 _ hold c hclock hst⟩
      · rw [State.noted_of_gap hg, hg]
        rfl
      · rw [State.noted_of_gap hg, hg]
        rfl
      · rw [State.noted_of_gap hg]
        have hlast : (s.pass dt).ckt.lastGap = some lg := hlg
        simp only [State.updCkt, State.sends, Ckt.rightGap, Ckt.revolution, hlast]
        rfl
    · rw [hg, State.lockedEdge_of_tooth (s := (s.pass dt).noted w i) ht] at hex
      have hpass := State.clockToTooth_passesTo (((s.pass dt).noted w i).updCkt fun k =>
        { k with tooth := some (bump 63 (((s.pass dt).noted w i).ckt.tooth.getD 0)) }) w
        (bump 63 (((s.pass dt).noted w i).ckt.tooth.getD 0)) (s.pass dt).timeBase hold c hclock hst
      refine ⟨_, _, hex, ?_, ?_, fun lg h => Bool.noConfusion (hg.symm.trans h), ?_, hpass⟩
      · rw [State.noted_of_no_gap hg, hg]
        simp only [Bool.false_and, Bool.false_eq_true, if_false, List.append_nil]
        rfl
      · rw [State.noted_of_no_gap hg, hg]
        simp only [Bool.false_and, Bool.not_false, Bool.and_true]
        rfl
      · exact fun _ => rfl

end Sys2Proof.Machine
end

section
/-! Proofs about the running clock and the schedule (R35, R36, R42 to R55): what ANGLE_CLOCK_REACH makes of the state, the
order in which the list stands, and which handovers at an angle wait for others. -/

namespace Sys2Proof.Machine

/-! ### The clock runs on (R35, R47) -/

theorem State.run_zero (s : State) (hold : Nat) : s.run 0 hold = s := (s.run_runsTo 0 hold).1 rfl

theorem State.run_of_ne_zero {s : State} {c : AngleClock} {n : Nat} (hc : s.ckt.clock = some c) (hn : n ≠ 0)
    (hold : Nat) : s.run n hold =
      s.passAngles (c.value s.clockCircle) n { c with reached := c.reached + n } hold := by
  obtain ⟨m, rfl⟩ := Nat.exists_eq_succ_of_ne_zero hn
  unfold State.run
  rw [hc]

theorem State.passAngles_of_no_report {s : State} {v n : Nat} (h : s.reportDue v n = none) (new : AngleClock)
    (hold : Nat) : s.passAngles v n new hold = s.advance v n new 0 := by
  unfold State.passAngles
  rw [h]

/-- A report that cannot end the lock is sent, and the clock goes on. -/
theorem State.passAngles_of_report {s : State} {v n d : Nat} (h : s.reportDue v n = some d)
    (hst : s.ckt.state ≠ .cycleLocked) (new : AngleClock) (hold : Nat) : s.passAngles v n new hold =
      State.sends
        { s with
          ckt := { s.ckt with clock := some new, lap := s.ckt.lap ^^ oddLaps v n }
          ceu := { s.ceu with refSeen := false, reportSent := true } }
        [.referenceReport s.ceu.refSeen (s.ckt.lap ^^ oddLaps v d)] := by
  unfold State.passAngles
  rw [h]
  refine (if_neg ?_).trans (if_pos hst)
  simp [hst]

theorem State.advance_of_not_cycleLocked {s : State} (hst : s.ckt.state ≠ .cycleLocked) (v n : Nat)
    (new : AngleClock) (hold : Nat) : s.advance v n new hold =
      { s with ckt := { s.ckt with clock := some new, lap := s.ckt.lap ^^ oddLaps v n } } := if_pos hst

/-- Within the cycle the entries due fire. -/
theorem State.advance_of_within {s : State} (hst : s.ckt.state = .cycleLocked) {v n : Nat} (h : v + n < 11520)
    (new : AngleClock) : s.advance v n new 0 = State.sends
      { s with
        ckt := { s.ckt with clock := some new, lap := s.ckt.lap ^^ oddLaps v n }
        asc := { s.asc with entries := firedTo s.asc.entries (new.value 11520) } }
      ((duesOf s.asc.entries (new.value 11520)).flatMap (Entry.handovers s.ckt.cycles)) := by
  have hmoved : ¬ (s.moveClock v n new).ckt.state ≠ .cycleLocked := not_not_intro hst
  have hwithin : v + n < cycleAu := h
  dsimp only [State.advance]
  rw [if_neg hmoved, if_pos hwithin, State.fireDue_zero]
  rfl

theorem State.reportDue_pass (s : State) (dt v n : Nat) : (s.pass dt).reportDue v n = s.reportDue v n := rfl

theorem State.clockValue_eq {s : State} {c : AngleClock} (hc : s.ckt.clock = some c) :
    s.clockValue = some (c.value s.clockCircle) := by
  simp [State.clockValue, hc]

theorem State.runAngles_of_no_report {s : State} {c : AngleClock} (hc : s.ckt.clock = some c) {n : Nat}
    (h : s.reportDue (c.value s.clockCircle) n = none) (hold : Nat) : s.runAngles n hold = s.run n 0 := by
  unfold State.runAngles
  rw [State.clockValue_eq hc, Option.bind_some, h]

theorem State.runAngles_of_report {s : State} {c : AngleClock} (hc : s.ckt.clock = some c) {n d : Nat}
    (h : s.reportDue (c.value s.clockCircle) n = some d) (hold : Nat) :
    s.runAngles n hold = ((s.run (d - 1) 0).run 1 hold).run (n - d) 0 := by
  unfold State.runAngles
  rw [State.clockValue_eq hc, Option.bind_some, h]

/-- The state as ANGLE_CLOCK_REACH has let the time pass in which the clock runs `n` angles. -/
def State.reaching (s : State) (c : AngleClock) (n : Nat) : State :=
  s.pass (c.anchor.reachTime (c.reached + n) - (BitVec.ofNat 32 s.now - c.anchor.time).toNat)

theorem exec_angleClockReach_of_none {s : State} (hc : s.ckt.clock = none) (au hold : Nat) :
    exec (.angleClockReach au hold) s = .next s := by
  have he : exec (.angleClockReach au hold) s = execAngleClockReach au hold s := rfl
  rw [he, execAngleClockReach, hc]

theorem exec_angleClockReach_of_some {s : State} {c : AngleClock} (hc : s.ckt.clock = some c) (au hold : Nat) :
    exec (.angleClockReach au hold) s =
      if min au (c.anchor.span - 1 - c.reached) = 0 then .next s
      else .next ((s.reaching c (min au (c.anchor.span - 1 - c.reached))).runAngles
        (min au (c.anchor.span - 1 - c.reached)) hold) := by
  have he : exec (.angleClockReach au hold) s = execAngleClockReach au hold s := rfl
  rw [he, execAngleClockReach, hc]
  rfl

/-- Within one cycle the number of half cycles begun is odd just where the second half is. -/
theorem oddLaps_of_within {v n : Nat} (h : v + n < 11520) : oddLaps v n = decide (v < 5760 ∧ 5760 ≤ v + n) := by
  unfold oddLaps revAu
  congr 1
  ext
  omega

theorem oddLaps_one {v : Nat} (h : v < 5760) : oddLaps v 1 = decide (v = 5759) := by
  unfold oddLaps revAu
  congr 1
  ext
  omega

theorem Entry.handovers_eq (e : Entry) (cycle : Word32) : e.handovers cycle = match e.kind with
    | .cycleStart => []
    | .edgeClose ch k => [.ceuEdgeClose ch k e.angle cycle]
    | .liftDecide u => [.liftEntry (.liftDecide u) e.angle cycle]
    | .liftOpen u => [.liftEntry (.liftOpen u) e.angle cycle]
    | .liftClose u => [.liftEntry (.liftClose u) e.angle cycle] := by
  obtain ⟨a, k, f⟩ := e
  cases k <;> rfl

/-- The clock reaches `n` angles of the cycle with no report due. -/
theorem State.runAngles_within {s : State} {c : AngleClock} {n : Nat} (hc : s.ckt.clock = some c) (hn : n ≠ 0)
    (hst : s.ckt.state = .cycleLocked) (hr : s.reportDue ((c.anchor.angle + c.reached) % 11520) n = none)
    (hv : (c.anchor.angle + c.reached) % 11520 + n < 11520) (hold : Nat) :
    let v := (c.anchor.angle + c.reached) % 11520
    s.runAngles n hold = State.sends
      { s with
        ckt := { s.ckt with
          clock := some { c with reached := c.reached + n }
          lap := s.ckt.lap ^^ decide (v < 5760 ∧ 5760 ≤ v + n) }
        asc := { s.asc with entries := firedTo s.asc.entries (v + n) } }
      ((duesOf s.asc.entries (v + n)).flatMap (Entry.handovers s.ckt.cycles)) := by
  have hcircle : s.clockCircle = 11520 := if_pos hst
  have hnew : AngleClock.value { c with reached := c.reached + n } 11520 = (c.anchor.angle + c.reached) % 11520 + n := by
    rw [← Nat.mod_eq_of_lt hv, Nat.mod_add_mod, Nat.add_assoc]
    rfl
  have hdue : s.reportDue (c.value s.clockCircle) n = none := by rw [hcircle]; exact hr
  dsimp only
  rw [State.runAngles_of_no_report hc hdue, State.run_of_ne_zero hc hn, State.passAngles_of_no_report hdue, hcircle,
    State.advance_of_within (v := c.value 11520) hst hv, hnew, ← oddLaps_of_within hv]
  rfl

/-- In CRANK_LOCKED the clock reaches one angle, and a report is sent there where the reference window ends. -/
theorem State.runAngles_one {s : State} {c : AngleClock} {w : Nat} (hc : s.ckt.clock = some c)
    (hst : s.ckt.state = .crankLocked) (hw : s.tbm.inForce.reportAngle = some w) (hold : Nat) :
    let v := (c.anchor.angle + c.reached) % 5760
    let lap : Bool := s.ckt.lap ^^ decide (v = 5759)
    (w = (v + 1) % 5760 → s.runAngles 1 hold = State.sends
      { s with
        ckt := { s.ckt with clock := some { c with reached := c.reached + 1 }, lap := lap }
        ceu := { s.ceu with refSeen := false, reportSent := true } }
      [.referenceReport s.ceu.refSeen lap]) ∧
    (w ≠ (v + 1) % 5760 → s.runAngles 1 hold =
      { s with ckt := { s.ckt with clock := some { c with reached := c.reached + 1 }, lap := lap } }) := by
  have hne : s.ckt.state ≠ .cycleLocked := by rw [hst]; decide
  have hcircle : s.clockCircle = 5760 := if_neg hne
  have hlt : c.value 5760 < 5760 := Nat.mod_lt _ (by decide)
  have hone : (1 : Nat) ≠ 0 := Nat.one_ne_zero
  dsimp only
  refine ⟨fun h => ?_, fun h => ?_⟩
  · have hdue : s.reportDue (c.value s.clockCircle) 1 = some 1 := by
      rw [State.reportDue_eq, hw, hcircle, h]
      exact ⟨Nat.le_refl _, Nat.le_refl _, by decide, rfl⟩
    rw [State.runAngles_of_report hc hdue, State.run_zero, State.run_zero, State.run_of_ne_zero hc hone,
      State.passAngles_of_report hdue hne, hcircle, oddLaps_one hlt]
    rfl
  · have hdue : s.reportDue (c.value s.clockCircle) 1 = none := by
      rw [Option.eq_none_iff_forall_ne_some]
      intro d hd
      rw [State.reportDue_eq, hw, hcircle] at hd
      obtain ⟨h1, h2, -, h3⟩ := hd
      obtain rfl : d = 1 := by omega
      exact h (Option.some.inj h3)
    rw [State.runAngles_of_no_report hc hdue, State.run_of_ne_zero hc hone, State.passAngles_of_no_report hdue,
      State.advance_of_not_cycleLocked hne, hcircle, oddLaps_one hlt]
    rfl

/-- Settles O27: what an entry hands over by its kind; the clock's running by `State.runAngles_runsTo`, and its two
closed forms. -/
theorem entriesFireAndReferencesAreReported : Obligations.EntriesFireAndReferencesAreReported := by
  refine ⟨fun e cycle => ?_, fun s au hold => ⟨fun hc => exec_angleClockReach_of_none hc au hold, fun c hc => ?_⟩,
    fun s c hold w hc hst hspan hw hlt => ?_, fun a k => a.reachTime_first k⟩
  · exact e.handovers_eq cycle
  · dsimp only
    rw [exec_angleClockReach_of_some hc]
    refine ⟨fun h => if_pos h, fun h => ?_, fun h hst hr hv => ?_⟩
    · rw [if_neg h]
      exact ⟨_, rfl, (s.reaching c _).runAngles_runsTo c _ hold hc⟩
    · rw [if_neg h]
      rw [if_pos hst] at hr hv ⊢
      rw [State.runAngles_within (s := s.reaching c _) hc h hst hr hv]
      rfl
  · have hmin : min 1 (c.anchor.span - 1 - c.reached) = 1 := by omega
    have hone := State.runAngles_one (s := s.reaching c 1) hc hst hw hold
    dsimp only at hone ⊢
    obtain ⟨hat, hoff⟩ := hone
    rw [exec_angleClockReach_of_some hc, hmin, if_neg Nat.one_ne_zero]
    exact ⟨fun h => by rw [hat h]; rfl, fun h => by rw [hoff h]; rfl⟩

end Sys2Proof.Machine
end

section
/-! Proofs about the schedule (R43 to R46, R53): the order in which the list stands, which handovers at an angle wait for
others, and where a moving entry is placed. -/

namespace Sys2Proof.Machine

/-! ### Waiting at an angle (R43) -/

theorem State.heldBack_ceuEdgeClose {s : State} {v : LiftUnit} {a : Nat} {c : Word32}
    (h : .liftEntry (.liftClose v) a c ∈ s.handovers) (ch : Chan) (k : Nat) :
    s.heldBack (.ceuEdgeClose ch k a c) = true :=
  List.any_eq_true.mpr ⟨_, h, by simp⟩

theorem State.heldBack_liftDecide_of_edgeClose {s : State} {u : LiftUnit} {a e : Nat} {c : Word32}
    (h : .ceuEdgeClose (intake u) e a c ∈ s.handovers) : s.heldBack (.liftEntry (.liftDecide u) a c) = true :=
  List.any_eq_true.mpr ⟨_, h, by simp⟩

theorem State.heldBack_liftDecide_of_missing {s : State} {u : LiftUnit} {a e : Nat} {c : Word32}
    (h : .phcMissing (intake u) e c ∈ s.handovers) (ha : s.closeAngle (intake u) e = some a) :
    s.heldBack (.liftEntry (.liftDecide u) a c) = true :=
  List.any_eq_true.mpr ⟨_, h, by simp [ha]⟩

theorem Handover.lane_ne_ceuSchedule {x : Handover} (hclose : ∀ c k a n, x ≠ .ceuEdgeClose c k a n)
    (hstart : ∀ a n, x ≠ .ceuCycleStart a n) : x.lane ≠ .ceuSchedule := by
  cases x with
  | ceuEdgeClose => exact absurd rfl (hclose _ _ _ _)
  | ceuCycleStart => exact absurd rfl (hstart _ _)
  | _ => simp [Handover.lane]

theorem Handover.lane_ne_lift {x : Handover} (h : ∀ k a n, x ≠ .liftEntry k a n) : x.lane ≠ .lift := by
  cases x with
  | liftEntry => exact absurd rfl (h _ _ _)
  | _ => simp [Handover.lane]

variable {s : State} {pre post : List Handover}

/-- An EDGE_CLOSE that is held back is not taken, nor is any behind it. -/
theorem exec_ceuEdgeClose_of_heldBack {ch : Chan} {k a : Nat} {c : Word32}
    (h : s.handovers = pre ++ .ceuEdgeClose ch k a c :: post)
    (hp : ∀ x ∈ pre, (∀ c' k' a' n, x ≠ .ceuEdgeClose c' k' a' n) ∧ ∀ a' n, x ≠ .ceuCycleStart a' n)
    (hb : s.heldBack (.ceuEdgeClose ch k a c) = true) : exec .ceuEdgeClose s = .next s := by
  have he : exec .ceuEdgeClose s = execCeuEdgeClose s := rfl
  rw [he, execCeuEdgeClose, State.taking_of_heldBack pre post h (fun x hx => ?_) hb fun x hx => ?_]
  · obtain ⟨hclose, hstart⟩ := hp x hx
    exact Handover.lane_ne_ceuSchedule hclose hstart
  · cases x <;> simp_all [wantEdgeClose, Handover.lane]

/-- A LIFT_DECIDE that is held back is not taken, nor is any entry behind it. -/
theorem exec_lfsLiftDecide_of_heldBack {u : LiftUnit} {a : Nat} {c : Word32}
    (h : s.handovers = pre ++ .liftEntry (.liftDecide u) a c :: post) (hp : ∀ x ∈ pre, ∀ k' a' n, x ≠ .liftEntry k' a' n)
    (hb : s.heldBack (.liftEntry (.liftDecide u) a c) = true) : exec (.lfsLiftDecide u) s = .next s := by
  have he : exec (.lfsLiftDecide u) s = execLfsLiftDecide u s := rfl
  rw [he, execLfsLiftDecide, State.taking_of_heldBack pre post h (fun x hx => ?_) hb fun x hx => ?_]
  · exact Handover.lane_ne_lift (hp x hx)
  · cases x <;> simp_all [wantLift, Handover.lane]

theorem State.closeAngle_of_bound {ch : Chan} {e : Nat} {i : CamItem} {x : EdgeItem}
    (hi : s.tbm.inForce.cam.get ch = some i) (hx : (s.tbm.inForce.edges.get ch)[e - 1]? = some x) :
    s.closeAngle ch e = some (i.windowEnd x.angle) := by
  simp [State.closeAngle, hi, hx]

/-! ### Where a moving entry is placed (R45) -/

theorem State.placedAngle_of_still {p : PlanEntry} (h : p.moves = none) : s.placedAngle p = p.angle := by
  unfold State.placedAngle
  rw [h]
  cases p.kind.unit? <;> rfl

theorem State.placedAngle_of_moving {p : PlanEntry} {u : LiftUnit} {d : Dir} {g : Nat}
    (hk : p.kind = .liftOpen u ∨ p.kind = .liftClose u) (hm : p.moves = some (d, g)) :
    s.placedAngle p = moveBy d p.angle (s.placementPhase u g) := by
  have hu : p.kind.unit? = some u := by rcases hk with hk | hk <;> rw [hk] <;> rfl
  unfold State.placedAngle
  rw [hu, hm]

theorem clampInt_of_lt {lo hi x : Int} (h : x < lo) : clampInt lo hi x = lo := if_pos h

theorem clampInt_of_within {lo hi x : Int} (hlo : lo ≤ x) (hhi : x ≤ hi) : clampInt lo hi x = x :=
  (if_neg (Int.not_lt.mpr hlo)).trans (if_neg (Int.not_lt.mpr hhi))

theorem clampInt_of_gt {lo hi x : Int} (hle : lo ≤ hi) (h : hi < x) : clampInt lo hi x = hi :=
  (if_neg (Int.not_lt.mpr (hle.trans h.le))).trans (if_pos h)

theorem State.placementPhase_eq {u : LiftUnit} {g x : Nat}
    (h : ((s.ceu.chans.get (intake u)).valid = false ∨ (s.ceu.chans.get (intake u)).phase < 0) ∧ x = 0 ∨
      (s.ceu.chans.get (intake u)).valid = true ∧ 0 ≤ (s.ceu.chans.get (intake u)).phase ∧
        (s.ceu.chans.get (intake u)).phase ≤ g ∧ (x : Int) = (s.ceu.chans.get (intake u)).phase ∨
      (s.ceu.chans.get (intake u)).valid = true ∧ (g : Int) < (s.ceu.chans.get (intake u)).phase ∧ x = g) :
    s.placementPhase u g = x := by
  unfold State.placementPhase
  dsimp only
  rcases h with ⟨hv | hneg, rfl⟩ | ⟨hv, h0, hg, hx⟩ | ⟨hv, hg, rfl⟩
  · rw [hv]
    rfl
  · rw [clampInt_of_lt hneg]
    exact ite_self _
  · rw [hv, clampInt_of_within h0 hg, ← hx]
    rfl
  · rw [hv, clampInt_of_gt (Int.natCast_nonneg _) hg]
    rfl

/-! ### The obligation -/

/-- Settles O28: the built list is the placed plan in the order of R43; what is held back is not taken; a moving entry
stands at its placement phase. -/
theorem theScheduleFollowsLockAndPhase : Obligations.TheScheduleFollowsLockAndPhase := by
  refine ⟨fun s t => ⟨fun ho => ?_, fun ho => execAscLockLost_of_offers ho⟩, fun s pre post u v ch k a c => ⟨?_, ?_⟩,
    fun s p => ⟨State.placedAngle_of_still, fun u g x hk => ?_⟩⟩
  · refine ⟨_, execAscLockGained_of_offers ho, fun v hv => ?_, fun hv => ?_, ?_⟩
    · simp only [hv]
      exact sortEntries_perm _
    · simp only [hv]
      exact sortEntries_perm _
    · intro rank major minor
      have hrank (k : EntryKind) : rank k = k.rank := by cases k <;> rfl
      have hmajor (k : EntryKind) : major k = k.owner.1 := by cases k <;> rfl
      have hminor (k : EntryKind) : minor k = k.owner.2 := by cases k <;> rfl
      simp only [hrank, hmajor, hminor]
      exact sortEntries_ordered _
  · exact fun h hp hclose => exec_ceuEdgeClose_of_heldBack h hp (State.heldBack_ceuEdgeClose hclose ch k)
  · rintro h hp (⟨e, he⟩ | ⟨e, i, x, hmiss, hi, hx, ha⟩)
    · exact exec_lfsLiftDecide_of_heldBack h hp (State.heldBack_liftDecide_of_edgeClose he)
    · refine exec_lfsLiftDecide_of_heldBack h hp (State.heldBack_liftDecide_of_missing hmiss ?_)
      rw [State.closeAngle_of_bound hi hx, ha, CamItem.windowEnd]
      cases i.dir <;> rfl
  · dsimp only
    intro hx
    rw [← State.placementPhase_eq hx]
    exact ⟨fun hm => State.placedAngle_of_moving hk hm, fun hm => State.placedAngle_of_moving hk hm⟩

end Sys2Proof.Machine
end

section
/-! Proofs about the Cam Edge Unit's window ends, lock and cycle checks (R65 to R69): what the end of a window leaves, what
lock gained and lock lost make of the records, and what a cycle start makes of one channel and of all four. -/

namespace Sys2Proof.Machine

theorem PerChan.set_set {α : Type} (p : PerChan α) (ch : Chan) (a b : α) : (p.set ch a).set ch b = p.set ch b := by
  cases ch <;> rfl

theorem State.setCeu_setCeu (s : State) (ch : Chan) (a b : CeuChan) : (s.setCeu ch a).setCeu ch b = s.setCeu ch b := by
  simp only [State.setCeu, PerChan.set_set]

theorem State.setCeu_get (s : State) (ch : Chan) (a : CeuChan) : (s.setCeu ch a).ceu.chans.get ch = a :=
  PerChan.get_set_same _ _ _

theorem State.sends_setCeu (s : State) (l : List Handover) (ch : Chan) (a : CeuChan) :
    (s.sends l).setCeu ch a = (s.setCeu ch a).sends l := rfl

@[simp] theorem State.sends_ceu (s : State) (l : List Handover) : (s.sends l).ceu = s.ceu := rfl

@[simp] theorem State.sends_nil (s : State) : s.sends [] = s := by
  simp [State.sends]

theorem State.sends_if (s : State) (p : Prop) [Decidable p] (l : List Handover) :
    (if p then s.sends l else s) = s.sends (if p then l else []) := by
  split_ifs
  · rfl
  · simp

/-! ### Window ends (R65) -/

theorem State.closeWindow_of_matching {s : State} (h : s.ceu.matching = true) (ch : Chan) (k : Nat) (cycle : Word32) :
    s.closeWindow ch k cycle = State.sends
      (s.setCeu ch ((s.ceu.chans.get ch).setWindow k ⟨false, false, some cycle⟩))
      (if ((s.ceu.chans.get ch).window k).matched || ((s.ceu.chans.get ch).window k).opened then []
        else [.phcMissing ch k cycle]) := by
  unfold State.closeWindow
  rw [h]
  dsimp only
  generalize ((s.ceu.chans.get ch).window k).matched = matched
  generalize ((s.ceu.chans.get ch).window k).opened = opened
  rw [if_neg (by decide), State.hand_eq_sends, State.sends_if]
  cases matched <;> cases opened <;> rfl

theorem State.closeWindow_of_not_matching {s : State} (h : s.ceu.matching = false) (ch : Chan) (k : Nat)
    (cycle : Word32) : s.closeWindow ch k cycle = s := by
  unfold State.closeWindow
  rw [h]
  rfl

/-! ### Lock gained and lost (R66, R69) -/

/-- The handover is no EDGE_CLOSE. -/
def Handover.notEdgeClose : Handover → Bool
  | .ceuEdgeClose _ _ _ _ => false
  | _ => true

theorem Handover.notEdgeClose_eq : (fun h => (wantEdgeClose h).isNone) = Handover.notEdgeClose := by
  funext h
  cases h <;> rfl

/-- The handover is no entry of the schedule for the Cam Edge Unit. -/
def Handover.notCeuSchedule : Handover → Bool
  | .ceuEdgeClose _ _ _ _ => false
  | .ceuCycleStart _ _ => false
  | _ => true

theorem Handover.notCeuSchedule_eq : (fun h : Handover => h.lane != .ceuSchedule) = Handover.notCeuSchedule := by
  funext h
  cases h <;> rfl

/-- The flags of an expected edge's window at lock gained (R66). -/
theorem State.freshWindows_get {s : State} {ch : Chan} {c : CamItem} {k : Nat} {e : EdgeItem}
    (hc : s.tbm.inForce.cam.get ch = some c) (he : (s.tbm.inForce.edges.get ch)[k]? = some e) :
    (s.freshWindows ch)[k]? = some ⟨false, s.windowOpen c e, s.endedAtLock (c.windowEnd e.angle)⟩ := by
  obtain ⟨hk, -⟩ := List.getElem?_eq_some_iff.mp he
  unfold State.freshWindows
  rw [hc]
  dsimp only
  rw [List.getElem?_append_left (by simpa using hk), List.getElem?_map, he]
  rfl

theorem State.windowOpen_iff {s : State} {c : CamItem} {e : EdgeItem} : s.windowOpen c e = true ↔
    ∃ v, s.clockValue = some v ∧ c.contains e.angle v = true ∧ v ≠ c.windowEnd e.angle := by
  unfold State.windowOpen
  cases s.clockValue with
  | none => simp
  | some v => simp

/-- Settles O30: the window's end by the matching flag; the records after lock gained and lost channel by channel. -/
theorem edgeWindowsCloseAndLockClearsMatching : Obligations.EdgeWindowsCloseAndLockClearsMatching := by
  refine ⟨fun s t ch k angle cycle ho => ?_, fun s t => ⟨fun ho => ?_, fun pre post he hp => ?_⟩⟩
  · have hex : exec .ceuEdgeClose s = .next (t.closeWindow ch k cycle) := execCeuEdgeClose_of_offers ch k angle cycle ho
    dsimp only
    rw [hex]
    refine ⟨fun h => ?_, fun h => ?_⟩
    · rw [State.closeWindow_of_not_matching h]
    · rw [State.closeWindow_of_matching h]
      rfl
  · refine ⟨t.ceuLockGained.ceu.chans, ?_, fun ch => ?_⟩
    · have hex : exec .ceuLockGained s = .next t.ceuLockGained := execCeuLockGained_of_offers ho
      rw [hex]
      unfold State.ceuLockGained
      rw [Handover.notEdgeClose_eq]
      rfl
    · have hget : t.ceuLockGained.ceu.chans.get ch = if t.chanBound ch then
          { t.ceu.chans.get ch with
            cycMatches := 0, cycStrays := 0, firstAfterLock := true, windows := t.freshWindows ch }
          else { t.ceu.chans.get ch with cycMatches := 0, cycStrays := 0 } := PerChan.get_map _ _ _
      dsimp only
      rw [hget]
      refine ⟨fun hb => ?_, fun hb => ?_⟩
      · rw [hb]
        rfl
      · rw [hb]
        refine ⟨rfl, fun c k e hc hk => ⟨_, _, State.freshWindows_get hc hk, State.windowOpen_iff, fun hv => ?_,
          fun v hv => ?_⟩⟩
        · rw [State.endedAtLock, hv]
          rfl
        · rw [State.endedAtLock, hv]
          rfl
  · have hex := execCeuLockLost_of_before pre post he fun x hx hl => ?_
    · have he' : exec .ceuLockLost s = execCeuLockLost s := rfl
      rw [he', hex, Handover.notCeuSchedule_eq]
      rfl
    · cases x <;> simp [Handover.lane] at hl
      exact hp _ hx

/-! ### The cycle checks (R67, R68) -/

/-- The no-match run after a full cycle. -/
def CeuChan.noMatchAfter (r : CeuChan) : Nat := if r.cycMatches = 0 then bump 255 r.noMatchRun else 0

/-- The stray run after a full cycle. -/
def CeuChan.straysAfter (r : CeuChan) : Nat := if 2 ≤ r.cycStrays then bump 255 r.strayRun else 0

/-- The no-match run has reached the limit. -/
def CeuChan.missing (r : CeuChan) : Bool := decide (3 ≤ r.noMatchAfter)

/-- The cycle had strays, and the stray run has reached the limit. -/
def CeuChan.pattern (r : CeuChan) : Bool := decide (4 ≤ r.straysAfter)

/-- The cycle had two strays or more. -/
def CeuChan.strayed (r : CeuChan) : Bool := decide (2 ≤ r.cycStrays)

/-- What a bound channel's record becomes at a full cycle's end. -/
def CeuChan.judged (r : CeuChan) : CeuChan :=
  { r with
    valid := r.valid && r.cycMatches != 0
    cycMatches := 0
    cycStrays := 0
    noMatchRun := r.noMatchAfter
    strayRun := r.straysAfter
    missingReported := r.missingReported || r.missing
    patternReported := r.strayed && (r.patternReported || r.pattern)
    firstAfterLock := false }

/-- What a bound channel's record becomes at a partial cycle's end. -/
def CeuChan.cleared (r : CeuChan) : CeuChan :=
  { r with valid := r.valid && r.cycMatches != 0, cycMatches := 0, cycStrays := 0 }

/-- What a full cycle's end reports of a channel. -/
def CeuChan.cycleNews (r : CeuChan) (ch : Chan) : List Handover :=
  (if r.missing then [.report .ceu (.camMissing ch) .present] else []) ++
    if r.pattern then [.report .ceu (.camPattern ch) .present]
    else if !r.strayed && (r.patternReported || r.firstAfterLock) then [.report .ceu (.camPattern ch) .gone]
    else []

theorem CeuChan.cycleNews_eq (r : CeuChan) (ch : Chan) : r.cycleNews ch =
    (if 3 ≤ r.noMatchAfter then [.report .ceu (.camMissing ch) .present] else []) ++
      if 4 ≤ r.straysAfter then [.report .ceu (.camPattern ch) .present]
      else if r.cycStrays < 2 ∧ (r.patternReported = true ∨ r.firstAfterLock = true) then
        [.report .ceu (.camPattern ch) .gone]
      else [] := by
  simp [CeuChan.cycleNews, CeuChan.missing, CeuChan.pattern, CeuChan.strayed]

theorem State.checkMatches_eq (s : State) (ch : Chan) : s.checkMatches ch =
    (s.setCeu ch { s.ceu.chans.get ch with
      noMatchRun := (s.ceu.chans.get ch).noMatchAfter
      missingReported := (s.ceu.chans.get ch).missingReported || (s.ceu.chans.get ch).missing }).sends
    (if (s.ceu.chans.get ch).missing then [.report .ceu (.camMissing ch) .present] else []) := by
  unfold State.checkMatches CeuChan.missing CeuChan.noMatchAfter
  dsimp only
  generalize s.ceu.chans.get ch = r
  by_cases hm : r.cycMatches = 0
  · by_cases h3 : 3 ≤ bump 255 r.noMatchRun
    · simp [hm, h3, State.report_eq_sends]
    · simp [hm, h3]
  · simp [hm]

theorem State.checkStrays_eq (s : State) (ch : Chan) : s.checkStrays ch =
    (s.setCeu ch { s.ceu.chans.get ch with
      strayRun := (s.ceu.chans.get ch).straysAfter
      patternReported := (s.ceu.chans.get ch).strayed &&
        ((s.ceu.chans.get ch).patternReported || (s.ceu.chans.get ch).pattern)
      firstAfterLock := false }).sends
    (if (s.ceu.chans.get ch).pattern then [.report .ceu (.camPattern ch) .present]
      else if !(s.ceu.chans.get ch).strayed &&
        ((s.ceu.chans.get ch).patternReported || (s.ceu.chans.get ch).firstAfterLock) then
        [.report .ceu (.camPattern ch) .gone]
      else []) := by
  unfold State.checkStrays CeuChan.pattern CeuChan.strayed CeuChan.straysAfter
  dsimp only
  generalize s.ceu.chans.get ch = r
  by_cases h2 : 2 ≤ r.cycStrays
  · by_cases h4 : 4 ≤ bump 255 r.strayRun
    · simp [h2, h4, State.report_eq_sends]
    · simp [h2, h4]
  · simp [h2, State.report_eq_sends, State.sends_if]

/-- One channel at a cycle's end (R67). -/
def State.cycleChan (s : State) (full : Bool) (ch : Chan) : CeuChan :=
  if s.chanBound ch then
    if full then (s.ceu.chans.get ch).judged else (s.ceu.chans.get ch).cleared
  else s.ceu.chans.get ch

/-- What a cycle's end reports of a channel (R67). -/
def State.cycleNews (s : State) (full : Bool) (ch : Chan) : List Handover :=
  if full && s.chanBound ch then (s.ceu.chans.get ch).cycleNews ch else []

theorem State.chanCycle_eq (full : Bool) (s : State) (ch : Chan) :
    s.chanCycle full ch = (s.setCeu ch (s.cycleChan full ch)).sends (s.cycleNews full ch) := by
  have hsame : s.setCeu ch (s.ceu.chans.get ch) = s := by simp only [State.setCeu, PerChan.set_get]
  unfold State.chanCycle State.cycleChan State.cycleNews
  cases hb : s.chanBound ch
  · simp [hsame]
  · cases full
    · simp [State.updCeu, State.setCeu_setCeu, CeuChan.cleared]
    · simp only [State.updCeu, State.checkMatches_eq, State.checkStrays_eq, State.sends_setCeu, State.setCeu_setCeu,
        State.setCeu_get, State.sends_ceu, State.sends_sends, CeuChan.judged, CeuChan.cycleNews, Bool.not_true,
        Bool.true_and, if_true, Bool.false_eq_true, if_false]
      rfl

/-- All four channels at a cycle's end: each from its own record. -/
theorem forEach_chanCycle (full : Bool) (s : State) : forEach allChans (State.chanCycle full) s = State.sends
    { s with ceu := { s.ceu with chans := s.ceu.chans.map fun ch _ => s.cycleChan full ch } }
    (allChans.flatMap (s.cycleNews full)) := by
  calc forEach allChans (State.chanCycle full) s
      = (((s.chanCycle full .IN1).chanCycle full .EX1).chanCycle full .IN2).chanCycle full .EX2 := rfl
    _ = State.sends
        { s with ceu := { s.ceu with chans := s.ceu.chans.map fun ch _ => s.cycleChan full ch } }
        (s.cycleNews full .IN1 ++ (s.cycleNews full .EX1 ++ (s.cycleNews full .IN2 ++ s.cycleNews full .EX2))) := by
      simp only [State.chanCycle_eq]
      simp only [State.setCeu, State.sends, List.append_assoc]
      rfl
    _ = _ := by simp [allChans]

/-- Settles O31: with matching set the four channels by `State.chanCycle_eq`. -/
theorem cycleStartJudgesTheChannels : Obligations.CycleStartJudgesTheChannels := by
  intro s t angle cycle ho
  have hex : exec .ceuCycleStart s = .next t.ceuCycleStart := execCeuCycleStart_of_offers angle cycle ho
  refine ⟨fun h => ?_, fun h => ?_⟩
  · rw [hex, State.ceuCycleStart, h]
    rfl
  · dsimp only
    refine ⟨t.ceu.chans.map fun ch _ => t.cycleChan (!t.ceu.partialCycle) ch, ?_, fun ch => ?_⟩
    · rw [hex, State.ceuCycleStart, if_pos h]
      have hfields : t.ceuCycle = State.sends
          { t with ceu := { t.ceu with
            chans := t.ceu.chans.map fun ch _ => t.cycleChan (!t.ceu.partialCycle) ch, partialCycle := false } }
          (allChans.flatMap (t.cycleNews (!t.ceu.partialCycle))) := by
        dsimp only [State.ceuCycle]
        rw [forEach_chanCycle]
        rfl
      have hstate : ({ t with ceu := { t.ceu with
            chans := t.ceu.chans.map fun ch _ => t.cycleChan (!t.ceu.partialCycle) ch, partialCycle := false } } : State) =
          { t with ceu := ⟨t.ceu.chans.map fun ch _ => t.cycleChan (!t.ceu.partialCycle) ch, true, false, t.ceu.refSeen,
            t.ceu.reportSent, t.ceu.stamps⟩ } := by
        dsimp only
        rw [h]
      rw [hfields, hstate]
      refine congrArg (fun l => Host.Outcome.next (State.sends _ l)) (List.flatMap_congr fun ch _ => ?_)
      simp only [State.cycleNews, CeuChan.cycleNews_eq]
      rfl
    · rw [PerChan.get_map, State.cycleChan]
      refine ⟨fun hb => ?_, fun hb hf => ?_, fun hb hf => ?_⟩
      · rw [hb]
        rfl
      · rw [hb, hf]
        rfl
      · rw [hb, hf]
        rfl

end Sys2Proof.Machine
end

section
/-! Proofs about the taking of a cam edge (R38, R59 to R64, R70): the angle and the cycle that its time stamp gives, what
the reference look makes of it, and whether it is a match or a stray. -/

namespace Sys2Proof.Machine

/-! ### The angle and the cycle of a time stamp (R38, R60) -/

section
variable {s : State} {c : AngleClock} {t : Word32}

theorem State.angleAt_of_latest (hc : s.ckt.clock = some c) (h : s.since t ≤ s.since c.anchor.time) :
    s.angleAt t = some ((c.anchor.angle + c.anchor.advance t) % s.clockCircle) := by
  simp [State.angleAt, hc, h]

theorem State.angleAt_of_first (hc : s.ckt.clock = some c) (h : s.since c.anchor.time < s.since t)
    (hp : c.previous = none) : s.angleAt t = some c.anchor.angle := by
  simp [State.angleAt, hc, Nat.not_le.mpr h, hp]

theorem State.angleAt_of_previous (hc : s.ckt.clock = some c) (h : s.since c.anchor.time < s.since t) {p : Anchor}
    (hp : c.previous = some p) : s.angleAt t =
      some (if s.since t ≤ s.since p.time then (p.angle + p.advance t) % s.clockCircle else p.angle) := by
  simp [State.angleAt, hc, Nat.not_le.mpr h, hp]

/-- The passages of angle 0 that an angle counted on past the circle stands for. -/
def State.passages (s : State) (a : Nat) : Word32 := BitVec.ofNat 32 (a / s.clockCircle)

theorem State.cycleAt_of_latest (hc : s.ckt.clock = some c) (h : s.since t ≤ s.since c.anchor.time) : s.cycleAt t =
    some (s.ckt.cycles - s.passages (c.anchor.angle + c.reached) + s.passages (c.anchor.angle + c.anchor.advance t)) := by
  simp [State.cycleAt, hc, h, State.passages]

theorem State.cycleAt_of_first (hc : s.ckt.clock = some c) (h : s.since c.anchor.time < s.since t)
    (hp : c.previous = none) : s.cycleAt t = some (s.ckt.cycles - s.passages (c.anchor.angle + c.reached)) := by
  simp [State.cycleAt, hc, Nat.not_le.mpr h, hp, State.passages]

theorem State.cycleAt_of_previous (hc : s.ckt.clock = some c) (h : s.since c.anchor.time < s.since t) {p : Anchor}
    (hp : c.previous = some p) : s.cycleAt t =
      some (if s.since t ≤ s.since p.time then
        s.ckt.cycles - s.passages (c.anchor.angle + c.reached) - s.passages (p.angle + p.span) +
          s.passages (p.angle + p.advance t)
      else s.ckt.cycles - s.passages (c.anchor.angle + c.reached) - s.passages (p.angle + p.span)) := by
  simp [State.cycleAt, hc, Nat.not_le.mpr h, hp, State.passages]

end

/-! ### The reference look (R70) -/

/-- An edge at angle `a` of channel `ch` is one that the reference look sees. -/
def State.seesReference (s : State) (ch : Chan) (a : Nat) (pol : Polarity) : Bool :=
  match s.tbm.inForce.reference, s.clockValue with
  | some (r, c, e), some v =>
    r == ch && (e.pol == pol && decide (forward revAu (c.windowStart e.angle % revAu) (a % revAu) ≤ c.width) &&
      !(s.ceu.reportSent && passedEnd revAu a (c.windowEnd e.angle % revAu) (v % revAu)))
  | _, _ => false

theorem State.seesReference_iff {s : State} {ch : Chan} {a : Nat} {pol : Polarity} :
    s.seesReference ch a pol = true ↔ ∃ (c : CamItem) (e : EdgeItem) (v : Nat),
      s.tbm.inForce.reference = some (ch, c, e) ∧ s.clockValue = some v ∧
      e.pol = pol ∧ forward revAu (c.windowStart e.angle % revAu) (a % revAu) ≤ c.width ∧
      (s.ceu.reportSent = false ∨ passedEnd revAu a (c.windowEnd e.angle % revAu) (v % revAu) = false) := by
  unfold State.seesReference
  rcases s.tbm.inForce.reference with _ | ⟨r, c, e⟩
  · simp
  · cases s.clockValue with
    | none => simp
    | some v =>
      simp only [Bool.and_eq_true, beq_iff_eq, decide_eq_true_eq, Bool.not_eq_eq_eq_not, Bool.not_true,
        Bool.and_eq_false_iff, Option.some.injEq, Prod.mk.injEq]
      constructor
      · rintro ⟨rfl, ⟨hp, hw⟩, hl⟩
        exact ⟨c, e, v, ⟨rfl, rfl, rfl⟩, rfl, hp, hw, hl⟩
      · rintro ⟨c', e', v', ⟨rfl, rfl, rfl⟩, rfl, hp, hw, hl⟩
        exact ⟨rfl, ⟨hp, hw⟩, hl⟩

/-- The state after the reference look. -/
def State.looked (s : State) (ch : Chan) (a : Nat) (pol : Polarity) : State :=
  { s with ceu := { s.ceu with refSeen := s.ceu.refSeen || s.seesReference ch a pol } }

theorem State.looked_eq (s : State) (ch : Chan) (a : Nat) (pol : Polarity) :
    (if s.isReference ch then s.look a pol else s) = s.looked ch a pol := by
  unfold State.isReference State.look State.looked State.seesReference
  rcases s.tbm.inForce.reference with _ | ⟨r, c, e⟩
  · simp
  · cases s.clockValue with
    | none => simp
    | some v =>
      dsimp only
      by_cases hr : (r == ch) = true
      · by_cases hs : (e.pol == pol && decide (forward revAu (c.windowStart e.angle % revAu) (a % revAu) ≤ c.width) &&
          !(s.ceu.reportSent && passedEnd revAu a (c.windowEnd e.angle % revAu) (v % revAu))) = true
        · rw [if_pos hr, if_pos hs, hr, hs]
          simp
        · rw [if_pos hr, if_neg hs, hr, Bool.not_eq_true _ |>.mp hs]
          simp
      · rw [if_neg hr, Bool.not_eq_true _ |>.mp hr]
        simp

/-! ### Matches and strays (R60 to R64) -/

theorem windowOf_contains {c : CamItem} {a k j : Nat} {l : List EdgeItem} {e : EdgeItem}
    (h : windowOf c a k l = some (j, e)) : c.contains e.angle a = true := by
  induction l generalizing k with
  | nil => cases h
  | cons x l ih =>
    by_cases hx : c.contains x.angle a = true
    · rw [windowOf, if_pos hx] at h
      obtain ⟨-, rfl⟩ := Prod.mk.inj (Option.some.inj h)
      exact hx
    · rw [windowOf, if_neg hx] at h
      exact ih h

/-- The phase of an edge inside the window is the distance from its nominal angle, round the cycle (R62). -/
theorem CamItem.phase_spec {c : CamItem} {n a : Nat} (h : c.contains n a = true) :
    -(c.halfWidth : Int) ≤ c.phase n a ∧ c.phase n a ≤ c.range + c.halfWidth ∧
    (c.dir = .adv → (11520 : Int) ∣ n - a - c.phase n a) ∧ (c.dir = .ret → (11520 : Int) ∣ a - n - c.phase n a) := by
  have hle : forward cycleAu (c.windowStart n) a ≤ c.width := of_decide_eq_true h
  unfold CamItem.phase
  unfold CamItem.width at hle
  dsimp only
  cases hd : c.dir
  · simp only [CamItem.windowStart, hd, forward, earlier, cycleAu] at hle ⊢
    exact ⟨by omega, by omega, fun _ => by omega, nofun⟩
  · simp only [CamItem.windowStart, hd, forward, earlier, cycleAu] at hle ⊢
    exact ⟨by omega, by omega, nofun, fun _ => by omega⟩

theorem State.takeMatch_eq (s : State) (ch : Chan) (k : Nat) (phase : Int) (stamp : Word32) (rec : EdgeRecord) :
    s.takeMatch ch k phase stamp rec = State.sends
      (s.setCeu ch { s.ceu.chans.get ch with
        windows := (s.ceu.chans.get ch).windows.set (k - 1)
          ⟨true, ((s.ceu.chans.get ch).window k).opened, ((s.ceu.chans.get ch).window k).ended⟩
        cycMatches := bump 255 (s.ceu.chans.get ch).cycMatches
        phase := phase
        valid := true
        missingReported := false
        firstAfterLock := false })
      ((if (s.ceu.chans.get ch).missingReported || (s.ceu.chans.get ch).firstAfterLock then
          [.report .ceu (.camMissing ch) .gone] else []) ++
        [.phcMatch ch k phase stamp s.ckt.cycles, .trbEdge rec]) := by
  unfold State.takeMatch
  dsimp only
  rw [State.hand_eq_sends, State.hand_eq_sends, State.sends_sends, State.report_eq_sends, State.sends_if,
    State.sends_sends]
  rfl

theorem State.takeStray_eq (s : State) (ch : Chan) (rec : EdgeRecord) : s.takeStray ch rec = State.sends
    (s.setCeu ch { s.ceu.chans.get ch with cycStrays := bump 255 (s.ceu.chans.get ch).cycStrays }) [.trbEdge rec] := rfl

section
variable {s : State} {ch : Chan} {c : CamItem} {a : Nat} {pol : Polarity} {stamp : Word32}

theorem State.edgeLate_iff_exists {k we : Nat} : s.edgeLate ch k a we stamp = true ↔
    ∃ n, s.cycleAt stamp = some n ∧ ((s.ceu.chans.get ch).window k).ended = some (if a ≤ we then n else n + 1) := by
  unfold State.edgeLate
  cases s.cycleAt stamp with
  | none => simp
  | some n => simp [closingCycle]

theorem State.classifyEdge_of_match {k : Nat} {e : EdgeItem}
    (hw : windowOf c a 1 (s.tbm.inForce.edges.get ch) = some (k, e)) (hp : e.pol = pol)
    (hm : ((s.ceu.chans.get ch).window k).matched = false)
    (hl : ¬ s.edgeLate ch k a (c.windowEnd e.angle) stamp = true) :
    s.classifyEdge ch c a pol stamp = some (k, e) := by
  simp [State.classifyEdge, hw, hp, hm, hl]

theorem State.classifyEdge_of_stray
    (h : ∀ k e, windowOf c a 1 (s.tbm.inForce.edges.get ch) = some (k, e) → e.pol ≠ pol ∨
      ((s.ceu.chans.get ch).window k).matched = true ∨ s.edgeLate ch k a (c.windowEnd e.angle) stamp = true) :
    s.classifyEdge ch c a pol stamp = none := by
  unfold State.classifyEdge
  cases hw : windowOf c a 1 (s.tbm.inForce.edges.get ch) with
  | none => rfl
  | some ke =>
    obtain ⟨k, e⟩ := ke
    rcases h k e hw with h | h | h <;> simp [h]

theorem State.placeEdge_of_match {k : Nat} {e : EdgeItem} {i : LineABCD} (hc : s.tbm.inForce.cam.get ch = some c)
    (h : s.classifyEdge ch c a pol stamp = some (k, e)) : s.placeEdge ch i pol a stamp =
      s.takeMatch ch k (c.phase e.angle a) stamp ⟨i, pol, a, some (k, c.phase e.angle a)⟩ := by
  unfold State.placeEdge
  rw [hc]
  dsimp only
  rw [h]

theorem State.placeEdge_of_stray {i : LineABCD} (hc : s.tbm.inForce.cam.get ch = some c)
    (h : s.classifyEdge ch c a pol stamp = none) :
    s.placeEdge ch i pol a stamp = s.takeStray ch ⟨i, pol, a, none⟩ := by
  unfold State.placeEdge
  rw [hc]
  dsimp only
  rw [h]

theorem State.takeCamEdge_of_none {i : LineABCD} (h : s.chanOfInput i = none ∨ s.inRun = false ∨ s.ckt.clock = none) :
    s.takeCamEdge i pol stamp = s := by
  unfold State.takeCamEdge
  rcases h with h | h | h
  · rw [h]
  · rw [h]
    cases s.chanOfInput i <;> rfl
  · have ha : s.angleAt stamp = none := by simp [State.angleAt, h]
    rw [ha]
    cases s.chanOfInput i <;> cases s.inRun <;> rfl

theorem State.takeCamEdge_of_some {i : LineABCD} (h : s.chanOfInput i = some ch) (hr : s.inRun = true)
    (ha : s.angleAt stamp = some a) : s.takeCamEdge i pol stamp =
      if s.ceu.matching then (s.looked ch a pol).placeEdge ch i pol a stamp else s.looked ch a pol := by
  unfold State.takeCamEdge
  rw [h, hr, ha]
  dsimp only
  rw [State.looked_eq]
  rfl

end

/-- The part as CAM_EDGE has noted the edge's time stamp. -/
def State.stamped (s : State) (dt : Nat) (i : LineABCD) (at_ : Time) : State :=
  { s with now := s.now + dt, ceu := { s.ceu with stamps := s.ceu.stamps.set i at_ } }

theorem exec_camEdge (s : State) (dt age : Nat) (i : LineABCD) (pol : Polarity) : exec (.camEdge dt age i pol) s =
    if s.now + dt - age < s.ceu.stamps.get i then .next (s.pass dt)
    else .next ((s.stamped dt i (s.now + dt - age)).takeCamEdge i pol (BitVec.ofNat 32 (s.now + dt - age))) := rfl

/-- Settles O29: the reading of a time stamp by its age; an edge by the rows of R59, its look, then its window. -/
theorem camEdgesAreMatchesOrStrays : Obligations.CamEdgesAreMatchesOrStrays := by
  refine ⟨fun s t => ⟨fun hc => ?_, fun c hc => ⟨fun h => ?_, fun h => ⟨fun hp => ?_, fun p hp => ⟨fun h' => ?_,
    fun h' => ?_⟩⟩⟩⟩, fun s dt age i pol => ⟨fun h => ?_, fun h => ⟨fun hn => ?_, fun ch a hch hr ha => ?_⟩⟩⟩
  · simp [State.angleAt, State.cycleAt, hc]
  · rw [State.angleAt_of_latest hc h, State.cycleAt_of_latest hc h]
    exact ⟨rfl, rfl⟩
  · rw [State.angleAt_of_first hc h hp, State.cycleAt_of_first hc h hp]
    exact ⟨rfl, rfl⟩
  · have hold : s.since t ≤ s.since p.time := h'
    rw [State.angleAt_of_previous hc h hp, State.cycleAt_of_previous hc h hp, if_pos hold, if_pos hold]
    exact ⟨rfl, rfl⟩
  · have hold : ¬ s.since t ≤ s.since p.time := Nat.not_le.mpr h'
    rw [State.angleAt_of_previous hc h hp, State.cycleAt_of_previous hc h hp, if_neg hold, if_neg hold]
    exact ⟨rfl, rfl⟩
  · rw [exec_camEdge, if_pos h]
    rfl
  · rw [exec_camEdge, if_neg (Nat.not_lt.mpr h), State.takeCamEdge_of_none (s := s.stamped dt i _) hn]
    rfl
  · have hex := exec_camEdge s dt age i pol
    rw [if_neg (Nat.not_lt.mpr h), State.takeCamEdge_of_some (s := s.stamped dt i _) hch hr ha] at hex
    refine ⟨s.ceu.refSeen || s.seesReference ch a pol, ?_, fun hm => ?_, fun c hm hc => ⟨fun k e hw hp hmatched hl => ?_,
      fun hs => ?_⟩⟩
    · rw [Bool.or_eq_true, State.seesReference_iff]
      exact Iff.rfl
    · have hm' : ¬ (s.stamped dt i (s.now + dt - age)).ceu.matching = true := by rw [← Bool.not_eq_true] at hm; exact hm
      rw [hex, if_neg hm']
      rfl
    · have hm' : (s.stamped dt i (s.now + dt - age)).ceu.matching = true := hm
      have hlate : ¬ ((s.stamped dt i (s.now + dt - age)).looked ch a pol).edgeLate ch k a (c.windowEnd e.angle)
          (BitVec.ofNat 32 (s.now + dt - age)) = true := by
        rw [State.edgeLate_iff_exists]
        exact hl
      obtain ⟨hlo, hhi, hadv, hret⟩ := CamItem.phase_spec (windowOf_contains hw)
      refine ⟨c.phase e.angle a, hlo, hhi, hadv, hret, ?_⟩
      rw [hex, if_pos hm', State.placeEdge_of_match (s := (s.stamped dt i _).looked ch a pol) hc
        (State.classifyEdge_of_match (s := (s.stamped dt i _).looked ch a pol) hw hp hmatched hlate), State.takeMatch_eq]
      rfl
    · have hm' : (s.stamped dt i (s.now + dt - age)).ceu.matching = true := hm
      have hstray (k : Nat) (e : EdgeItem)
          (hw : windowOf c a 1 (s.tbm.inForce.edges.get ch) = some (k, e)) : e.pol ≠ pol ∨
          ((s.ceu.chans.get ch).window k).matched = true ∨ ((s.stamped dt i (s.now + dt - age)).looked ch a pol).edgeLate
            ch k a (c.windowEnd e.angle) (BitVec.ofNat 32 (s.now + dt - age)) = true := by
        rw [State.edgeLate_iff_exists]
        exact hs k e hw
      rw [hex, if_pos hm', State.placeEdge_of_stray (s := (s.stamped dt i _).looked ch a pol) hc
        (State.classifyEdge_of_stray (s := (s.stamped dt i _).looked ch a pol) hstray), State.takeStray_eq]
      rfl

end Sys2Proof.Machine
end

section
/-! Proofs about the Phaser Controllers' changes of state (R75 to R77, R79, R82, R85, R89, R90, R93): what a change of
state sends, and what each entry makes of the channel's record. -/

namespace Sys2Proof.Machine

/-! ### One channel's record -/

/-- `s` with the channel's record set to `x` and `l` sent. -/
def State.putChan (s : State) (ch : Chan) (x : ChanRec) (l : List Handover) : State :=
  State.sends { s with phc := { s.phc with chans := s.phc.chans.set ch x } } l

section
variable (s : State) (ch : Chan) (x y : ChanRec) (l m : List Handover)

theorem State.setChan_eq_putChan : s.setChan ch x = s.putChan ch x [] := by
  simp [State.putChan, State.setChan]

theorem State.updChan_eq_putChan (f : ChanRec → ChanRec) :
    s.updChan ch f = s.putChan ch (f (s.phc.chans.get ch)) [] := State.setChan_eq_putChan _ _ _

theorem State.putChan_putChan : (s.putChan ch x l).putChan ch y m = s.putChan ch y (l ++ m) := by
  simp only [State.putChan, State.sends, PerChan.set_set, List.append_assoc]

theorem State.putChan_get : (s.putChan ch x l).phc.chans.get ch = x := PerChan.get_set_same _ _ _

theorem State.sends_putChan : (s.sends l).putChan ch x m = s.putChan ch x (l ++ m) := by
  simp only [State.putChan, State.sends, List.append_assoc]

theorem State.putChan_sends : (s.putChan ch x l).sends m = s.putChan ch x (l ++ m) := by
  simp only [State.putChan, State.sends_sends]

theorem State.putChan_chanNews (new old : ChanState) (cause : ChanCause) (holds : Option HoldCauses) :
    (s.putChan ch x l).chanNews ch new old cause holds = s.chanNews ch new old cause holds := rfl

theorem State.putChan_dutyNews (duty : Nat) (immediate : Bool) :
    (s.putChan ch x l).dutyNews ch duty immediate = s.dutyNews ch duty immediate := rfl

end

/-! ### Changes of state (R75) -/

theorem State.sends_chanDriver (s : State) (l : List Handover) (ch : Chan) :
    (s.sends l).chanDriver ch = s.chanDriver ch := rfl

theorem State.afterChange_eq (s : State) (ch : Chan) (old : ChanState) (cause : ChanCause) :
    s.afterChange ch old cause = s.sends (s.chanNews ch (s.phc.chans.get ch).state old cause
      (if (s.phc.chans.get ch).state = .holding then some (s.phc.chans.get ch).holds else none)) := by
  have hlock (p q : Bool) : (p != q) = true ↔ ¬ (p = true ↔ q = true) := by cases p <;> cases q <;> decide
  unfold State.afterChange State.chanNews
  dsimp only
  simp only [hlock, beq_iff_eq]
  cases hd : s.chanDriver ch with
  | none =>
    simp only [State.notice_eq_sends, State.hand_eq_sends, State.sends_sends, State.sends_chanDriver, hd]
    split_ifs <;> simp
  | some o =>
    simp only [State.notice_eq_sends, State.hand_eq_sends, State.sends_sends, State.sends_chanDriver, hd]
    split_ifs <;> simp

theorem State.enter_eq (s : State) (ch : Chan) (new : ChanState) (cause : ChanCause) : s.enter ch new cause =
    s.putChan ch { s.phc.chans.get ch with state := new }
      (s.chanNews ch new (s.phc.chans.get ch).state cause
        (if new = .holding then some (s.phc.chans.get ch).holds else none)) := by
  dsimp only [State.enter]
  rw [State.afterChange_eq, State.updChan_eq_putChan, State.putChan_get, State.putChan_sends]
  rfl

theorem State.writeDuty_eq (s : State) (ch : Chan) (duty : Nat) (immediate : Bool) : s.writeDuty ch duty immediate =
    s.putChan ch { s.phc.chans.get ch with duty := duty } (s.dutyNews ch duty immediate) := by
  have hdriver : (s.updChan ch fun r => { r with duty := duty }).chanDriver ch = s.chanDriver ch := rfl
  unfold State.writeDuty State.dutyNews
  dsimp only
  rw [hdriver]
  cases s.chanDriver ch <;> simp [State.updChan_eq_putChan, State.hand_eq_sends, State.putChan_sends]

/-! ### The entries (R76, R77, R82, R85, R89, R90, R93) -/

section
variable (s : State) (ch : Chan) (cause : ChanCause)

theorem State.park_eq : s.park ch cause = s.putChan ch
    { s.phc.chans.get ch with
      state := .parking, duty := 0, holds := .empty, stuck := { (s.phc.chans.get ch).stuck with watching := false }
      parkCount := 0, timer := some (.park, s.now + ms (s.tune ch).parkMs) }
    (s.dutyNews ch 0 true ++ s.chanNews ch .parking (s.phc.chans.get ch).state cause none) := by
  dsimp only [State.park]
  simp only [State.enter_eq, State.updChan_eq_putChan, State.writeDuty_eq, State.putChan_putChan, State.putChan_get,
    State.putChan_chanNews, ChanRec.idle, List.append_nil]
  rfl

theorem State.faulted_eq : s.faulted ch = s.putChan ch
    { s.phc.chans.get ch with
      state := .faulted, duty := 0, holds := .empty, stuck := { (s.phc.chans.get ch).stuck with watching := false }
      parkCount := 0, timer := none }
    (s.dutyNews ch 0 true ++ s.chanNews ch .faulted (s.phc.chans.get ch).state .driver none) := by
  dsimp only [State.faulted]
  simp only [State.enter_eq, State.updChan_eq_putChan, State.writeDuty_eq, State.putChan_putChan, State.putChan_get,
    State.putChan_chanNews, ChanRec.idle, List.append_nil]
  rfl

theorem State.lockOut_eq : s.lockOut ch = s.putChan ch
    { s.phc.chans.get ch with state := .lockout, duty := 0, parkCount := 0, timer := none }
    (s.dutyNews ch 0 true ++ s.chanNews ch .lockout (s.phc.chans.get ch).state .double none) := by
  dsimp only [State.lockOut]
  simp only [State.enter_eq, State.updChan_eq_putChan, State.writeDuty_eq, State.putChan_putChan, State.putChan_get,
    State.putChan_chanNews, List.append_nil]
  rfl

theorem State.release_eq : s.release ch = s.putChan ch
    { s.phc.chans.get ch with
      state := .releasing, duty := (s.tune ch).releaseDuty, integral := 0, inBand := 0
      timer := some (.release, s.now + ms (s.tune ch).releaseMs) }
    (s.dutyNews ch (s.tune ch).releaseDuty false ++
      s.chanNews ch .releasing (s.phc.chans.get ch).state .release none) := by
  dsimp only [State.release]
  simp only [State.enter_eq, State.updChan_eq_putChan, State.writeDuty_eq, State.putChan_putChan, State.putChan_get,
    State.putChan_chanNews, State.putChan_dutyNews, List.nil_append]
  rfl

theorem State.hold_eq (c : HoldCause) : s.hold ch c = s.putChan ch
    { s.phc.chans.get ch with
      state := .holding, duty := (s.phc.chans.get ch).learned, holds := HoldCauses.empty.put c true
      stuck := { (s.phc.chans.get ch).stuck with watching := false }
      timer := s.holdTimer .empty (HoldCauses.empty.put c true) (s.phc.chans.get ch).timer }
    (s.dutyNews ch (s.phc.chans.get ch).learned false ++
      s.chanNews ch .holding (s.phc.chans.get ch).state .hold (some (HoldCauses.empty.put c true))) := by
  dsimp only [State.hold]
  simp only [State.enter_eq, State.updChan_eq_putChan, State.writeDuty_eq, State.putChan_putChan, State.putChan_get,
    State.putChan_chanNews, State.putChan_dutyNews, List.nil_append, ChanRec.idle, if_true]

/-- The channel in TRACKING, before a response in force of HOLD is acted on. -/
def State.tracked : State := s.putChan ch
  { s.phc.chans.get ch with
    state := .tracking, duty := (s.phc.chans.get ch).learned, holds := .empty, timer := none, inBand := 0
    stuck := { (s.phc.chans.get ch).stuck with watching := false, reference := (s.ceu.chans.get ch).phase } }
  (s.dutyNews ch (s.phc.chans.get ch).learned false ++
    s.chanNews ch .tracking (s.phc.chans.get ch).state cause none)

theorem State.track_eq : s.track ch cause =
    if s.fmg.chanResponse.get ch = .hold then (s.tracked ch cause).hold ch .response else s.tracked ch cause := by
  have htracked : (let q := s.writeDuty ch (s.phc.chans.get ch).learned false
      (q.updChan ch fun r => { r.idleAt (q.phase ch) with holds := .empty, timer := none, inBand := 0 }).enter ch
        .tracking cause) = s.tracked ch cause := by
    dsimp only
    simp only [State.enter_eq, State.updChan_eq_putChan, State.writeDuty_eq, State.putChan_putChan, State.putChan_get,
      State.putChan_chanNews, List.append_nil, ChanRec.idleAt]
    rfl
  have hstate : ((s.tracked ch cause).phc.chans.get ch).state = .tracking := by
    rw [State.tracked, State.putChan_get]
  have hadd : (s.tracked ch cause).addHold ch .response = (s.tracked ch cause).hold ch .response := by
    dsimp only [State.addHold]
    rw [hstate]
  calc s.track ch cause = (s.tracked ch cause).holdForResponse ch := by rw [← htracked]; rfl
    _ = _ := by
      rw [State.holdForResponse, hadd]
      rfl

theorem State.endTest_of_driveTest {s : State} {ch : Chan} (h : (s.phc.chans.get ch).state = .driveTest)
    (cause : ChanCause) : s.endTest ch cause = s.putChan ch
      { s.phc.chans.get ch with state := .parked, duty := 0, timer := none }
      (s.dutyNews ch 0 true ++ s.chanNews ch .parked .driveTest cause none) := by
  unfold State.endTest
  rw [if_pos h]
  simp only [State.enter_eq, State.updChan_eq_putChan, State.writeDuty_eq, State.putChan_putChan, State.putChan_get,
    State.putChan_chanNews, List.append_nil, h]
  rfl

theorem State.endTest_of_ne {s : State} {ch : Chan} (h : (s.phc.chans.get ch).state ≠ .driveTest)
    (cause : ChanCause) : s.endTest ch cause = s := if_neg h

end

/-- Settles O32: each entry is its equation. -/
theorem channelEntriesSetTheRecord : Obligations.ChannelEntriesSetTheRecord := by
  intro s ch cause
  refine ⟨s.park_eq ch cause, s.faulted_eq ch, s.lockOut_eq ch, s.release_eq ch, fun c => ?_, fun h => ?_, fun h => ?_,
    fun h => State.endTest_of_driveTest h cause, fun h => State.endTest_of_ne h cause⟩
  · rw [State.hold_eq]
    cases c <;> rfl
  · rw [State.track_eq, if_neg h]
    rfl
  · rw [State.track_eq, if_pos h]
    rfl

end Sys2Proof.Machine
end

section
/-! Proofs about what moves a channel (R76 to R90): the release conditions, matches and the control step, hold causes,
losses and timers. -/

namespace Sys2Proof.Machine

/-! ### Leaving park (R76, R77) -/

section
variable (s : State) (ch : Chan)

/-- The part is in RUN and cycle-locked. -/
def State.locked : Prop := s.smc.mode = .run ∧ s.ckt.state = .cycleLocked

/-- The presented target of the channel lies beyond its parking tolerance. -/
def State.beyond : Prop := (s.tbm.tuning.chan.get ch).parkTol < (s.phc.chans.get ch).presented

/-- No unit of the channel claims it. -/
def State.unclaimed : Prop := ∀ u, intake u = ch → (s.lfs.units.get u).claim = false

theorem State.inRun_and_locked : (s.inRun && s.ckt.state == .cycleLocked) = true ↔ s.locked := by
  simp [State.inRun, State.locked]

theorem State.targetBeyond_iff : s.targetBeyond ch = true ↔ s.beyond ch := decide_eq_true_iff

theorem State.claimStands_eq_false_iff : s.claimStands ch = false ↔ s.unclaimed ch := by
  have hall (u : LiftUnit) : u ∈ allUnits := by cases u <;> decide
  simp only [State.claimStands, State.unclaimed, List.any_eq_false, Bool.and_eq_true, beq_iff_eq, not_and,
    Bool.not_eq_true]
  exact ⟨fun h u => h u (hall u), fun h u _ => h u⟩

theorem State.oilForRelease_iff : s.oilForRelease ch = true ↔
    ∃ o, s.tga.record = some o ∧ (s.tbm.tuning.chan.get ch).releaseKpa ≤ o.oilKpa := by
  unfold State.oilForRelease
  cases s.tga.record with
  | none => simp
  | some o =>
    have hle : decide ((s.tune ch).releaseKpa ≤ o.oilKpa) = true ↔
        (s.tbm.tuning.chan.get ch).releaseKpa ≤ o.oilKpa := decide_eq_true_iff
    simpa using hle

theorem State.releaseOk_iff : s.releaseOk ch = true ↔
    s.locked ∧ (s.tbm.tuning.chan.get ch).releaseRpm ≤ s.ckt.rpm ∧
    (∃ o, s.tga.record = some o ∧ (s.tbm.tuning.chan.get ch).releaseKpa ≤ o.oilKpa) ∧
    (s.tga.chans.get ch).source ≠ .park ∧ s.beyond ch ∧ s.fmg.chanResponse.get ch ≠ .park ∧
    s.smc.supplyState ≠ .belowDrive ∧ s.unclaimed ch := by
  have hrpm : decide ((s.tune ch).releaseRpm ≤ s.ckt.rpm) = true ↔
    (s.tbm.tuning.chan.get ch).releaseRpm ≤ s.ckt.rpm := decide_eq_true_iff
  rw [State.releaseOk, Bool.and_eq_true, Bool.and_eq_true, Bool.and_eq_true, Bool.and_eq_true, Bool.and_eq_true,
    Bool.and_eq_true, Bool.and_eq_true, State.inRun_and_locked, hrpm, State.oilForRelease_iff, bne_iff_ne,
    State.targetBeyond_iff, bne_iff_ne, bne_iff_ne, Bool.not_eq_true', State.claimStands_eq_false_iff]
  simp only [and_assoc]

open Classical in
/-- The first release condition that fails, with its cause word (R77). -/
theorem State.releaseLost_eq : s.releaseLost ch =
    if ¬ s.locked then some .lock
    else if s.fmg.chanResponse.get ch = .park then some .response
    else if (s.tga.chans.get ch).source = .park then some .source
    else if ¬ s.beyond ch then some .lost
    else if s.smc.supplyState = .belowDrive then some .supply
    else if ¬ s.unclaimed ch then some .lost
    else none := by
  have hlock : (!s.inRun || s.ckt.state != .cycleLocked) = true ↔ ¬ s.locked := by
    rw [← State.inRun_and_locked, Bool.not_eq_true]
    cases s.inRun <;> simp [bne]
  have hbeyond : (!s.targetBeyond ch) = true ↔ ¬ s.beyond ch := by
    rw [← State.targetBeyond_iff, Bool.not_eq_true, Bool.not_eq_true']
  have hclaim : s.claimStands ch = true ↔ ¬ s.unclaimed ch := by
    rw [← State.claimStands_eq_false_iff, Bool.not_eq_false]
  unfold State.releaseLost
  simp only [hlock, hbeyond, hclaim]

end

section
variable {s : State} {ch : Chan}

theorem State.evaluate_of_parked (h : (s.phc.chans.get ch).state = .parked) :
    s.evaluate ch = if s.releaseOk ch then s.release ch else s := by
  unfold State.evaluate
  rw [h]

theorem State.evaluate_of_releasing (h : (s.phc.chans.get ch).state = .releasing) {cause : ChanCause}
    (hl : s.releaseLost ch = some cause) : s.evaluate ch = s.park ch cause := by
  unfold State.evaluate
  rw [h, hl]

theorem State.evaluate_of_kept (h : (s.phc.chans.get ch).state = .releasing) (hl : s.releaseLost ch = none) :
    s.evaluate ch = s := by
  unfold State.evaluate
  rw [h, hl]

theorem State.evaluate_of_other (hp : (s.phc.chans.get ch).state ≠ .parked)
    (hr : (s.phc.chans.get ch).state ≠ .releasing) : s.evaluate ch = s := by
  unfold State.evaluate
  cases h : (s.phc.chans.get ch).state <;> first | rfl | contradiction

end

/-- Settles O33: in PARKED by the release conditions, in RELEASING by the first that fails. -/
theorem releaseConditionsDecideLeavingPark : Obligations.ReleaseConditionsDecideLeavingPark := by
  intro s ch
  refine ⟨fun h hall => ?_, fun h hall => ?_, fun h => ⟨fun (h1 : ¬ s.locked) => ?_, fun (h1 : s.locked) h2 => ?_,
    fun (h1 : s.locked) h2 h3 => ?_, fun (h1 : s.locked) h2 h3 (h4 : ¬ s.beyond ch) => ?_,
    fun (h1 : s.locked) h2 h3 (h4 : s.beyond ch) h5 => ?_,
    fun (h1 : s.locked) h2 h3 (h4 : s.beyond ch) h5 (h6 : ¬ s.unclaimed ch) => ?_,
    fun (h1 : s.locked) h2 h3 (h4 : s.beyond ch) h5 (h6 : s.unclaimed ch) => ?_⟩, State.evaluate_of_other⟩
  · rw [State.evaluate_of_parked h, if_pos ((s.releaseOk_iff ch).mpr hall)]
  · rw [State.evaluate_of_parked h, if_neg fun hok => hall ((s.releaseOk_iff ch).mp hok)]
  all_goals have hlost := s.releaseLost_eq ch
  · rw [if_pos h1] at hlost
    exact State.evaluate_of_releasing h hlost
  · rw [if_neg (not_not_intro h1), if_pos (not_not.mp h2)] at hlost
    exact State.evaluate_of_releasing h hlost
  · rw [if_neg (not_not_intro h1), if_neg h2, if_pos (not_not.mp h3)] at hlost
    exact State.evaluate_of_releasing h hlost
  · rw [if_neg (not_not_intro h1), if_neg h2, if_neg h3, if_pos h4] at hlost
    exact State.evaluate_of_releasing h hlost
  · rw [if_neg (not_not_intro h1), if_neg h2, if_neg h3, if_neg (not_not_intro h4), if_pos (not_not.mp h5)] at hlost
    exact State.evaluate_of_releasing h hlost
  · rw [if_neg (not_not_intro h1), if_neg h2, if_neg h3, if_neg (not_not_intro h4), if_neg h5, if_pos h6] at hlost
    exact State.evaluate_of_releasing h hlost
  · rw [if_neg (not_not_intro h1), if_neg h2, if_neg h3, if_neg (not_not_intro h4), if_neg h5,
      if_neg (not_not_intro h6)] at hlost
    exact State.evaluate_of_kept h hlost

/-! ### Matches (R78, R86) -/

section
variable (s : State) (ch : Chan)

/-- The presented target after a target step of the channel (R107). -/
def State.stepped : Nat :=
  stepToward (s.tbm.tuning.chan.get ch).slew (s.tga.chans.get ch).output (s.phc.chans.get ch).presented

theorem State.putChan_nil (x : ChanRec) :
    s.putChan ch x [] = { s with phc := { s.phc with chans := s.phc.chans.set ch x } } := State.sends_nil _

theorem State.targetStep_eq :
    s.targetStep ch = s.putChan ch { s.phc.chans.get ch with presented := s.stepped ch } [] :=
  State.updChan_eq_putChan _ _ _

end

theorem exec_phcMatch {s t : State} {ch : Chan} {k : Nat} {phase : Int} {stamp cycle : Word32}
    (h : s.offers (.phcMatch ch k phase stamp cycle) t) : exec (.phcMatch ch) s = .next (t.phcTakesMatch ch cycle) :=
  execPhcMatch_of_offers ch k phase stamp cycle h

section
variable {s : State} {ch : Chan}

/-- A match in HOLDING: a target step, and the measurement is a hold cause no more. -/
theorem State.matchInHolding_eq (h : (s.phc.chans.get ch).state = .holding) :
    (s.targetStep ch).removeHold ch .measure =
      if { (s.phc.chans.get ch).holds with measure := false } = HoldCauses.empty then (s.targetStep ch).track ch .resume
      else s.putChan ch { s.phc.chans.get ch with
        presented := s.stepped ch
        holds := { (s.phc.chans.get ch).holds with measure := false }
        timer := if (s.phc.chans.get ch).holds.supply then (s.phc.chans.get ch).timer else none } [] := by
  have hst : ((s.targetStep ch).phc.chans.get ch).state = .holding := by
    rw [State.targetStep_eq, State.putChan_get]
    exact h
  dsimp only [State.removeHold]
  rw [if_pos hst, State.targetStep_eq, State.putChan_get, State.setChan_eq_putChan, State.putChan_putChan]
  simp only [HoldCauses.put, HoldCauses.timed, Bool.or_false, List.nil_append]

theorem State.parkedFrom_eq (s : State) (ch : Chan) (cause : ChanCause) : s.parkedFrom ch cause = s.putChan ch
    { s.phc.chans.get ch with state := .parked, timer := none, parkCount := 0 }
    (s.chanNews ch .parked (s.phc.chans.get ch).state cause none) := by
  dsimp only [State.parkedFrom]
  simp only [State.enter_eq, State.updChan_eq_putChan, State.putChan_putChan, State.putChan_get,
    State.putChan_chanNews, List.nil_append]
  rfl

theorem State.parkMatch_of_none (h : (s.phc.chans.get ch).timer = none) : s.parkMatch ch = s := by
  unfold State.parkMatch
  dsimp only
  rw [h]

theorem State.parkMatch_of_some (h : (s.phc.chans.get ch).timer ≠ none) : s.parkMatch ch =
    if (s.ceu.chans.get ch).phase ≤ (s.tbm.tuning.chan.get ch).parkTol then
      if (s.phc.chans.get ch).parkCount = 0 then
        s.putChan ch { s.phc.chans.get ch with parkCount := 1 } []
      else s.parkedFrom ch .settled
    else s.putChan ch { s.phc.chans.get ch with parkCount := 0 } [] := by
  obtain ⟨x, hx⟩ := Option.ne_none_iff_exists'.mp h
  unfold State.parkMatch
  dsimp only
  rw [hx]
  by_cases hc : (s.phc.chans.get ch).parkCount = 0
  · simp only [hc, State.setChan_eq_putChan]
    rfl
  · have h2 : 2 ≤ (s.phc.chans.get ch).parkCount + 1 := by omega
    simp only [hc, h2, State.setChan_eq_putChan, if_true, if_false]
    rfl

end

/-! ### The control step (R79 to R81) -/

theorem nextIntegral_eq (t : ChanTune) (integral e : Int) :
    nextIntegral t integral e = max (-(t.ilim : Int)) (min t.ilim (integral + (t.ki * e).tdiv 256)) := by
  unfold nextIntegral clampInt
  generalize integral + (t.ki * e).tdiv 256 = x
  split_ifs <;> omega

theorem stepDuty_eq (t : ChanTune) (learned : Nat) (integral e : Int) : stepDuty t learned integral e =
    (if (learned : Int) + (t.kp * e).tdiv 16 + integral < t.dmin then t.dmin
      else if t.dmax < (learned : Int) + (t.kp * e).tdiv 16 + integral then t.dmax
      else ((learned : Int) + (t.kp * e).tdiv 16 + integral).toNat) := by
  unfold stepDuty clampInt
  generalize (learned : Int) + (t.kp * e).tdiv 16 + integral = x
  split_ifs <;> rfl

theorem stepToward_one (d l : Nat) :
    stepToward 1 d l = if l < d then l + 1 else if d < l then l - 1 else l := by
  unfold stepToward
  split_ifs <;> omega

theorem ChanRec.learn_eq (r : ChanRec) (deadband : Nat) (e : Int) (duty : Nat) : r.learn deadband e duty = { r with
    inBand := if e.natAbs ≤ deadband ∧ r.inBand + 1 < 8 then r.inBand + 1 else 0
    learned := if e.natAbs ≤ deadband ∧ 8 ≤ r.inBand + 1 then
      (if r.learned < duty then r.learned + 1 else if duty < r.learned then r.learned - 1 else r.learned)
      else r.learned } := by
  unfold ChanRec.learn
  by_cases hn : e.natAbs ≤ deadband
  · by_cases h8 : r.inBand + 1 < 8
    · have h8' : ¬ 8 ≤ r.inBand + 1 := by omega
      simp [hn, h8, h8']
    · have h8' : 8 ≤ r.inBand + 1 := by omega
      simp [hn, h8, h8', stepToward_one]
  · simp [hn]

/-- The monitor's step as one choice: it comes to rest, begins to watch, reports and watches anew, or goes on (R81). -/
theorem StuckMonitor.evaluate_eq (m : StuckMonitor) (t : ChanTune) (e phase : Int) (presented : Nat) (cycle : Word32) :
    let near := e.natAbs ≤ t.deadband
    let moved := m.start < (presented : Int) ∧ m.start + t.moveMin ≤ phase ∨
      (presented : Int) < m.start ∧ phase + t.moveMin ≤ m.start
    let stuck := m.watching = true ∧ ¬ near ∧ ¬ moved ∧ t.stuckCycles ≤ (cycle - m.startCycle).toNat
    m.evaluate t e phase presented cycle =
      (if near ∨ m.watching = true ∧ moved then { m with watching := false, reference := phase }
        else if m.watching = false ∧ t.step ≤ ((presented : Int) - m.reference).natAbs then
          { m with watching := true, start := phase, startCycle := cycle }
        else if stuck then { m with start := phase, startCycle := cycle }
        else m, decide stuck) := by
  obtain ⟨watching, reference, start, startCycle⟩ := m
  intro near moved stuck
  unfold StuckMonitor.evaluate
  by_cases hn : near
  · cases watching <;> simp [hn, stuck, near]
  · cases watching
    · by_cases hs : t.step ≤ ((presented : Int) - reference).natAbs <;> simp [hn, stuck, near, hs]
    · have hmoved : (decide (start < (presented : Int)) && decide (start + t.moveMin ≤ phase) ||
          decide ((presented : Int) < start) && decide (phase + t.moveMin ≤ start)) = decide moved := by
        simp [moved]
      by_cases hm : moved
      · simp [hn, stuck, near, hm, hmoved]
      · by_cases hc : t.stuckCycles ≤ (cycle - startCycle).toNat
        · simp [hn, stuck, near, hm, hc, hmoved, -BitVec.toNat_sub]
        · simp [hn, stuck, near, hm, hc, hmoved, -BitVec.toNat_sub]

section
variable (s : State) (ch : Chan) (cycle : Word32)

/-- How far the presented target of a step lies ahead of the phase (R79). -/
def State.stepError : Int := (s.stepped ch : Int) - (s.ceu.chans.get ch).phase

/-- The channel's record after the integral and the duty of a control step (R79). -/
def State.steppedRec : ChanRec :=
  { s.phc.chans.get ch with
    presented := s.stepped ch
    integral := nextIntegral (s.tune ch) (s.phc.chans.get ch).integral (s.stepError ch)
    duty := stepDuty (s.tune ch) (s.phc.chans.get ch).learned
      (nextIntegral (s.tune ch) (s.phc.chans.get ch).integral (s.stepError ch)) (s.stepError ch) }

/-- The monitor of a control step (R81). -/
def State.stepMonitor : StuckMonitor × Bool :=
  (s.phc.chans.get ch).stuck.evaluate (s.tune ch) (s.stepError ch) (s.ceu.chans.get ch).phase (s.stepped ch) cycle

theorem State.controlStep_eq : s.controlStep ch cycle = s.putChan ch
    { (s.steppedRec ch).learn (s.tune ch).deadband (s.stepError ch) (s.steppedRec ch).duty with
      stuck := (s.stepMonitor ch cycle).1 }
    (s.dutyNews ch (s.steppedRec ch).duty false ++
      if (s.stepMonitor ch cycle).2 then [.report .phc (.phaserStuck ch) .event] else []) := by
  have htune (x : ChanRec) (l : List Handover) : (s.putChan ch x l).tune ch = s.tune ch := rfl
  have hphase (x : ChanRec) (l : List Handover) : (s.putChan ch x l).phase ch = (s.ceu.chans.get ch).phase := rfl
  have hlearn : ((s.steppedRec ch).learn (s.tune ch).deadband (s.stepError ch) (s.steppedRec ch).duty).stuck =
      (s.phc.chans.get ch).stuck := by
    rw [ChanRec.learn_eq]
    rfl
  have hmonitor : ((s.steppedRec ch).learn (s.tune ch).deadband (s.stepError ch) (s.steppedRec ch).duty).stuck.evaluate
      (s.tune ch) (s.stepError ch) (s.ceu.chans.get ch).phase (s.stepped ch) cycle = s.stepMonitor ch cycle := by
    rw [hlearn]
    rfl
  dsimp only [State.controlStep]
  simp only [State.targetStep_eq, State.setChan_eq_putChan, State.updChan_eq_putChan, State.writeDuty_eq,
    State.putChan_putChan, State.putChan_get, State.putChan_dutyNews, htune, hphase, State.report_eq_sends,
    List.nil_append, List.append_nil]
  have hfold (m : StuckMonitor × Bool) (x : ChanRec) (l : List Handover) :
      (if m.2 then (s.putChan ch { x with stuck := m.1 } l).sends [.report .phc (.phaserStuck ch) .event]
        else s.putChan ch { x with stuck := m.1 } l) = s.putChan ch { x with stuck := m.1 }
          (l ++ if m.2 then [.report .phc (.phaserStuck ch) .event] else []) := by
    rw [State.sends_if, State.putChan_sends]
  rw [← hmonitor]
  exact hfold _ _ _

end

section
variable {s : State} {ch : Chan} {cycle : Word32}

theorem State.phcTakesMatch_of_held (h : (s.phc.chans.get ch).state = .parked ∨ (s.phc.chans.get ch).state = .releasing) :
    s.phcTakesMatch ch cycle = (s.targetStep ch).evaluate ch := by
  unfold State.phcTakesMatch
  rcases h with h | h <;> rw [h]

theorem State.phcTakesMatch_of_holding (h : (s.phc.chans.get ch).state = .holding) :
    s.phcTakesMatch ch cycle = (s.targetStep ch).removeHold ch .measure := by
  unfold State.phcTakesMatch
  rw [h]

theorem State.phcTakesMatch_of_parking (h : (s.phc.chans.get ch).state = .parking) :
    s.phcTakesMatch ch cycle = s.parkMatch ch := by
  unfold State.phcTakesMatch
  rw [h]

theorem State.phcTakesMatch_of_tracking (h : (s.phc.chans.get ch).state = .tracking) :
    s.phcTakesMatch ch cycle = s.controlStep ch cycle := by
  unfold State.phcTakesMatch
  rw [h]

theorem State.phcTakesMatch_of_idle (h : (s.phc.chans.get ch).state = .unused ∨
    (s.phc.chans.get ch).state = .driveTest ∨ (s.phc.chans.get ch).state = .faulted ∨
    (s.phc.chans.get ch).state = .lockout) : s.phcTakesMatch ch cycle = s := by
  unfold State.phcTakesMatch
  rcases h with h | h | h | h <;> rw [h]

end

/-- Settles O34: a match by the channel's state; in TRACKING the control step's record, item by item. -/
theorem matchesAndControlStepsDriveTheValve : Obligations.MatchesAndControlStepsDriveTheValve := by
  refine ⟨fun s t ch k phase stamp cycle ho => ⟨fun h => ?_, fun h hl => ?_, fun h hl => ?_, fun h ht => ?_,
    fun h ht => ⟨fun hn => ?_, fun hn hc => ?_, fun hn hc => ?_⟩, fun h => ?_⟩, fun s t ch k phase stamp cycle ho h => ?_⟩
  all_goals rw [exec_phcMatch ho]
  · rw [State.phcTakesMatch_of_held h, State.targetStep_eq, State.putChan_nil]
    rfl
  · rw [State.phcTakesMatch_of_holding h, State.matchInHolding_eq h, if_pos hl, State.targetStep_eq, State.putChan_nil]
    rfl
  · rw [State.phcTakesMatch_of_holding h, State.matchInHolding_eq h, if_neg hl, State.putChan_nil]
    rfl
  · rw [State.phcTakesMatch_of_parking h, State.parkMatch_of_none ht]
  · rw [State.phcTakesMatch_of_parking h, State.parkMatch_of_some ht, if_neg hn, State.putChan_nil]
  · rw [State.phcTakesMatch_of_parking h, State.parkMatch_of_some ht, if_pos hn, if_pos hc, State.putChan_nil]
  · rw [State.phcTakesMatch_of_parking h, State.parkMatch_of_some ht, if_pos hn, if_neg hc, State.parkedFrom_eq, h]
    rfl
  · rw [State.phcTakesMatch_of_idle h]
  · have hmonitor := (t.phc.chans.get ch).stuck.evaluate_eq (t.tune ch) (t.stepError ch) (t.ceu.chans.get ch).phase
      (t.stepped ch) cycle
    dsimp only at hmonitor
    have hduty := stepDuty_eq (t.tune ch) (t.phc.chans.get ch).learned
      (nextIntegral (t.tune ch) (t.phc.chans.get ch).integral (t.stepError ch)) (t.stepError ch)
    rw [State.phcTakesMatch_of_tracking h, State.controlStep_eq, ChanRec.learn_eq, State.stepMonitor, hmonitor,
      State.steppedRec, hduty, nextIntegral_eq]
    dsimp only
    simp only [decide_eq_true_eq]
    rfl

end Sys2Proof.Machine
end

section
/-! Proofs about the news that a channel takes (R82 to R94): hold causes that come and go, losses and timers, driver faults
and the oil pressure. -/

namespace Sys2Proof.Machine

/-! ### Hold causes (R82 to R84) -/

section
variable {s : State} {ch : Chan}

theorem State.addHold_of_tracking (h : (s.phc.chans.get ch).state = .tracking) (c : HoldCause) :
    s.addHold ch c = s.hold ch c := by
  unfold State.addHold
  dsimp only
  rw [h]

theorem State.addHold_of_holding (h : (s.phc.chans.get ch).state = .holding) (c : HoldCause) : s.addHold ch c =
    s.putChan ch { s.phc.chans.get ch with
      holds := (s.phc.chans.get ch).holds.put c true
      timer := s.holdTimer (s.phc.chans.get ch).holds ((s.phc.chans.get ch).holds.put c true)
        (s.phc.chans.get ch).timer } [] := by
  unfold State.addHold
  dsimp only
  rw [h, State.setChan_eq_putChan]

theorem State.addHold_of_other (ht : (s.phc.chans.get ch).state ≠ .tracking)
    (hh : (s.phc.chans.get ch).state ≠ .holding) (c : HoldCause) : s.addHold ch c = s := by
  unfold State.addHold
  dsimp only
  cases h : (s.phc.chans.get ch).state <;> first | rfl | contradiction

/-- A hold limit period starts just where a timed cause comes to none (R84). -/
theorem State.holdTimer_put (s : State) (h : HoldCauses) (c : HoldCause) (timer : Option (ChanTimer × Time)) :
    s.holdTimer h (h.put c true) timer =
      if (c = .supply ∨ c = .measure) ∧ h.supply = false ∧ h.measure = false then
        some (.holdLimit, s.now + ms s.tbm.tuning.dev.holdLimitMs) else timer := by
  obtain ⟨claim, supply, measure, response⟩ := h
  cases c <;> cases supply <;> cases measure <;> rfl

/-- A hold cause arises (R82). -/
theorem State.addHold_eq (s : State) (ch : Chan) (c : HoldCause) : s.addHold ch c =
    if (s.phc.chans.get ch).state = .tracking then s.hold ch c
    else if (s.phc.chans.get ch).state = .holding then s.putChan ch { s.phc.chans.get ch with
      holds := (s.phc.chans.get ch).holds.put c true
      timer := if (c = .supply ∨ c = .measure) ∧ (s.phc.chans.get ch).holds.supply = false ∧
          (s.phc.chans.get ch).holds.measure = false then
        some (.holdLimit, s.now + ms s.tbm.tuning.dev.holdLimitMs) else (s.phc.chans.get ch).timer } []
    else s := by
  by_cases ht : (s.phc.chans.get ch).state = .tracking
  · rw [if_pos ht, State.addHold_of_tracking ht]
  · by_cases hh : (s.phc.chans.get ch).state = .holding
    · rw [if_neg ht, if_pos hh, State.addHold_of_holding hh, State.holdTimer_put]
    · rw [if_neg ht, if_neg hh, State.addHold_of_other ht hh]

/-- A hold cause goes (R82, R84). -/
theorem State.causeGone_eq (s : State) (ch : Chan) (c : HoldCause) : s.causeGone ch c =
    if (s.phc.chans.get ch).state = .holding then
      (if (s.phc.chans.get ch).holds.put c false = .empty then s.track ch .resume
        else s.putChan ch { s.phc.chans.get ch with
          holds := (s.phc.chans.get ch).holds.put c false
          timer := if ((s.phc.chans.get ch).holds.put c false).supply ||
            ((s.phc.chans.get ch).holds.put c false).measure then (s.phc.chans.get ch).timer else none } [])
    else s.evaluate ch := by
  by_cases hh : (s.phc.chans.get ch).state = .holding
  · rw [if_pos hh, State.causeGone, if_pos hh]
    dsimp only [State.removeHold]
    rw [if_pos hh, State.setChan_eq_putChan]
    rfl
  · rw [if_neg hh, State.causeGone, if_neg hh]

end

theorem State.takesResponse_hold (s : State) (ch : Chan) : s.takesResponse ch .hold =
    if (s.phc.chans.get ch).state = .tracking ∨ (s.phc.chans.get ch).state = .holding then s.addHold ch .response
    else s.evaluate ch := by
  dsimp only [State.takesResponse]
  cases (s.phc.chans.get ch).state <;> rfl

/-- Settles O35: the adding and the going of a hold cause, then each handover by the one it brings. -/
theorem holdCausesComeAndGo : Obligations.HoldCausesComeAndGo := by
  intro s t ch r put adds loses
  have hadd (c : HoldCause) : t.addHold ch c = adds c := by
    rw [State.addHold_eq, State.putChan_nil]
  have hgone (c : HoldCause) : t.causeGone ch c = loses c := by
    rw [State.causeGone_eq, State.putChan_nil]
  refine ⟨fun k cycle ho => ?_, fun ho => ?_, fun ho => ?_, fun ho => ?_, fun ho => ?_, fun x hx ho => ?_, fun ho => ?_,
    fun k phase stamp cycle ho h => ?_⟩
  · rw [← hadd]
    exact execPhcMeasurementMissing_of_offers ch k cycle ho
  · rw [← hadd]
    exact execPhcClaimPlaced_of_offers ch ho
  · rw [← hadd]
    exact (execPhcSupplyChange_of_offers ch _ ho).trans (congrArg _ (if_pos rfl))
  · rw [← hadd]
    refine (execPhcResponseChange_of_offers ch _ ho).trans ?_
    rw [State.takesResponse_hold]
  · rw [← hgone]
    exact execPhcClaimReleased_of_offers ch ho
  · rw [← hgone]
    exact (execPhcSupplyChange_of_offers ch _ ho).trans (congrArg _ (if_neg hx))
  · rw [← hgone]
    exact execPhcResponseChange_of_offers ch _ ho
  · dsimp only
    rw [exec_phcMatch ho, State.phcTakesMatch_of_holding h, State.matchInHolding_eq h, State.targetStep_eq,
      State.putChan_nil, State.putChan_nil]
    rfl

/-! ### Losses and timers (R77, R84 to R88, R93) -/

theorem ChanState.driving_iff (st : ChanState) :
    st.driving = true ↔ st = .releasing ∨ st = .tracking ∨ st = .holding := by
  cases st <;> simp [ChanState.driving]

section
variable (s : State) (ch : Chan)

theorem State.parkIfDriving_eq (cause : ChanCause) : s.parkIfDriving ch cause =
    if (s.phc.chans.get ch).state = .releasing ∨ (s.phc.chans.get ch).state = .tracking ∨
      (s.phc.chans.get ch).state = .holding then s.park ch cause else s := by
  simp only [State.parkIfDriving, ChanState.driving_iff]

theorem State.takesResponse_park : s.takesResponse ch .park =
    if (s.phc.chans.get ch).state = .releasing ∨ (s.phc.chans.get ch).state = .tracking ∨
      (s.phc.chans.get ch).state = .holding then s.park ch .response else s.endTest ch .response := by
  have he : s.takesResponse ch .park = (s.endTest ch .response).parkIfDriving ch .response := rfl
  rw [he, State.parkIfDriving_eq]
  by_cases ht : (s.phc.chans.get ch).state = .driveTest
  · have hst : ((s.endTest ch .response).phc.chans.get ch).state = .parked := by
      rw [State.endTest_of_driveTest ht, State.putChan_get]
    rw [hst, ht]
    rfl
  · rw [State.endTest_of_ne ht]

theorem State.parkExpires_eq : s.parkExpires ch =
    if s.ckt.state = .cycleLocked ∧ (s.ceu.chans.get ch).valid = true ∧
      ((s.tbm.tuning.chan.get ch).parkTol : Int) < (s.ceu.chans.get ch).phase then
      s.putChan ch { s.phc.chans.get ch with timer := none } [.report .phc (.parkFail ch) .event]
    else s.parkedFrom ch .timeout := by
  have hcond : (s.measured ch && decide (((s.tune ch).parkTol : Int) < s.phase ch)) = true ↔
      s.ckt.state = .cycleLocked ∧ (s.ceu.chans.get ch).valid = true ∧
        ((s.tbm.tuning.chan.get ch).parkTol : Int) < (s.ceu.chans.get ch).phase := by
    rw [State.measured, Bool.and_eq_true, Bool.and_eq_true, beq_iff_eq, decide_eq_true_eq, and_assoc]
    rfl
  simp only [State.parkExpires, hcond]
  rw [State.updChan_eq_putChan, State.report_eq_sends, State.putChan_sends, List.nil_append]

end

theorem State.chanTimer_of_some {s : State} {ch : Chan} {kind : ChanTimer} {x : Time}
    (h : (s.phc.chans.get ch).timer = some (kind, x)) : s.chanTimer ch kind = some x := by
  unfold State.chanTimer
  rw [h]
  exact if_pos rfl

/-- Settles O36: each loss parks what drives; a timer does its work at its time. -/
theorem lossesAndTimersMoveTheChannel : Obligations.LossesAndTimersMoveTheChannel := by
  refine ⟨fun s t ch => ⟨fun ho => ?_, fun ho => ?_, fun ho => ?_, fun x hx ho => ?_, fun ho => ?_⟩,
    fun s ch kind x hx => ?_⟩
  · exact (execPhcLockLost_of_offers ch ho).trans (congrArg _ (t.parkIfDriving_eq ch _))
  · exact (execPhcResponseChange_of_offers ch _ ho).trans (congrArg _ (t.takesResponse_park ch))
  · exact (execPhcSourceChange_of_offers ch _ ho).trans (congrArg _ (t.parkIfDriving_eq ch _))
  · exact (execPhcSourceChange_of_offers ch _ ho).trans (congrArg _ (if_neg hx))
  · exact execPhcStartNotification_of_offers ch ho
  · have htimer := State.chanTimer_of_some hx
    refine ⟨?_, ?_, ?_, ?_, ?_⟩
    · rintro rfl
      have he : exec (.releaseTimerExpiry ch) s = execReleaseTimerExpiry ch s := rfl
      rw [he, execReleaseTimerExpiry, htimer]
      rfl
    · rintro rfl hst
      have he : exec (.holdLimitExpiry ch) s = execHoldLimitExpiry ch s := rfl
      rw [he, execHoldLimitExpiry, htimer]
      dsimp only
      rw [State.parkIfDriving_eq, if_pos (.inr (.inr hst))]
      rfl
    · rintro rfl
      have he : exec (.testTimerExpiry ch) s = execTestTimerExpiry ch s := rfl
      rw [he, execTestTimerExpiry, htimer]
      rfl
    all_goals
      rintro rfl hfailed
      have he : exec (.parkTimerExpiry ch) s = execParkTimerExpiry ch s := rfl
      rw [he, execParkTimerExpiry, htimer]
      dsimp only
      rw [State.parkExpires_eq]
    · exact congrArg _ (if_pos hfailed)
    · exact congrArg _ ((if_neg hfailed).trans (State.parkedFrom_eq _ ch _))

/-! ### Driver faults and class-1 reports (R89, R90) -/

section
variable (s : State) (ch : Chan)

theorem State.shortFault_eq : s.shortFault ch =
    if (s.phc.chans.get ch).state = .parking ∨ (s.phc.chans.get ch).state = .faulted then s.lockOut ch
    else if (s.phc.chans.get ch).state = .unused ∨ (s.phc.chans.get ch).state = .lockout then s
    else s.faulted ch := by
  unfold State.shortFault State.class1 State.driverFault
  cases (s.phc.chans.get ch).state <;> rfl

theorem State.driverFault_eq : s.driverFault ch =
    if ((s.phc.chans.get ch).state = .unused ∨ (s.phc.chans.get ch).state = .lockout) ∨
      (s.phc.chans.get ch).state = .faulted then s
    else s.faulted ch := by
  unfold State.driverFault
  cases (s.phc.chans.get ch).state <;> rfl

theorem State.class1_eq : s.class1 ch =
    if (s.phc.chans.get ch).state = .parking ∨ (s.phc.chans.get ch).state = .faulted then s.lockOut ch else s := by
  unfold State.class1
  cases (s.phc.chans.get ch).state <;> rfl

theorem State.driverCleared_eq : s.driverCleared ch =
    if (s.phc.chans.get ch).state = .faulted then
      s.putChan ch { s.phc.chans.get ch with state := .parked } (s.chanNews ch .parked .faulted .driverClear none)
    else s := by
  by_cases h : (s.phc.chans.get ch).state = .faulted
  · rw [if_pos h, State.driverCleared, if_pos h, State.enter_eq, h]
    rfl
  · rw [if_neg h, State.driverCleared, if_neg h]

end

/-- A driver fault that is a class-1 report too is there for the class-1 row as well (R148). -/
theorem execPhcClass1Report_of_short {s t : State} {ch : Chan} (ho : s.offers (.phcDriverFault ch true) t) :
    execPhcClass1Report ch s = .next (t.shortFault ch) := by
  unfold execPhcClass1Report
  rw [State.taking_of_offers (a := true) ho (by simp [wantClass1])
    (fun x hx => by cases x <;> simp_all [wantClass1, Handover.lane])]
  rfl

/-! ### Oil pressure (R94) -/

/-- The channels that drive and want more than `k` kPa. -/
def State.low (s : State) (k : Nat) : List Chan :=
  allChans.filter fun ch =>
    ((s.phc.chans.get ch).state == .releasing || (s.phc.chans.get ch).state == .tracking ||
      (s.phc.chans.get ch).state == .holding) && decide (k < (s.tbm.tuning.chan.get ch).holdKpa)

theorem State.filter_lowDriving (s : State) (k : Nat) : allChans.filter (s.lowDriving k) = s.low k := by
  refine List.filter_congr fun ch _ => ?_
  rw [State.lowDriving]
  cases (s.phc.chans.get ch).state <;> rfl

/-- The oil pressure is enough for every channel that is bound. -/
def State.oilEnough (s : State) (k : Nat) : Prop :=
  ∀ ch, s.chanBound ch = true → (s.tbm.tuning.chan.get ch).holdKpa ≤ k

theorem State.oilEnough_iff (s : State) (k : Nat) :
    ((allChans.filter s.chanBound).all fun ch => decide ((s.tune ch).holdKpa ≤ k)) = true ↔ s.oilEnough k := by
  have hall (ch : Chan) : ch ∈ allChans := by cases ch <;> decide
  simp only [List.all_eq_true, List.mem_filter, decide_eq_true_eq, hall, true_and]
  rfl

/-- One more OPPT found the oil pressure low. -/
def State.oilRun (s : State) : State := { s with phc := { s.phc with lowOilRun := bump 255 s.phc.lowOilRun } }

section
variable {s : State} {k : Nat}

theorem State.watchOil_of_low (h : s.low k ≠ []) : s.watchOil k =
    if 3 ≤ bump 255 s.phc.lowOilRun then forEach (s.low k) (fun s ch => s.park ch .oil) (State.sends
      { s with phc := { s.phc with lowOilRun := bump 255 s.phc.lowOilRun, oilReported := true } }
      [.report .phc .oilLow .present])
    else s.oilRun := by
  unfold State.watchOil
  dsimp only
  rw [State.filter_lowDriving, if_pos (by simpa using h), State.report_eq_sends]
  rfl

theorem State.watchOil_of_enough (h : s.low k = []) (he : s.oilEnough k) : s.watchOil k = State.sends
    { s with phc := { s.phc with lowOilRun := 0, oilReported := false } }
    (if s.phc.oilReported then [.report .phc .oilLow .gone] else []) := by
  unfold State.watchOil
  dsimp only
  rw [State.filter_lowDriving, if_neg (by simp [h]), if_pos (s.oilEnough_iff k |>.mpr he), State.report_eq_sends,
    State.sends_if]

theorem State.watchOil_of_not_enough (h : s.low k = []) (he : ¬ s.oilEnough k) : s.watchOil k = s := by
  unfold State.watchOil
  dsimp only
  rw [State.filter_lowDriving, if_neg (by simp [h]), if_neg (mt (s.oilEnough_iff k).mp he)]

end

/-- Settles O37: the driver faults by the state they find, then the three outcomes of the oil-pressure watch. -/
theorem driverFaultsAndOilPressure : Obligations.DriverFaultsAndOilPressure := by
  refine ⟨fun s t ch => ⟨fun ho => ⟨?_, ?_⟩, fun ho => ?_, fun ho => ?_, fun ho => ?_⟩, fun s t => ⟨fun k ho => ?_, ?_⟩⟩
  · exact (execPhcDriverFault_of_offers ch true ho).trans (congrArg _ (t.shortFault_eq ch))
  · exact (execPhcClass1Report_of_short ho).trans (congrArg _ (t.shortFault_eq ch))
  · exact (execPhcDriverFault_of_offers ch false ho).trans (congrArg _ (t.driverFault_eq ch))
  · exact (execPhcClass1Report_of_offers ch ho).trans (congrArg _ (t.class1_eq ch))
  · exact (execPhcDriverClear_of_offers ch ho).trans (congrArg _ (t.driverCleared_eq ch))
  · have he : exec .phcOpptOil s = .next (t.watchOil k) := execPhcOpptOil_of_offers k ho
    rw [he]
    refine ⟨fun hlow hrun => ?_, fun hlow hrun => ?_, fun hlow henough => ?_, fun hlow henough => ?_⟩
    · exact congrArg _ ((State.watchOil_of_low hlow).trans (if_neg (not_le.mpr hrun)))
    · exact congrArg _ ((State.watchOil_of_low hlow).trans (if_pos hrun))
    · exact congrArg _ (State.watchOil_of_enough hlow henough)
    · exact congrArg _ (State.watchOil_of_not_enough hlow henough)
  · exact fun ho => execPhcOpptChanged_of_offers ho

/-! ### The drive test (R92) -/

theorem chan?_chanNum (ch : Chan) : chan? (.num (chanNum ch)) = some ch := by
  cases ch <;> rfl

theorem chan?_of_beyond {n : Int} (h : ¬ (1 ≤ n ∧ n ≤ 4)) : chan? (.num n) = none := by
  rw [chan?, within?_num_of_beyond (by simpa using h)]
  rfl

theorem testChFields_eq_none {fields : List Field} (h : ∀ c d x, fields ≠ [.word .CH, .num c, .num d, .num x]) :
    testChFields fields = none := by
  unfold testChFields
  split
  · exact absurd rfl (h _ _ _)
  · rfl

theorem State.startTest_eq (s : State) (ch : Chan) (duty time : Nat) : s.startTest ch duty time = s.putChan ch
    { s.phc.chans.get ch with state := .driveTest, duty := duty, timer := some (.test, s.now + ms time) }
    (s.dutyNews ch duty false ++ s.chanNews ch .driveTest (s.phc.chans.get ch).state .test none) := by
  dsimp only [State.startTest]
  simp only [State.enter_eq, State.updChan_eq_putChan, State.writeDuty_eq, State.putChan_putChan, State.putChan_get,
    State.putChan_chanNews, List.append_nil]
  rfl

/-- A drive test of a channel whose figures are all within their ranges. -/
def State.tryTest (s : State) (ch : Chan) (duty time : Nat) : State :=
  if !s.inRun then s.answer .TEST .mode
  else if !s.chanBound ch then s.answer .TEST .unbound
  else if s.ckt.state ≠ .stopped ∨ (s.phc.chans.get ch).state ≠ .parked ∨ s.fmg.chanResponse.get ch = .park then
    s.answer .TEST .state
  else (s.startTest ch duty time).answer .TEST .ok

section
variable (s : State) (c d x : Int)

theorem State.doTestCh_of_within {ch : Chan} (hc : c = chanNum ch) (hd : 0 ≤ d ∧ d ≤ 1000) (hx : 10 ≤ x ∧ x ≤ 1000) :
    s.doTestCh [.word .CH, .num c, .num d, .num x] = s.tryTest ch d.toNat x.toNat := by
  simp only [State.doTestCh, testChFields, hc, chan?_chanNum, within?_num_of_within (lo := 0) (hi := 1000) hd,
    within?_num_of_within (lo := 10) (hi := 1000) hx]
  rfl

theorem State.doTestCh_of_beyond (h : ¬ (1 ≤ c ∧ c ≤ 4 ∧ 0 ≤ d ∧ d ≤ 1000 ∧ 10 ≤ x ∧ x ≤ 1000)) :
    s.doTestCh [.word .CH, .num c, .num d, .num x] = s.answer .TEST .range := by
  have hbeyond : chan? (.num c) = none ∨ within? 0 1000 (.num d) = none ∨ within? 10 1000 (.num x) = none := by
    by_cases hc : 1 ≤ c ∧ c ≤ 4
    · by_cases hd : 0 ≤ d ∧ d ≤ 1000
      · exact .inr (.inr (within?_num_of_beyond fun hx => h ⟨hc.1, hc.2, hd.1, hd.2, hx.1, hx.2⟩))
      · exact .inr (.inl (within?_num_of_beyond hd))
    · exact .inl (chan?_of_beyond hc)
  simp only [State.doTestCh, testChFields]
  split
  · next hc hd hx => simp [hc, hd, hx] at hbeyond
  · rfl

end

theorem State.inRun_iff (s : State) : s.inRun = true ↔ s.smc.mode = .run := by
  rw [State.inRun, beq_iff_eq]

theorem exec_testCh_of_begins {s t : State} {fields : List Field} (hs : s.begins .TEST fields t)
    (hl : fields.head? ≠ some (.word .LIFT)) : exec (.testCh fields) s = .next (t.doTestCh fields) := by
  have he : exec (.testCh fields) s = execTestCh fields s := rfl
  rw [he, execTestCh, if_neg hl, State.request_of_begins _ hs]

/-! ### CLRL (R91) -/

theorem State.armed_iff (s : State) (op : ArmOp) : s.armed op = true ↔ ∃ x, s.clp.arm = some (op, x) := by
  unfold State.armed
  cases s.clp.arm with
  | none => simp
  | some p => obtain ⟨o, x⟩ := p; simp

theorem State.begins.armed_eq {s t : State} {k : Keyword} {fields : List Field} (h : s.begins k fields t)
    (hk : consumesArm k = true) (op : ArmOp) : t.armed op = s.armed op := by
  obtain ⟨-, rfl⟩ := h
  have harm : (s.begun k).clp.arm = s.clp.arm := by simp [State.begun, hk]
  unfold State.armed
  rw [harm]

/-- A driver record of the channel's output is held. -/
def State.driverHeld (s : State) (ch : Chan) : Prop :=
  ∃ o, s.chanDriver ch = some o ∧
    ((s.fault (.driverShort (.ocv o))).held = true ∨ (s.fault (.driverOpen (.ocv o))).held = true)

theorem State.outFaulted_iff (s : State) (o : LineABCD) : s.outFaulted o = true ↔
    (s.fault (.driverShort (.ocv o))).held = true ∨ (s.fault (.driverOpen (.ocv o))).held = true := by
  rw [State.outFaulted, Bool.or_eq_true]
  rfl

section
variable {s : State} {ch : Chan}

theorem State.faultIfHeld_of_held (hst : (s.phc.chans.get ch).state = .parked) (h : s.driverHeld ch) :
    s.faultIfHeld ch = s.faulted ch := by
  obtain ⟨o, ho, hheld⟩ := h
  unfold State.faultIfHeld
  rw [hst, ho]
  exact if_pos (s.outFaulted_iff o |>.mpr hheld)

theorem State.faultIfHeld_of_not_held (h : ¬ s.driverHeld ch) : s.faultIfHeld ch = s := by
  unfold State.faultIfHeld
  split
  · next o _ ho => exact if_neg fun hf => h ⟨o, ho, (s.outFaulted_iff o).mp hf⟩
  · rfl

theorem State.chanBound_of_driver {o : LineABCD} (h : s.chanDriver ch = some o) : s.chanBound ch = true := by
  by_contra hb
  rw [State.chanDriver, if_neg hb] at h
  cases h

end

/-- Settles O38: TEST CH and CLRL by the first check that fails; a release from LOCKOUT by the records of the output. -/
theorem driveTestsAndLockoutRelease : Obligations.DriveTestsAndLockoutRelease := by
  intro s t fields
  refine ⟨fun hb hl => ⟨fun h => ?_, ?_⟩, fun hb => ?_, fun ch => ?_⟩
  · rw [exec_testCh_of_begins hb hl, State.doTestCh, testChFields_eq_none h]
  · rintro c d x hfields
    have he := exec_testCh_of_begins hb hl
    refine ⟨fun h => ?_, fun ch hc hd0 hd1 hx0 hx1 => ?_⟩
    · rw [he, hfields, State.doTestCh_of_beyond _ _ _ _ h]
    · rw [he, hfields, State.doTestCh_of_within _ _ _ _ hc ⟨hd0, hd1⟩ ⟨hx0, hx1⟩, State.tryTest]
      refine ⟨fun hm => ?_, fun hm hbound => ?_, fun hm hbound hfit => ?_, fun hm hbound hfit => ?_⟩
      all_goals have hrun := mt t.inRun_iff.mp
      · rw [if_pos (by simpa using hrun hm)]
      · rw [if_neg (by simpa using t.inRun_iff.mpr hm), if_pos (by simp [hbound])]
      · rw [if_neg (by simpa using t.inRun_iff.mpr hm), if_neg (by simp [hbound]), if_pos]
        by_contra hn
        simp only [not_or, not_not] at hn
        exact hfit hn
      · obtain ⟨hstop, hparked, hresp⟩ := hfit
        rw [if_neg (by simpa using t.inRun_iff.mpr hm), if_neg (by simp [hbound]), if_neg (by simp [*]),
          State.startTest_eq, hparked]
        rfl
  · have he : exec (.clrl fields) s = .next (t.disarm.doClrl fields (t.armed .clrl)) :=
      exec_of_begins (act := fun s => s.disarm.doClrl fields (s.armed .clrl)) rfl hb
    rw [he, hb.armed_eq rfl, State.doClrl]
    have harm := s.armed_iff .clrl
    have hrun := t.disarm.inRun_iff
    refine ⟨fun h => ?_, fun h ha => ?_, fun h ha hm => ?_, fun h ha hm hstop => ?_, fun h ha hm hstop => ?_⟩
    · exact congrArg _ (if_pos h)
    · rw [if_neg (not_not_intro h), if_pos (by simpa using mt harm.mp ha)]
      rfl
    · rw [if_neg (not_not_intro h), if_neg (by simpa using harm.mpr ha), if_pos (by simpa using mt hrun.mp hm)]
      rfl
    · rw [if_neg (not_not_intro h), if_neg (by simpa using harm.mpr ha), if_neg (by simpa using hrun.mpr hm),
        if_pos (show t.disarm.ckt.state ≠ .stopped from hstop)]
      rfl
    · rw [if_neg (not_not_intro h), if_neg (by simpa using harm.mpr ha), if_neg (by simpa using hrun.mpr hm),
        if_neg (not_not_intro (show t.disarm.ckt.state = .stopped from hstop))]
      rfl
  · intro new q held
    have hunlock : s.unlock ch = q.faultIfHeld ch := by
      rw [State.unlock, State.enter_eq]
      have hnews : (if (if s.chanBound ch then ChanState.parked else .unused) = .holding then
          some (s.phc.chans.get ch).holds else none) = none := if_neg (by split <;> simp)
      rw [hnews]
      rfl
    refine ⟨fun h => ?_, fun h => ?_⟩
    · obtain ⟨o, ho, -⟩ := id h
      have hnew : new = .parked := if_pos (State.chanBound_of_driver ho)
      have hst : (q.phc.chans.get ch).state = .parked := (congrArg ChanRec.state (PerChan.get_set_same _ _ _)).trans hnew
      rw [hunlock, State.faultIfHeld_of_held hst h]
    · exact hunlock.trans (State.faultIfHeld_of_not_held (s := q) h)

end Sys2Proof.Machine
end

section
/-! Proofs about the Target Arbiter (R95 to R97, R102 to R104): the choice of a source, and the points, expiries and
cycles at which the arbiter chooses. -/

namespace Sys2Proof.Machine

/-! ### The choice (R102, R103) -/

/-- A channel may follow a target: its part runs, it is bound, no response parks it, the operating point is fresh. -/
def State.targetOpen (s : State) (ch : Chan) : Prop :=
  s.smc.mode = .run ∧ s.chanBound ch = true ∧ (s.tga.chans.get ch).response ≠ .park ∧ s.tga.fresh = .fresh

theorem State.targetClosed_iff (s : State) (ch : Chan) :
    (!s.inRun || !s.chanBound ch || (s.tga.chans.get ch).response == .park || s.tga.fresh != .fresh) = true ↔
      ¬ s.targetOpen ch := by
  unfold State.targetOpen
  simp only [← s.inRun_iff, Bool.or_eq_true, Bool.not_eq_true', bne_iff_ne, beq_iff_eq]
  cases s.inRun <;> cases s.chanBound ch <;> simp; tauto

section
variable {s : State} {ch : Chan}

theorem State.choose_of_closed (h : ¬ s.targetOpen ch) : s.choose ch = (.park, 0) :=
  if_pos ((s.targetClosed_iff ch).mpr h)

theorem State.choose_of_host (h : s.targetOpen ch) {x : Nat} (hx : s.hostTarget ch = some x) :
    s.choose ch = (.host, min x (s.chanRange ch)) := by
  unfold State.choose
  rw [if_neg (mt (s.targetClosed_iff ch).mp (not_not_intro h)), hx]

theorem State.choose_of_map (h : s.targetOpen ch) (hx : s.hostTarget ch = none) {m : Nat}
    (hm : (s.tga.chans.get ch).mapOutput = some m) : s.choose ch = (.map, m) := by
  unfold State.choose
  rw [if_neg (mt (s.targetClosed_iff ch).mp (not_not_intro h)), hx, hm]

theorem State.choose_of_nothing (h : s.targetOpen ch) (hx : s.hostTarget ch = none)
    (hm : (s.tga.chans.get ch).mapOutput = none) : s.choose ch = (.park, 0) := by
  unfold State.choose
  rw [if_neg (mt (s.targetClosed_iff ch).mp (not_not_intro h)), hx, hm]

theorem State.chanRange_of_some {c : CamItem} (h : s.tbm.inForce.cam.get ch = some c) : s.chanRange ch = c.range := by
  unfold State.chanRange
  rw [h]

/-- The arbiter's record of the channel with its choice written in. -/
def State.chosen (s : State) (ch : Chan) (source : Source) (out : Nat) : State :=
  { s with tga := { s.tga with
    chans := s.tga.chans.set ch { s.tga.chans.get ch with source := source, output := out } } }

variable {source : Source} {out : Nat} (hc : s.choose ch = (source, out))
include hc

theorem State.arbitrate_of_same (h : source = (s.tga.chans.get ch).source) :
    s.arbitrate ch = s.chosen ch source out := by
  unfold State.arbitrate
  dsimp only
  rw [hc]
  exact if_pos h

theorem State.arbitrate_of_drive (h : source ≠ (s.tga.chans.get ch).source) (hp : source ≠ .park) :
    s.arbitrate ch = (s.chosen ch source out).sends [.phcSource ch source] := by
  unfold State.arbitrate
  dsimp only
  rw [hc, if_neg h, if_neg hp, State.hand_eq_sends]
  rfl

theorem State.arbitrate_of_park (h : source ≠ (s.tga.chans.get ch).source) (hp : source = .park) :
    s.arbitrate ch = ((s.chosen ch source out).updChan ch fun p => { p with presented := 0 }).sends
      [.phcSource ch source] := by
  unfold State.arbitrate
  dsimp only
  rw [hc, if_neg h, if_pos hp, State.hand_eq_sends]
  rfl

end

/-! ### The operating point (R95 to R97) -/

section
variable {s t : State} {fields : List Field}

theorem exec_oppt_of_begins (hb : s.begins .OPPT fields t) : exec (.oppt fields) s = .next (t.doOppt fields) :=
  exec_of_begins (act := fun s => s.doOppt fields) rfl hb

theorem State.doOppt_of_malformed
    (h : ∀ load temp kpa t1 t2 t3 t4 lift, fields ≠ opptLine load temp kpa t1 t2 t3 t4 lift) (s : State) :
    s.doOppt fields = s.answer .OPPT .format := by
  have hf : opptFormat fields = false := by
    refine Bool.eq_false_iff.mpr fun hf => ?_
    obtain ⟨load, temp, kpa, t1, t2, t3, t4, lift, rfl⟩ := (opptFormat_iff fields).mp hf
    exact h _ _ _ _ _ _ _ _ rfl
  unfold State.doOppt
  rw [hf]
  rfl

variable {load temp kpa : Int} {t1 t2 t3 t4 : Option Int} {lift : Option Bool}

theorem State.doOppt_of_record {o : Oppt} (h : opptRecord? (opptLine load temp kpa t1 t2 t3 t4 lift) = some o) (s : State) :
    s.doOppt (opptLine load temp kpa t1 t2 t3 t4 lift) = (s.acceptOppt o).answer .OPPT .ok := by
  have hf := (opptFormat_iff _).mpr ⟨load, temp, kpa, t1, t2, t3, t4, lift, rfl⟩
  unfold State.doOppt
  rw [hf, h]
  rfl

theorem State.doOppt_of_no_record (h : opptRecord? (opptLine load temp kpa t1 t2 t3 t4 lift) = none) (s : State) :
    s.doOppt (opptLine load temp kpa t1 t2 t3 t4 lift) = s.answer .OPPT .range := by
  have hf := (opptFormat_iff _).mpr ⟨load, temp, kpa, t1, t2, t3, t4, lift, rfl⟩
  unfold State.doOppt
  rw [hf, h]
  rfl

end

/-- A line spelled from natural numbers is the line of the same integers. -/
theorem target_eq_opptTarget (x : Option Nat) : (x.elim .absent fun n => .num n : Field) =
    (x.map Int.ofNat).elim .absent .num := by
  cases x <;> rfl

theorem Option.map_toNat_ofNat (x : Option Nat) : (x.map Int.ofNat).map Int.toNat = x := by
  cases x <;> rfl

/-- The fields of an OPPT spelled from natural numbers. -/
theorem opptRecord?_of_nats {load kpa : Nat} {temp : Int} {t1 t2 t3 t4 : Option Nat} (lift : Option Bool)
    (hl : load ≤ 1000) (ht : -40 ≤ temp ∧ temp ≤ 150) (hk : kpa ≤ 1000)
    (hx : ∀ x n, x ∈ [t1, t2, t3, t4] → x = some n → n ≤ 960) :
    opptRecord? (opptLine load temp kpa (t1.map Int.ofNat) (t2.map Int.ofNat) (t3.map Int.ofNat) (t4.map Int.ofNat)
      lift) = some ⟨load, temp, kpa, ⟨t1, t2, t3, t4⟩, lift⟩ := by
  have hin : ∀ x ∈ [t1.map Int.ofNat, t2.map Int.ofNat, t3.map Int.ofNat, t4.map Int.ofNat], ∀ n, x = some n →
      0 ≤ n ∧ n ≤ 960 := by
    intro x hmem n hn
    have hmem' : x ∈ [t1, t2, t3, t4].map (Option.map Int.ofNat) := hmem
    obtain ⟨y, hy, rfl⟩ := List.mem_map.mp hmem'
    obtain ⟨m, hm, rfl⟩ := Option.map_eq_some_iff.mp hn
    have := hx y m hy hm
    simp only [Int.ofNat_eq_natCast]
    omega
  rw [opptRecord?_of_within _ _ _ _ _ _ _ _ (by omega) ht (by omega) hin]
  simp only [Option.map_toNat_ofNat, Int.toNat_natCast]

/-- `s` with the operating point `o` in it (R96). -/
def State.pointed (s : State) (o : Oppt) : State :=
  { s with tga := { s.tga with
    record := some o
    fresh := .fresh
    stale := some (s.now + ms s.tbm.tuning.dev.staleMs, ms s.tbm.tuning.dev.staleMs)
    staleReported := false } }

theorem State.hostBack_eq (s : State) : s.hostBack = State.sends { s with tga := { s.tga with staleReported := false } }
    (if s.tga.staleReported then [.report .tga .hostStale .gone] else []) := by
  unfold State.hostBack
  by_cases h : s.tga.staleReported = true
  · rw [if_pos h, if_pos h, State.report_eq_sends]
  · rw [if_neg h, if_neg h, State.sends_nil]
    obtain ⟨hf⟩ : PLift (s.tga.staleReported = false) := ⟨by simpa using h⟩
    rw [← hf]

theorem State.acceptOppt_eq (s : State) (o : Oppt) : s.acceptOppt o = (forEach allChans State.arbitrate
    ((s.pointed o).sends (if s.tga.staleReported then [.report .tga .hostStale .gone] else []))).sends
      [.phcOil o.oilKpa, .phcOpptChanged] := by
  unfold State.acceptOppt
  dsimp only
  rw [State.hostBack_eq, State.hand_eq_sends, State.hand_eq_sends, State.sends_sends]
  rfl

/-! ### Staleness and cycles (R97, R104) -/

/-- A map is looked up for the channel at a cycle's start (R104). -/
def State.looksUp (s : State) (ch : Chan) : Prop :=
  s.smc.mode = .run ∧ s.chanBound ch = true ∧ (s.tbm.maps.get ch).available = true ∧ s.tga.fresh = .fresh

theorem State.looksUp_iff (s : State) (ch : Chan) :
    (s.inRun && s.chanBound ch && (s.tbm.maps.get ch).available && s.tga.fresh == .fresh) = true ↔ s.looksUp ch := by
  simp only [Bool.and_eq_true, s.inRun_iff, beq_iff_eq, and_assoc]
  rfl

section
variable {s : State} {ch : Chan}

theorem State.mapOutputNow_of_not_looked (h : ¬ s.looksUp ch) : s.mapOutputNow ch = none := by
  unfold State.mapOutputNow
  dsimp only
  split
  · exact if_neg (mt (s.looksUp_iff ch).mp h)
  · rfl

theorem State.mapOutputNow_of_looked (h : s.looksUp ch) {o : Oppt} (ho : s.tga.record = some o) {c : CamItem}
    (hc : s.tbm.inForce.cam.get ch = some c) : s.mapOutputNow ch =
      some ((s.tbm.maps.get ch).data.lookup s.ckt.rpm o.load o.oilTemp c.range) := by
  unfold State.mapOutputNow
  rw [ho]
  dsimp only
  rw [if_pos ((s.looksUp_iff ch).mpr h), State.chanRange_of_some hc]

end

/-- `s` at the staleness timer's time `x`: the point is stale and no map output stands (R97). -/
def State.lapsed (s : State) (x period : Time) : State := { s with
  now := max s.now x
  tga := { s.tga with
    fresh := .stale
    stale := some (max s.now x + period, period)
    chans := s.tga.chans.map fun _ r => { r with mapOutput := none } } }

theorem State.lapsed_arbitrateAll (s : State) (x period : Time) :
    (s.lapsed x period).arbitrateAll.smc.mode = s.smc.mode ∧
      (s.lapsed x period).arbitrateAll.ckt.state = s.ckt.state := by
  simp [State.lapsed]

/-- The report that the operating point is stale, made only while the engine turns in RUN (R97). -/
def State.reportStale (s : State) : State :=
  if s.inRun && s.ckt.state != .stopped then
    ({ s with tga := { s.tga with staleReported := true } } : State).report .tga .hostStale .present
  else s

theorem State.reportStale_eq (s : State) : s.reportStale = if s.smc.mode = .run ∧ s.ckt.state ≠ .stopped then
    State.sends { s with tga := { s.tga with staleReported := true } } [.report .tga .hostStale .present] else s := by
  have hcond : (s.inRun && s.ckt.state != .stopped) = true ↔ s.smc.mode = .run ∧ s.ckt.state ≠ .stopped := by
    rw [Bool.and_eq_true, s.inRun_iff, bne_iff_ne]
  simp only [State.reportStale, hcond, State.report_eq_sends]

theorem State.staleExpires_eq (s : State) (period : Time) : s.staleExpires period =
    ({ s with tga := { s.tga with fresh := .stale, stale := some (s.now + period, period) } } :
      State).dropMapOutputs.arbitrateAll.reportStale := by
  unfold State.staleExpires State.reportStale
  dsimp only

theorem exec_stalenessTimerExpiry {s : State} {x period : Time} (h : s.tga.stale = some (x, period)) :
    exec .stalenessTimerExpiry s = .next (s.lapsed x period).arbitrateAll.reportStale := by
  have he : exec .stalenessTimerExpiry s = execStalenessTimerExpiry s := rfl
  rw [he, execStalenessTimerExpiry, h]
  dsimp only
  rw [State.staleExpires_eq]
  exact congrArg (fun q : State => Host.Outcome.next q.arbitrateAll.reportStale) rfl

/-- The arbiter's records as a cycle starts: each with the map output that the cycle gives (R104). -/
def State.cycled (s : State) : PerChan TgaChan :=
  s.tga.chans.map fun ch r => { r with mapOutput := s.mapOutputNow ch }

theorem State.tgaCycle_eq (s : State) :
    s.tgaCycle = forEach allChans State.arbitrate { s with tga := { s.tga with chans := s.cycled } } := by
  unfold State.tgaCycle State.arbitrateAll State.cycled
  exact congrArg _ rfl

theorem exec_tgaCycleStart {s t : State} {angle : Nat} {cycle : Word32} (ho : s.offers (.tgaCycleStart angle cycle) t) :
    exec .tgaCycleStart s =
      .next (forEach allChans State.arbitrate { t with tga := { t.tga with chans := t.cycled } }) := by
  have he : exec .tgaCycleStart s = execTgaCycleStart s := rfl
  rw [he, execTgaCycleStart_of_offers angle cycle ho, State.tgaCycle_eq]

/-- Settles O39: the arbiter's choice by the first of its cases, then the four events at which it chooses. -/
theorem theArbiterChoosesAtPointsAndCycles : Obligations.TheArbiterChoosesAtPointsAndCycles := by
  refine ⟨fun s ch => ?_, fun s t fields hb => ⟨⟨fun h => ?_, fun load temp kpa t1 t2 t3 t4 lift hf h => ?_⟩, ?_⟩,
    fun s x period hx => ?_, fun s t angle cycle ho => ?_, fun s t ch a ho => ?_⟩
  · intro r open_ host settles
    have hsettle {source : Source} {out : Nat} (hc : s.choose ch = (source, out)) : settles source out :=
      ⟨State.arbitrate_of_same hc, State.arbitrate_of_drive hc, fun h hp => State.arbitrate_of_park hc h hp⟩
    refine ⟨fun h => hsettle (State.choose_of_closed h), fun x c h hx hcam => ?_,
      fun m h hx hm => hsettle (State.choose_of_map h hx hm),
      fun h hx hm => hsettle (State.choose_of_nothing h hx hm)⟩
    have hhost := State.choose_of_host h hx
    rw [State.chanRange_of_some hcam] at hhost
    exact hsettle hhost
  · rw [exec_oppt_of_begins hb, State.doOppt_of_malformed h]
  · rw [exec_oppt_of_begins hb, hf]
    exact congrArg _ (State.doOppt_of_no_record (opptRecord?_of_beyond _ _ _ _ _ _ _ lift h) t)
  · intro load kpa temp t1 t2 t3 t4 lift target hf hl ht0 ht1 hk hx
    have hline : fields = opptLine load temp kpa (t1.map Int.ofNat) (t2.map Int.ofNat) (t3.map Int.ofNat)
        (t4.map Int.ofNat) lift := by
      rw [hf, opptLine]
      simp only [target, target_eq_opptTarget]
    rw [exec_oppt_of_begins hb, hline,
      State.doOppt_of_record (opptRecord?_of_nats lift hl ⟨ht0, ht1⟩ hk hx), State.acceptOppt_eq]
    exact congrArg (fun q => Host.Outcome.next ((State.sends (forEach allChans State.arbitrate q)
      [.phcOil kpa, .phcOpptChanged]).answer .OPPT .ok)) rfl
  · obtain ⟨hmode, hstate⟩ := s.lapsed_arbitrateAll x period
    intro now turning q
    have hq : q = (s.lapsed x period).arbitrateAll := congrArg State.arbitrateAll rfl
    rw [exec_stalenessTimerExpiry hx, State.reportStale_eq, hmode, hstate, ← hq]
    exact ⟨fun h => congrArg _ (if_neg h), fun h => congrArg _ (if_pos h)⟩
  · refine ⟨t.cycled, exec_tgaCycleStart ho, fun ch => ?_⟩
    intro looked
    rw [State.cycled, PerChan.get_map]
    exact ⟨rfl, fun h => State.mapOutputNow_of_not_looked h, fun o c h hr hc => State.mapOutputNow_of_looked h hr hc⟩
  · exact execTgaResponseChange_of_offers ch a ho

end Sys2Proof.Machine
end

section
/-! Proofs about the Valve Drivers (R111 to R119): the judgement of on periods, the periods of the OCV outputs, enable
evaluations, writes, solenoid requests and short circuits. -/

namespace Sys2Proof.Machine

/-! ### One output's record -/

theorem PerOcv.set_set {α : Type} (p : PerOcv α) (o : LineABCD) (a b : α) : (p.set o a).set o b = p.set o b := by
  cases o <;> rfl

theorem PerOcv.set_get {α : Type} (p : PerOcv α) (o : LineABCD) : p.set o (p.get o) = p := by cases o <;> rfl

theorem PerLs.set_set {α : Type} (p : PerLs α) (o : LineAB) (a b : α) : (p.set o a).set o b = p.set o b := by
  cases o <;> rfl

theorem PerLs.set_get {α : Type} (p : PerLs α) (o : LineAB) : p.set o (p.get o) = p := by cases o <;> rfl

/-- `s` with an OCV output's record set to `x` and `l` sent. -/
def State.putOcv (s : State) (o : LineABCD) (x : OcvRec) (l : List Handover) : State :=
  State.sends { s with vdr := { s.vdr with ocv := s.vdr.ocv.set o x } } l

/-- `s` with an LS output's record set to `x` and `l` sent. -/
def State.putLs (s : State) (o : LineAB) (x : LsRec) (l : List Handover) : State :=
  State.sends { s with vdr := { s.vdr with ls := s.vdr.ls.set o x } } l

section
variable (s : State) (o : LineABCD) (x y : OcvRec) (l m : List Handover)

theorem State.setOcv_eq_putOcv : s.setOcv o x = s.putOcv o x [] := by
  simp [State.putOcv, State.setOcv]

theorem State.updOcv_eq_putOcv (f : OcvRec → OcvRec) : s.updOcv o f = s.putOcv o (f (s.vdr.ocv.get o)) [] :=
  State.setOcv_eq_putOcv _ _ _

theorem State.putOcv_putOcv : (s.putOcv o x l).putOcv o y m = s.putOcv o y (l ++ m) := by
  simp only [State.putOcv, State.sends, PerOcv.set_set, List.append_assoc]

theorem State.putOcv_get : (s.putOcv o x l).vdr.ocv.get o = x := PerOcv.get_set_same _ _ _

theorem State.putOcv_sends : (s.putOcv o x l).sends m = s.putOcv o x (l ++ m) := by
  simp only [State.putOcv, State.sends_sends]

theorem State.putOcv_self : s.putOcv o (s.vdr.ocv.get o) [] = s := by
  simp [State.putOcv, PerOcv.set_get]

theorem State.putOcv_nil : s.putOcv o x [] = { s with vdr := { s.vdr with ocv := s.vdr.ocv.set o x } } :=
  State.sends_nil _

end

section
variable (s : State) (o : LineAB) (x y : LsRec) (l m : List Handover)

theorem State.setLs_eq_putLs : s.setLs o x = s.putLs o x [] := by
  simp [State.putLs, State.setLs]

theorem State.updLs_eq_putLs (f : LsRec → LsRec) : s.updLs o f = s.putLs o (f (s.vdr.ls.get o)) [] :=
  State.setLs_eq_putLs _ _ _

theorem State.putLs_putLs : (s.putLs o x l).putLs o y m = s.putLs o y (l ++ m) := by
  simp only [State.putLs, State.sends, PerLs.set_set, List.append_assoc]

theorem State.putLs_get : (s.putLs o x l).vdr.ls.get o = x := PerLs.get_set_same _ _ _

theorem State.putLs_sends : (s.putLs o x l).sends m = s.putLs o x (l ++ m) := by
  simp only [State.putLs, State.sends_sends]

theorem State.putLs_self : s.putLs o (s.vdr.ls.get o) [] = s := by
  simp [State.putLs, PerLs.set_get]

theorem State.putLs_nil : s.putLs o x [] = { s with vdr := { s.vdr with ls := s.vdr.ls.set o x } } :=
  State.sends_nil _

end

/-! ### The judgement (R118, R119) -/

section
variable {len tally : Nat} {below current reported : Bool}

theorem judge_of_short (h : len < 400 ∨ below = true) : judge len below current tally reported = ⟨tally, reported, none⟩ := by
  have hskip : (len < micros 200 || below) = true := by
    rw [Bool.or_eq_true, decide_eq_true_iff]
    exact h
  exact if_pos hskip

theorem judge_of_long (h : 400 ≤ len) (hb : below = false) : judge len below current tally reported =
    if current then ⟨0, false, if reported then some .gone else none⟩
    else if bump 3 tally = 3 then ⟨bump 3 tally, true, some .present⟩ else ⟨bump 3 tally, reported, none⟩ := by
  have hskip : ¬ (len < micros 200 || below) = true := by
    rw [Bool.or_eq_true, decide_eq_true_iff, hb]
    exact fun hor => hor.elim (not_lt.mpr h) Bool.false_ne_true
  exact if_neg hskip

end

theorem State.reportOpen_eq (s : State) (out : Out) (r : Option ReportKind) :
    s.reportOpen out r = s.sends (r.toList.map fun v => .report .vdr (.driverOpen out) v) := by
  cases r with
  | none => exact (State.sends_nil s).symm
  | some k => exact State.report_eq_sends s _ _ _

/-- What the judgement of an on period of an OCV output makes of its record. -/
theorem State.judgeOcv_putOcv (s : State) (o : LineABCD) (x : OcvRec) (len : Nat) (current : Bool) :
    (s.putOcv o x []).judgeOcv o len current =
      s.putOcv o { x with
        openTally := (judge len (s.smc.supplyState == .belowDrive) current x.openTally x.openReported).tally
        openReported := (judge len (s.smc.supplyState == .belowDrive) current x.openTally x.openReported).reported }
        ((judge len (s.smc.supplyState == .belowDrive) current x.openTally x.openReported).report.toList.map fun v =>
          .report .vdr (.driverOpen (.ocv o)) v) := by
  have hbelow : (s.putOcv o x []).belowDrive = (s.smc.supplyState == .belowDrive) := rfl
  unfold State.judgeOcv
  dsimp only
  rw [State.putOcv_get, hbelow, State.setOcv_eq_putOcv, State.putOcv_putOcv, State.reportOpen_eq, State.putOcv_sends]
  rfl

/-- What the judgement of an on period of an LS output makes of its record. -/
theorem State.judgeLs_putLs (s : State) (o : LineAB) (x : LsRec) (len : Nat) (current : Bool) :
    (s.putLs o x []).judgeLs o len current =
      s.putLs o { x with
        openTally := (judge len (s.smc.supplyState == .belowDrive) current x.openTally x.openReported).tally
        openReported := (judge len (s.smc.supplyState == .belowDrive) current x.openTally x.openReported).reported }
        ((judge len (s.smc.supplyState == .belowDrive) current x.openTally x.openReported).report.toList.map fun v =>
          .report .vdr (.driverOpen (.ls o)) v) := by
  have hbelow : (s.putLs o x []).belowDrive = (s.smc.supplyState == .belowDrive) := rfl
  unfold State.judgeLs
  dsimp only
  rw [State.putLs_get, hbelow, State.setLs_eq_putLs, State.putLs_putLs, State.reportOpen_eq, State.putLs_sends]
  rfl

/-! ### Periods (R112, R113) -/

section
variable {s : State} {o : LineABCD} {current : Bool}

theorem State.nextPeriod_eq : s.nextPeriod o =
    s.putOcv o (OcvRec.begin_ { s.vdr.ocv.get o with active := (s.vdr.ocv.get o).pending } s.timeBase) [] :=
  State.updOcv_eq_putOcv _ _ _

theorem State.nextPeriod_putOcv (x : OcvRec) (l : List Handover) : (s.putOcv o x l).nextPeriod o =
    s.putOcv o (OcvRec.begin_ { x with active := x.pending } s.timeBase) l := by
  rw [State.nextPeriod_eq, State.putOcv_get, State.putOcv_putOcv, List.append_nil]
  rfl

theorem exec_ocvPeriodStart_of_idle (h : (s.vdr.ocv.get o).enabled = false ∨ (s.vdr.ocv.get o).lineOn = true ∨
    ∃ d, .dutyWrite o d true ∈ s.handovers) : exec (.ocvPeriodStart o) s = .next s := by
  refine if_neg ?_
  rw [← s.writeAtOnce_iff] at h
  rcases h with h | h | h <;> simp [h]

theorem exec_ocvPeriodStart (he : (s.vdr.ocv.get o).enabled = true) (hl : (s.vdr.ocv.get o).lineOn = false)
    (hw : ¬ ∃ d, .dutyWrite o d true ∈ s.handovers) : exec (.ocvPeriodStart o) s =
      .next ((s.passTo (s.vdr.ocv.get o).periodStart (micros (s.vdr.ocv.get o).period)).nextPeriod o) := by
  rw [← s.writeAtOnce_iff] at hw
  exact if_pos (by simp [he, hl, hw])

theorem exec_onPeriodEnd_of_idle (h : (s.vdr.ocv.get o).lineOn = false ∨ 1000 ≤ (s.vdr.ocv.get o).active ∧
    ∃ d, .dutyWrite o d true ∈ s.handovers) : exec (.onPeriodEnd o current) s = .next s := by
  rw [← s.writeAtOnce_iff] at h
  have he : exec (.onPeriodEnd o current) s = execOnPeriodEnd o current s := rfl
  rw [he, execOnPeriodEnd]
  dsimp only
  rcases h with h | ⟨hd, hw⟩
  · rw [if_pos (by simp [h])]
  · rw [if_neg (not_lt.mpr hd), if_pos hw, ite_self]

/-- The high time ends before the period does. -/
theorem exec_onPeriodEnd_of_part (hl : (s.vdr.ocv.get o).lineOn = true) (hd : (s.vdr.ocv.get o).active < 1000) :
    exec (.onPeriodEnd o current) s = .next
      (((s.passTo (s.vdr.ocv.get o).periodStart (micros (s.vdr.ocv.get o).high)).putOcv o
        { s.vdr.ocv.get o with lineOn := false } []).judgeOcv o (micros (s.vdr.ocv.get o).high) current) := by
  have he : exec (.onPeriodEnd o current) s = execOnPeriodEnd o current s := rfl
  rw [he, execOnPeriodEnd]
  dsimp only
  rw [if_neg (by simp [hl]), if_pos hd, State.setOcv_eq_putOcv]

/-- The high time is the whole period. -/
theorem exec_onPeriodEnd_of_full (hl : (s.vdr.ocv.get o).lineOn = true) (hd : 1000 ≤ (s.vdr.ocv.get o).active)
    (hw : ¬ ∃ d, .dutyWrite o d true ∈ s.handovers) : exec (.onPeriodEnd o current) s = .next
      ((((s.passTo (s.vdr.ocv.get o).periodStart (micros (s.vdr.ocv.get o).period)).putOcv o
        { s.vdr.ocv.get o with lineOn := false } []).judgeOcv o (micros (s.vdr.ocv.get o).period) current).nextPeriod
          o) := by
  rw [← s.writeAtOnce_iff] at hw
  have he : exec (.onPeriodEnd o current) s = execOnPeriodEnd o current s := rfl
  rw [he, execOnPeriodEnd]
  dsimp only
  rw [if_neg (by simp [hl]), if_neg (not_lt.mpr hd), if_neg hw, State.setOcv_eq_putOcv]

end

/-- Settles O41: the judgement by its branches, then the three ends of a period. -/
theorem ocvPeriodsRunAndAreJudged : Obligations.OcvPeriodsRunAndAreJudged := by
  refine ⟨fun len tally below current reported => ⟨fun h => judge_of_short h, fun h hb hc => ?_, fun h hb hc ht => ?_,
    fun h hb hc ht => ?_⟩, fun s o current => ?_⟩
  · rw [judge_of_long h hb, if_pos hc]
  · have hbump : bump 3 tally = tally + 1 := if_pos (by omega)
    rw [judge_of_long h hb, if_neg (by simp [hc]), hbump, if_neg (by omega)]
  · have hbump : bump 3 tally = 3 := by rcases ht with rfl | rfl <;> rfl
    rw [judge_of_long h hb, if_neg (by simp [hc]), hbump, if_pos rfl]
  · intro r high put ended next writing
    refine ⟨exec_ocvPeriodStart_of_idle, exec_onPeriodEnd_of_idle, fun b hb => ?_⟩
    intro age t h
    have ht : s.passTo r.periodStart (micros r.period) = t := by rw [hb]; rfl
    have hh : s.passTo r.periodStart (micros r.high) = h := by rw [hb]; rfl
    refine ⟨fun he hl hw => ?_, fun hl hd => ?_, fun hl hd hw => ?_⟩
    · rw [exec_ocvPeriodStart he hl hw, ht, State.nextPeriod_eq, State.putOcv_nil]
      rfl
    · rw [exec_onPeriodEnd_of_part hl hd, hh, State.judgeOcv_putOcv]
      rfl
    · rw [exec_onPeriodEnd_of_full hl hd hw, ht, State.judgeOcv_putOcv, State.nextPeriod_putOcv]
      rfl

end Sys2Proof.Machine
end

section
/-! Proofs about what the Valve Drivers take: enable evaluations, writes, solenoid requests, short circuits and driver
clears (R111, R113, R115 to R118). -/

namespace Sys2Proof.Machine

/-! ### A line goes OFF (R113, R115, R118) -/

theorem State.age_eq (s : State) (x : Option Word32) : s.age x =
    (BitVec.ofNat 32 s.now - x.getD (BitVec.ofNat 32 s.now)).toNat := by
  cases x with
  | none =>
    rw [Option.getD_none, BitVec.sub_self]
    rfl
  | some b => rfl

section
variable {s : State} {current : Bool}

theorem State.cutOcv_of_off {o : LineABCD} (h : (s.vdr.ocv.get o).lineOn = false) : s.cutOcv o current = s :=
  if_neg (by simp [h])

theorem State.cutOcv_of_on {o : LineABCD} (h : (s.vdr.ocv.get o).lineOn = true) : s.cutOcv o current =
    (s.putOcv o { s.vdr.ocv.get o with lineOn := false } []).judgeOcv o (s.age (s.vdr.ocv.get o).periodStart)
      current := by
  rw [← State.setOcv_eq_putOcv]
  exact if_pos h

theorem State.cutLs_of_off {o : LineAB} (h : (s.vdr.ls.get o).lineOn = false) : s.cutLs o current = s :=
  if_neg (by simp [h])

theorem State.cutLs_of_on {o : LineAB} (h : (s.vdr.ls.get o).lineOn = true) : s.cutLs o current =
    (s.putLs o { s.vdr.ls.get o with lineOn := false, onSince := none } []).judgeLs o
      (s.age (s.vdr.ls.get o).onSince) current := by
  rw [← State.setLs_eq_putLs]
  exact if_pos h

theorem exec_lsOnLimit_of_off {o : LineAB} (h : (s.vdr.ls.get o).lineOn = false) :
    exec (.lsOnLimit o current) s = .next s :=
  if_neg (by simp [h])

theorem exec_lsOnLimit_of_on {o : LineAB} (h : (s.vdr.ls.get o).lineOn = true) : exec (.lsOnLimit o current) s = .next
    (((s.passTo (s.vdr.ls.get o).onSince (ms 50)).putLs o
      { s.vdr.ls.get o with lineOn := false, onSince := none } []).judgeLs o (ms 50) current) := by
  rw [← State.setLs_eq_putLs]
  exact if_pos h

end

/-! ### Writes and solenoid requests (R111, R113, R115) -/

theorem State.normalWrite_eq (s : State) (o : LineABCD) (d : Nat) : s.normalWrite o d =
    if (s.vdr.ocv.get o).enabled then s.putOcv o { s.vdr.ocv.get o with pending := d } [] else s := by
  by_cases h : (s.vdr.ocv.get o).enabled = true
  · rw [if_pos h, State.normalWrite, State.updOcv_eq_putOcv, if_pos h]
  · rw [if_neg h, State.normalWrite, State.updOcv_eq_putOcv, if_neg h, State.putOcv_self]

theorem State.immediateWrite_eq (s : State) (o : LineABCD) (d : Nat) (current : Bool) : s.immediateWrite o d current =
    if (s.vdr.ocv.get o).enabled then (s.cutOcv o current).putOcv o
      (OcvRec.begin_ { (s.cutOcv o current).vdr.ocv.get o with active := d, pending := d } s.timeBase) [] else s := by
  rw [← State.updOcv_eq_putOcv _ _ fun r => OcvRec.begin_ { r with active := d, pending := d } s.timeBase]
  rfl

theorem State.energizeLs_eq (s : State) (o : LineAB) : s.energizeLs o =
    if (s.vdr.ls.get o).enabled && !(s.vdr.ls.get o).tripped && !(s.vdr.ls.get o).lineOn then
      s.putLs o { s.vdr.ls.get o with lineOn := true, onSince := some s.timeBase } [] else s := by
  by_cases h : ((s.vdr.ls.get o).enabled && !(s.vdr.ls.get o).tripped && !(s.vdr.ls.get o).lineOn) = true
  · rw [if_pos h, State.energizeLs, State.updLs_eq_putLs, if_pos h]
  · rw [if_neg h, State.energizeLs, State.updLs_eq_putLs, if_neg h, State.putLs_self]

section
variable {s : State}

/-- What was written to a DISABLED output waits for the enable evaluation on its way (R111). -/
theorem State.taking_wantDuty_of_disabled {o : LineABCD} (he : (s.vdr.ocv.get o).enabled = false)
    (hn : .enableEvaluation (.ocv o) ∈ s.handovers) (i : Bool) (act : Nat → State → State) :
    s.taking (wantDuty o i) act = s := by
  refine State.taking_of_all_held fun x _ => ?_
  by_cases hx : ∃ d, x = .dutyWrite o d i
  · obtain ⟨d, rfl⟩ := hx
    exact .inr ((s.heldBack_dutyWrite o d i).mpr ⟨he, hn⟩)
  · refine .inl ?_
    unfold wantDuty
    split
    · next o' d i' _ => exact if_neg fun h => hx ⟨d, by rw [h.1, h.2]⟩
    · rfl

/-- What was asked of a DISABLED output waits for the enable evaluation on its way (R111). -/
theorem State.taking_wantSolenoid_of_disabled {o : LineAB} (he : (s.vdr.ls.get o).enabled = false)
    (hn : .enableEvaluation (.ls o) ∈ s.handovers) (on : Bool) (act : Unit → State → State) :
    s.taking (wantSolenoid o on) act = s := by
  refine State.taking_of_all_held fun x _ => ?_
  by_cases hx : x = .solenoid o on
  · rw [hx]
    exact .inr ((s.heldBack_solenoid o on).mpr ⟨he, hn⟩)
  · refine .inl ?_
    unfold wantSolenoid
    split
    · next o' b _ => exact if_neg fun h => hx (by rw [h.1, h.2])
    · rfl

end

/-! ### Short circuits (R116, R117) -/

theorem State.trip_ocv (s : State) (o : LineABCD) : s.trip (.ocv o) =
    if (s.vdr.ocv.get o).lineOn then s.putOcv o { s.vdr.ocv.get o with lineOn := false, tripped := true }
      [.report .vdr (.driverShort (.ocv o)) .event] else s := by
  unfold State.trip
  dsimp only
  rw [State.setOcv_eq_putOcv, State.report_eq_sends, State.putOcv_sends, List.nil_append]

theorem State.trip_ls (s : State) (o : LineAB) : s.trip (.ls o) =
    if (s.vdr.ls.get o).lineOn then
      s.putLs o { s.vdr.ls.get o with lineOn := false, onSince := none, tripped := true }
        [.report .vdr (.driverShort (.ls o)) .event] else s := by
  unfold State.trip
  dsimp only
  rw [State.setLs_eq_putLs, State.report_eq_sends, State.putLs_sends, List.nil_append]

/-- Settles O43: the cuts, the writes, the solenoid requests, what waits, the trips and the clears. -/
theorem writesSolenoidsAndShorts : Obligations.WritesSolenoidsAndShorts := by
  refine ⟨fun s o current => ⟨State.cutOcv_of_off, fun h => ?_⟩, fun s o current => ?_,
    fun s t o d current => ⟨fun ho => ?_, fun ho => ?_⟩, fun s t o current => ⟨fun ho => ?_, fun ho => ?_⟩,
    fun s current => ⟨fun o he hn => ⟨?_, ?_⟩, fun o he hn => ⟨?_, ?_⟩⟩,
    fun s dt => ⟨fun o => ?_, fun o => ?_⟩, fun s t => ⟨fun o ho => ?_, fun o ho => ?_⟩⟩
  · rw [State.cutOcv_of_on h, State.judgeOcv_putOcv, State.age_eq]
    rfl
  · intro r j off age
    refine ⟨fun h => ⟨State.cutLs_of_off h, exec_lsOnLimit_of_off h⟩, fun h => ⟨?_, ?_⟩⟩
    · rw [State.cutLs_of_on h, State.judgeLs_putLs, State.age_eq]
      rfl
    · rw [exec_lsOnLimit_of_on h, State.judgeLs_putLs, State.passTo, State.age_eq]
      rfl
  · refine (execNormalWrite_of_offers o d ho).trans (congrArg _ ?_)
    rw [State.normalWrite_eq, State.putOcv_nil]
  · refine (execImmediateWrite_of_offers o d current ho).trans (congrArg _ ?_)
    rw [State.immediateWrite_eq, State.putOcv_nil]
    rfl
  · refine (execEnergize_of_offers o ho).trans (congrArg _ ?_)
    rw [State.energizeLs_eq, State.putLs_nil]
    rfl
  · exact execDeEnergize_of_offers o current ho
  · exact congrArg _ (State.taking_wantDuty_of_disabled he hn false _)
  · exact congrArg _ (State.taking_wantDuty_of_disabled he hn true _)
  · exact congrArg _ (State.taking_wantSolenoid_of_disabled he hn true _)
  · exact congrArg _ (State.taking_wantSolenoid_of_disabled he hn false _)
  · exact congrArg Host.Outcome.next ((s.pass dt).trip_ocv o)
  · exact congrArg Host.Outcome.next ((s.pass dt).trip_ls o)
  · exact execVdrDriverClear_of_offers (.ocv o) ho
  · exact execVdrDriverClear_of_offers (.ls o) ho

/-! ### Enable evaluations (R111) -/

section
variable {s : State}

theorem State.ocvMayRun_iff (o : LineABCD) : s.ocvMayRun o = true ↔ s.smc.mode = .run ∧
    ∃ ch, (s.vdr.ocv.get o).binding = some ch ∧ (s.phc.chans.get ch).state ≠ .faulted ∧
      (s.phc.chans.get ch).state ≠ .lockout := by
  unfold State.ocvMayRun
  rw [Bool.and_eq_true, s.inRun_iff]
  refine and_congr_right fun _ => ?_
  cases (s.vdr.ocv.get o).binding with
  | none => simp
  | some ch =>
    have hone : (∃ c, some ch = some c ∧ (s.phc.chans.get c).state ≠ .faulted ∧ (s.phc.chans.get c).state ≠ .lockout) ↔
        (s.phc.chans.get ch).state ≠ .faulted ∧ (s.phc.chans.get ch).state ≠ .lockout := by simp
    rw [hone]
    dsimp only
    cases (s.phc.chans.get ch).state <;> decide

theorem State.lsMayRun_iff (o : LineAB) : s.lsMayRun o = true ↔ s.smc.mode = .run ∧
    ∃ u, (s.vdr.ls.get o).binding = some u ∧ (s.lfs.units.get u).state ≠ .stuck := by
  unfold State.lsMayRun
  rw [Bool.and_eq_true, s.inRun_iff]
  refine and_congr_right fun _ => ?_
  cases (s.vdr.ls.get o).binding with
  | none => simp
  | some u => simp

variable {current : Bool}

theorem State.evalOcv_of_enable {o : LineABCD} (hm : s.ocvMayRun o = true) (he : (s.vdr.ocv.get o).enabled = false) :
    s.evalOcv o current = s.putOcv o { s.vdr.ocv.get o with
      enabled := true, active := 0, pending := 0, periodStart := some s.timeBase, lineOn := false } [] := by
  unfold State.evalOcv
  dsimp only
  rw [hm, he, ← State.setOcv_eq_putOcv]
  simp [OcvRec.begin_, OcvRec.high]

theorem State.evalOcv_of_disable {o : LineABCD} (hm : s.ocvMayRun o = false) (he : (s.vdr.ocv.get o).enabled = true) :
    s.evalOcv o current = s.disableOcv o current := by
  unfold State.evalOcv
  dsimp only
  rw [hm, he]

theorem State.evalOcv_of_same {o : LineABCD} (h : s.ocvMayRun o = (s.vdr.ocv.get o).enabled) :
    s.evalOcv o current = s := by
  unfold State.evalOcv
  dsimp only
  rw [h]
  cases (s.vdr.ocv.get o).enabled <;> rfl

theorem State.evalLs_of_enable {o : LineAB} (hm : s.lsMayRun o = true) (he : (s.vdr.ls.get o).enabled = false) :
    s.evalLs o current = s.putLs o { s.vdr.ls.get o with enabled := true } [] := by
  unfold State.evalLs
  dsimp only
  rw [hm, he, ← State.setLs_eq_putLs]

theorem State.evalLs_of_disable {o : LineAB} (hm : s.lsMayRun o = false) (he : (s.vdr.ls.get o).enabled = true) :
    s.evalLs o current = s.disableLs o current := by
  unfold State.evalLs
  dsimp only
  rw [hm, he]

theorem State.evalLs_of_same {o : LineAB} (h : s.lsMayRun o = (s.vdr.ls.get o).enabled) :
    s.evalLs o current = s := by
  unfold State.evalLs
  dsimp only
  rw [h]
  cases (s.vdr.ls.get o).enabled <;> rfl

theorem State.disableOcv_eq (o : LineABCD) : s.disableOcv o current =
    (s.cutOcv o current).putOcv o { (s.cutOcv o current).vdr.ocv.get o with
      enabled := false, active := 0, pending := 0, periodStart := none, lineOn := false, openTally := 0
      openReported := false }
      (if ((s.cutOcv o current).vdr.ocv.get o).openReported then [.report .vdr (.driverOpen (.ocv o)) .gone] else []) := by
  unfold State.disableOcv
  dsimp only
  rw [State.setOcv_eq_putOcv, State.report_eq_sends, State.sends_if, State.putOcv_sends, List.nil_append]

theorem State.disableLs_eq (o : LineAB) : s.disableLs o current =
    (s.cutLs o current).putLs o { (s.cutLs o current).vdr.ls.get o with
      enabled := false, lineOn := false, onSince := none, openTally := 0, openReported := false }
      (if ((s.cutLs o current).vdr.ls.get o).openReported then [.report .vdr (.driverOpen (.ls o)) .gone] else []) := by
  unfold State.disableLs
  dsimp only
  rw [State.setLs_eq_putLs, State.report_eq_sends, State.sends_if, State.putLs_sends, List.nil_append]

end

/-- Not a duty write to the OCV output. -/
def Handover.notDuty (o : LineABCD) : Handover → Bool
  | .dutyWrite o' _ _ => decide (o' ≠ o)
  | _ => true

/-- Not a request to the LS output. -/
def Handover.notRequest (o : LineAB) : Handover → Bool
  | .solenoid o' _ => decide (o' ≠ o)
  | _ => true

theorem Handover.not_drives_ocv (o : LineABCD) (h : Handover) : (!h.drives (.ocv o)) = h.notDuty o := by
  cases h with
  | dutyWrite o' d i => cases o <;> cases o' <;> rfl
  | _ => rfl

theorem Handover.not_drives_ls (o : LineAB) (h : Handover) : (!h.drives (.ls o)) = h.notRequest o := by
  cases h with
  | solenoid o' on => cases o <;> cases o' <;> rfl
  | _ => rfl

/-- What an enable evaluation leaves of what was handed out before it. -/
theorem filter_stale (e : Bool) (p q : Handover → Bool) (hpq : ∀ h, (!p h) = q h) (pre : List Handover) :
    pre.filter (fun h => !(!e && p h)) = if e then pre else pre.filter q := by
  cases e with
  | true => simp
  | false => simp [hpq]

theorem Handover.lane_ne_enable {out : Out} {pre : List Handover} (h : .enableEvaluation out ∉ pre) :
    ∀ y ∈ pre, y.lane ≠ .enable out := by
  intro y hy hl
  cases y <;> simp_all [Handover.lane]

section
variable {s : State} {pre post : List Handover} (current : Bool)

theorem exec_enableEvaluation_ocv {o : LineABCD} (e : s.handovers = pre ++ .enableEvaluation (.ocv o) :: post)
    (hp : .enableEvaluation (.ocv o) ∉ pre) : exec (.vdrEnableEvaluation (.ocv o) current) s = .next (State.evalOcv
      { s with handovers := (if (s.vdr.ocv.get o).enabled then pre else pre.filter (Handover.notDuty o)) ++ post } o
        current) := by
  rw [← filter_stale _ _ _ (Handover.not_drives_ocv o)]
  exact execVdrEnableEvaluation_of_before (.ocv o) current pre post e (Handover.lane_ne_enable hp)

theorem exec_enableEvaluation_ls {o : LineAB} (e : s.handovers = pre ++ .enableEvaluation (.ls o) :: post)
    (hp : .enableEvaluation (.ls o) ∉ pre) : exec (.vdrEnableEvaluation (.ls o) current) s = .next (State.evalLs
      { s with handovers := (if (s.vdr.ls.get o).enabled then pre else pre.filter (Handover.notRequest o)) ++ post } o
        current) := by
  rw [← filter_stale _ _ _ (Handover.not_drives_ls o)]
  exact execVdrEnableEvaluation_of_before (.ls o) current pre post e (Handover.lane_ne_enable hp)

end

/-- Settles O42: what stands ahead of the evaluation is dropped at a DISABLED output, then the evaluation by its cases. -/
theorem enablesFollowModeAndState : Obligations.EnablesFollowModeAndState := by
  refine fun s pre post current => ⟨fun o e hp => ?_, fun o e hp => ?_⟩
  · intro r t may u x
    have he : exec (.vdrEnableEvaluation (.ocv o) current) s = .next (t.evalOcv o current) :=
      exec_enableEvaluation_ocv current e hp
    have hmay : t.ocvMayRun o = true ↔ may := State.ocvMayRun_iff o
    refine ⟨fun hm hr => ?_, fun hm hr => ?_, fun h => ?_⟩
    · rw [he, State.evalOcv_of_enable (hmay.mpr hm) hr, State.putOcv_nil]
      rfl
    · rw [he, State.evalOcv_of_disable (Bool.eq_false_iff.mpr (mt hmay.mp hm)) hr, State.disableOcv_eq]
      rfl
    · rw [he, State.evalOcv_of_same (Bool.eq_iff_iff.mpr (hmay.trans h))]
  · intro r t may u x
    have he : exec (.vdrEnableEvaluation (.ls o) current) s = .next (t.evalLs o current) :=
      exec_enableEvaluation_ls current e hp
    have hmay : t.lsMayRun o = true ↔ may := State.lsMayRun_iff o
    refine ⟨fun hm hr => ?_, fun hm hr => ?_, fun h => ?_⟩
    · rw [he, State.evalLs_of_enable (hmay.mpr hm) hr, State.putLs_nil]
    · rw [he, State.evalLs_of_disable (Bool.eq_false_iff.mpr (mt hmay.mp hm)) hr, State.disableLs_eq]
      rfl
    · rw [he, State.evalLs_of_same (Bool.eq_iff_iff.mpr (hmay.trans h))]

end Sys2Proof.Machine
end

section
/-! Proofs about the Trace Buffer (R153 to R159): pushes, the opening, filling and closing of slots, TRCT and TRCR. -/

namespace Sys2Proof.Machine

/-! ### The trigger queue (R153) -/

section
variable {s : State} {c : TraceCause}

theorem State.push_of_space (h : s.trb.queue.length < 4) :
    s.push c = { s with trb := { s.trb with queue := s.trb.queue ++ [c] } } := if_pos h

theorem State.push_of_missed (h : 4 ≤ s.trb.queue.length) (hc : c = .fault .traceMissed) : s.push c = s :=
  (if_neg (not_lt.mpr h)).trans (if_pos hc)

theorem State.push_of_full (h : 4 ≤ s.trb.queue.length) (hc : c ≠ .fault .traceMissed) :
    s.push c = s.sends [.report .trb .traceMissed .event] :=
  ((if_neg (not_lt.mpr h)).trans (if_neg hc)).trans (State.report_eq_sends s _ _ _)

end

/-! ### Slots (R154 to R157) -/

theorem Trb.first_of_split {b : Trb} {pre post : List TraceSlot} {x : TraceSlot} {st : SlotState}
    (h : b.slots = pre ++ x :: post) (hx : x.state = st) (hp : ∀ y ∈ pre, y.state ≠ st) :
    b.first st = some pre.length := by
  have hnone : pre.findIdx? (fun y => y.state == st) = none := by
    simpa [List.findIdx?_eq_none_iff] using hp
  rw [Trb.first, h, List.findIdx?_append, hnone]
  simp [List.findIdx?_cons, hx]

section
variable {s : State} {pre post : List TraceSlot} {x : TraceSlot}

theorem State.closeSlot_of_none (h : ∀ x ∈ s.trb.slots, x.state ≠ .filling) (lost : Bool) : s.closeSlot lost = s := by
  unfold State.closeSlot
  rw [(s.trb.first_eq_none_iff .filling).mpr h]

theorem State.closeSlot_of_split (h : s.trb.slots = pre ++ x :: post) (hx : x.state = .filling)
    (hp : ∀ y ∈ pre, y.state ≠ .filling) (lost : Bool) : s.closeSlot lost =
      State.sends { s with trb := { s.trb with slots := pre ++ s.closed x lost :: post } }
        [.notice .trb (trcNotice (pre.length + 1) (s.closed x lost))] := by
  unfold State.closeSlot
  rw [Trb.first_of_split h hx hp]
  dsimp only
  rw [Trb.slot_of_split h, State.setSlot_of_split h, State.notice_eq_sends]

variable {c : TraceCause} {rest : List TraceCause}

theorem State.openSlot_of_empty (h : s.trb.queue = []) (cycle : Word32) : s.openSlot cycle = s := by
  unfold State.openSlot
  rw [h]

theorem State.openSlot_of_free (hq : s.trb.queue = c :: rest) (h : s.trb.slots = pre ++ x :: post)
    (hx : x.state = .free) (hp : ∀ y ∈ pre, y.state ≠ .free) (cycle : Word32) : s.openSlot cycle =
      { s with trb := ⟨rest, pre ++ openedSlot c cycle s.ckt.rpm :: post⟩ } := by
  have hu : (s.updTrb fun t => { t with queue := rest }).trb.slots = pre ++ x :: post := h
  unfold State.openSlot
  rw [hq]
  dsimp only
  rw [Trb.first_of_split hu hx hp]
  dsimp only
  rw [State.setSlot_of_split hu]
  rfl

theorem State.openSlot_of_full (hq : s.trb.queue = c :: rest) (h : ∀ x ∈ s.trb.slots, x.state ≠ .free) (cycle : Word32) :
    s.openSlot cycle =
      State.sends { s with trb := { s.trb with queue := rest } } [.report .trb .traceMissed .event] := by
  have hnone : (s.updTrb fun t => { t with queue := rest }).trb.first .free = none := (Trb.first_eq_none_iff _ _).mpr h
  unfold State.openSlot
  rw [hq]
  dsimp only
  rw [hnone, State.report_eq_sends]
  rfl

theorem State.offerEdge_of_split (h : s.trb.slots = pre ++ x :: post) (hx : x.state = .filling)
    (hp : ∀ y ∈ pre, y.state ≠ .filling) (e : EdgeRecord) :
    s.offerEdge e = { s with trb := { s.trb with slots := pre ++ x.offer e :: post } } := by
  unfold State.offerEdge
  rw [Trb.first_of_split h hx hp]
  dsimp only
  rw [Trb.slot_of_split h, State.setSlot_of_split h]

end

theorem TraceSlot.offer_of_space {x : TraceSlot} (h : x.edges.length < 40) (e : EdgeRecord) :
    x.offer e = { x with offered := bump 255 x.offered, edges := x.edges ++ [e] } := if_pos h

theorem TraceSlot.offer_of_full {x : TraceSlot} (h : 40 ≤ x.edges.length) (e : EdgeRecord) :
    x.offer e = { x with offered := bump 255 x.offered, truncated := true } := if_neg (not_lt.mpr h)

/-! ### Lock lost (R157) -/

/-- Not a CYCLE_START for the Trace Buffer. -/
def Handover.notTrbCycle : Handover → Bool
  | .trbCycleStart _ _ => false
  | _ => true

/-- Not an edge record. -/
def Handover.notEdge : Handover → Bool
  | .trbEdge _ => false
  | _ => true

theorem Handover.not_wantTrbCycle (h : Handover) : (!(wantTrbCycle h).isSome) = h.notTrbCycle := by
  cases h <;> rfl

theorem Handover.wantEdge_isNone (h : Handover) : (wantEdge h).isNone = h.notEdge := by
  cases h <;> rfl

theorem State.offerHanded_of_split {s : State} {pre post : List TraceSlot} {x : TraceSlot}
    (h : s.trb.slots = pre ++ x :: post) (hx : x.state = .filling) (hp : ∀ y ∈ pre, y.state ≠ .filling) :
    s.offerHanded = { s with
      handovers := s.handovers.filter Handover.notEdge
      trb := { s.trb with
        slots := pre ++ (s.handovers.filterMap wantEdge).foldl TraceSlot.offer x :: post } } := by
  have hfilter : (s.handovers.filter fun h => (wantEdge h).isNone) = s.handovers.filter Handover.notEdge :=
    List.filter_congr fun h _ => h.wantEdge_isNone
  rw [s.offerHanded_eq.2 pre x post h hx hp, hfilter]

theorem exec_trbLockLost {s : State} {pre post : List Handover} (e : s.handovers = pre ++ .trbLockLost :: post)
    (hp : .trbLockLost ∉ pre) : exec .trbLockLost s = .next (State.closeSlot (State.offerHanded
      { s with handovers := pre.filter Handover.notTrbCycle ++ post }) true) := by
  have hlane : ∀ x ∈ pre, x.lane ≠ .trbLock := by
    intro y hy hl
    cases y <;> simp_all [Handover.lane]
  have hfilter : (pre.filter fun h => !(wantTrbCycle h).isSome) = pre.filter Handover.notTrbCycle :=
    List.filter_congr fun h _ => h.not_wantTrbCycle
  rw [← hfilter]
  exact execTrbLockLost_of_before pre post e hlane

/-- Settles O44: a push by the space in the queue, a slot by whether one is FILLING, a cycle by what waits and is FREE. -/
theorem tracesOpenFillAndClose : Obligations.TracesOpenFillAndClose := by
  refine ⟨fun s t => ⟨fun c ho => ?_, fun lost h => State.closeSlot_of_none h lost,
    fun lost pre x post h hx hp => ?_, fun pre post e hp => ?_, fun angle cycle ho => ?_⟩,
    fun s t e ho => ⟨fun h => ?_, fun pre x post h hx hp => ?_⟩⟩
  · have he : exec .triggerPush s = .next (t.push c) := execTriggerPush_of_offers c ho
    rw [he]
    exact ⟨fun h => congrArg _ (State.push_of_space h), fun h hc => congrArg _ (State.push_of_missed h hc),
      fun h hc => congrArg _ (State.push_of_full h hc)⟩
  · exact State.closeSlot_of_split h hx hp lost
  · intro rest edges
    have he : exec .trbLockLost s = .next (State.closeSlot (State.offerHanded { s with handovers := rest }) true) :=
      exec_trbLockLost e hp
    refine ⟨fun h => ?_, fun front x back h hx hf => ?_⟩
    · rw [he, (State.offerHanded_eq { s with handovers := rest }).1 h]
      exact congrArg _ (State.closeSlot_of_none (s := { s with handovers := rest }) h true)
    · rw [he, State.offerHanded_of_split (s := { s with handovers := rest }) h hx hf, TraceSlot.foldl_offer]
      rfl
  · have he : exec .trbCycleStart s = .next ((t.closeSlot false).openSlot cycle) :=
      execTrbCycleStart_of_offers angle cycle ho
    have hckt : (t.closeSlot false).ckt = t.ckt := by simp
    rw [he]
    refine ⟨fun h => congrArg _ (State.openSlot_of_empty h cycle), fun c rest pre x post hq h hx hp => ?_,
      fun c rest hq h => congrArg _ (State.openSlot_of_full hq h cycle)⟩
    rw [State.openSlot_of_free hq h hx hp, hckt]
    rfl
  · exact (execTrbEdgeRecord_of_offers e ho).trans (congrArg _ (State.offerEdge_of_none_filling h e))
  · have he : exec .trbEdgeRecord s = .next (t.offerEdge e) := execTrbEdgeRecord_of_offers e ho
    rw [he, State.offerEdge_of_split h hx hp]
    exact ⟨fun hn => by rw [TraceSlot.offer_of_space hn]; rfl, fun hn => by rw [TraceSlot.offer_of_full hn]; rfl⟩

/-! ### Requests (R158, R159) -/

theorem State.pushRequests_eq (n : Nat) (s : State) : s.pushRequests n = State.sends
    { s with trb := { s.trb with
      queue := s.trb.queue ++ List.replicate (min n (4 - s.trb.queue.length)) .request } }
    (List.replicate (n - min n (4 - s.trb.queue.length)) (.report .trb .traceMissed .event)) := by
  induction n generalizing s with
  | zero => simp [State.pushRequests, State.sends]
  | succ n ih =>
    rw [State.pushRequests, ih]
    by_cases h : s.trb.queue.length < 4
    · have hlen : (s.trb.queue ++ [TraceCause.request]).length = s.trb.queue.length + 1 := by simp
      have hmin : min (n + 1) (4 - s.trb.queue.length) = min n (4 - (s.trb.queue.length + 1)) + 1 := by omega
      rw [State.push_of_space h]
      dsimp only
      rw [hlen, hmin, List.append_assoc, Nat.add_sub_add_right, List.replicate_succ]
      rfl
    · have hmin (k : Nat) : min k (4 - s.trb.queue.length) = 0 := by omega
      rw [State.push_of_full (not_lt.mp h) (by decide)]
      simp only [State.sends, hmin, List.append_assoc, Nat.sub_zero, List.replicate_succ]
      rfl

section
variable {fields : List Field}

theorem State.doTrct_of_malformed (h : ∀ v, fields ≠ [.num v]) (s : State) :
    s.doTrct fields = s.answer .TRCT .format := by
  unfold State.doTrct
  split
  · exact absurd rfl (h _)
  · rfl

theorem State.doTrcr_of_malformed (hn : fields ≠ []) (h : ∀ v, fields ≠ [.num v]) (s : State) :
    s.doTrcr fields = s.answer .TRCR .format := by
  unfold State.doTrcr
  split
  · exact absurd rfl hn
  · exact absurd rfl (h _)
  · rfl

end

section
variable {v : Int} (s : State)

theorem State.doTrct_of_beyond (h : ¬ (1 ≤ v ∧ v ≤ 4)) : s.doTrct [.num v] = s.answer .TRCT .range := by
  have hv : within? 1 4 (.num v) = none := within?_num_of_beyond h
  simp only [State.doTrct, hv]

theorem State.doTrct_of_within (h : 1 ≤ v ∧ v ≤ 4) : s.doTrct [.num v] =
    if !s.inRun then s.answer .TRCT .mode
    else (s.pushRequests v.toNat).answer .TRCT .ok
      [nat (min v.toNat (4 - s.trb.queue.length)), nat (v.toNat - min v.toNat (4 - s.trb.queue.length))] := by
  have hv : within? 1 4 (.num v) = some v.toNat := within?_num_of_within h
  simp only [State.doTrct, hv]

theorem State.doTrcr_of_beyond (h : ¬ (1 ≤ v ∧ v ≤ 4)) : s.doTrcr [.num v] = s.answer .TRCR .range := by
  have hv : within? 1 4 (.num v) = none := within?_num_of_beyond h
  simp only [State.doTrcr, hv]

end

/-- With its field in range, TRCR goes by the state of the slot that stands at its place. -/
theorem State.doTrcr_of_within {s : State} {pre post : List TraceSlot} {x : TraceSlot}
    (h : s.trb.slots = pre ++ x :: post) (h4 : pre.length < 4) : s.doTrcr [.num (pre.length + 1)] =
      if x.state = .ready then s.answerRun .TRCR (x.lines (pre.length + 1)) else s.answer .TRCR .empty := by
  have hv : within? 1 4 (.num (pre.length + 1)) = some (pre.length + 1) := within?_num_of_within (by omega)
  simp only [State.doTrcr, hv, Nat.add_sub_cancel, Trb.slot_of_split h]

theorem TraceSlot.lines_of_summaries {x : TraceSlot} {c : PerChan ChanSummary} {u : PerUnit LiftState}
    (hc : x.chanSummary = some c) (hu : x.unitSummary = some u) (n : Nat) : x.lines n =
      x.header n :: x.edges.map edgeRecordFields ++ c.toList.map chanSummaryFields ++
        u.toList.map fun st => [.word (liftStateWord st)] := by
  unfold TraceSlot.lines
  rw [hc, hu]

/-- Settles O46: each answer of TRCT and TRCR by the form of its field, its range, the mode and the slot at its place. -/
theorem traceRequestsAskAndRead : Obligations.TraceRequestsAskAndRead := by
  refine fun s t fields => ⟨fun hb => ⟨fun h => ?_, fun v hv => ?_⟩, fun hb => ⟨fun h => ?_, fun hn h => ?_,
    fun v hv => ⟨fun h => ?_, fun pre x post h1 h4 h hplace => ?_⟩⟩⟩
  · have he : exec (.trct fields) s = .next (t.doTrct fields) :=
      exec_of_begins (act := fun s => s.doTrct fields) rfl hb
    rw [he, State.doTrct_of_malformed h]
  · have he : exec (.trct fields) s = .next (t.doTrct fields) :=
      exec_of_begins (act := fun s => s.doTrct fields) rfl hb
    rw [he, hv]
    refine ⟨fun h => by rw [State.doTrct_of_beyond t h], fun h1 h4 hm => ?_, fun h1 h4 hm => ?_⟩
    · rw [State.doTrct_of_within t ⟨h1, h4⟩, if_pos (by simpa using mt t.inRun_iff.mp hm)]
    · rw [State.doTrct_of_within t ⟨h1, h4⟩, if_neg (by simpa using t.inRun_iff.mpr hm), State.pushRequests_eq]
      rfl
  all_goals
    have he : exec (.trcr fields) s = .next (t.doTrcr fields) :=
      exec_of_begins (act := fun s => s.doTrcr fields) rfl hb
    rw [he]
  · rw [h]
    rfl
  · rw [State.doTrcr_of_malformed hn h]
  · rw [hv, State.doTrcr_of_beyond t h]
  · have hlen : pre.length < 4 := by omega
    rw [hv, hplace, State.doTrcr_of_within h hlen]
    refine ⟨fun hx => by rw [if_neg hx], fun c u hx hc hu => ?_⟩
    rw [if_pos hx, TraceSlot.lines_of_summaries hc hu]
    rfl

end Sys2Proof.Machine
end

section
/-! Proofs about the Lift Sequencer's changes of state (R123, R125, R127, R130, R134 to R136): one unit's record, the entry
to a state, the senses, lock loss and the stuck action. -/

namespace Sys2Proof.Machine

/-! ### One unit's record -/

theorem PerUnit.set_set {α : Type} (p : PerUnit α) (u : LiftUnit) (a b : α) : (p.set u a).set u b = p.set u b := by
  cases u <;> rfl

theorem PerUnit.get_set_other {α : Type} (p : PerUnit α) (u : LiftUnit) (a : α) :
    (p.set u a).get (otherUnit u) = p.get (otherUnit u) := by
  cases u <;> rfl

/-- `s` with the unit's record set to `x` and `l` sent. -/
def State.putUnit (s : State) (u : LiftUnit) (x : UnitRec) (l : List Handover) : State :=
  State.sends { s with lfs := { s.lfs with units := s.lfs.units.set u x } } l

section
variable (s : State) (u : LiftUnit) (x y : UnitRec) (l m : List Handover)

theorem State.setUnit_eq_putUnit : s.setUnit u x = s.putUnit u x [] := by
  simp [State.putUnit, State.setUnit]

theorem State.updUnit_eq_putUnit (f : UnitRec → UnitRec) : s.updUnit u f = s.putUnit u (f (s.lfs.units.get u)) [] :=
  State.setUnit_eq_putUnit _ _ _

theorem State.putUnit_putUnit : (s.putUnit u x l).putUnit u y m = s.putUnit u y (l ++ m) := by
  simp only [State.putUnit, State.sends, PerUnit.set_set, List.append_assoc]

theorem State.putUnit_get : (s.putUnit u x l).lfs.units.get u = x := PerUnit.get_set_same _ _ _

theorem State.putUnit_get_other : (s.putUnit u x l).lfs.units.get (otherUnit u) = s.lfs.units.get (otherUnit u) :=
  PerUnit.get_set_other _ _ _

theorem State.putUnit_sends : (s.putUnit u x l).sends m = s.putUnit u x (l ++ m) := by
  simp only [State.putUnit, State.sends_sends]

theorem State.sends_putUnit : (s.sends l).putUnit u x m = s.putUnit u x (l ++ m) := by
  simp only [State.putUnit, State.sends, List.append_assoc]

theorem State.putUnit_self : s.putUnit u (s.lfs.units.get u) [] = s := by
  simp [State.putUnit, PerUnit.set_get]

theorem State.putUnit_liftNews (new old : LiftState) (cause : LiftCause) :
    (s.putUnit u x l).liftNews u new old cause = s.liftNews u new old cause := rfl

theorem State.putUnit_solenoidNews (on : Bool) : (s.putUnit u x l).solenoidNews u on = s.solenoidNews u on := rfl

end

/-! ### Entering a state (R125, R127, R134) -/

theorem LiftState.announced_iff (st : LiftState) : st.announced = true ↔ st = .high ∨ st = .low ∨ st = .stuck := by
  cases st <;> decide

/-- The unit in its new state, before the agreement check. -/
def State.entered (s : State) (u : LiftUnit) (new : LiftState) (cause : LiftCause) : State :=
  s.putUnit u { s.lfs.units.get u with
    state := new
    posTally := if new = .high ∨ new = .low ∨ new = .stuck then 0 else (s.lfs.units.get u).posTally }
    (s.liftNews u new (s.lfs.units.get u).state cause)

section
variable (s : State) (u : LiftUnit) (new : LiftState) (cause : LiftCause)

theorem State.setLift_eq : s.setLift u new cause = s.entered u new cause := by
  have hdriver (f : UnitRec → UnitRec) : (s.updUnit u f).unitDriver u = s.unitDriver u := rfl
  unfold State.setLift State.entered State.liftNews
  dsimp only
  rw [hdriver]
  simp only [LiftState.announced_iff]
  cases s.unitDriver u with
  | none =>
    dsimp only
    rw [State.updUnit_eq_putUnit, State.notice_eq_sends, State.putUnit_sends]
    split_ifs <;> rfl
  | some o =>
    dsimp only
    rw [State.updUnit_eq_putUnit, State.hand_eq_sends, State.putUnit_sends, State.notice_eq_sends, State.putUnit_sends]
    split_ifs <;> rfl

theorem State.entered_get_other : (s.entered u new cause).lfs.units.get (otherUnit u) = s.lfs.units.get (otherUnit u) :=
  State.putUnit_get_other _ _ _ _

/-- A mismatch was reported, and with the unit in its new state both units show one profile (R134). -/
def State.agrees (s : State) (u : LiftUnit) (new : LiftState) : Prop :=
  s.lfs.mismatchReported = true ∧ new = (s.lfs.units.get (otherUnit u)).state ∧ (new = .high ∨ new = .low)

theorem LiftState.shows_agree_iff (a b : LiftState) :
    (a.shows.isSome && a.shows == b.shows) = true ↔ a = b ∧ (a = .high ∨ a = .low) := by
  cases a <;> cases b <;> decide

theorem State.agreement_entered_iff : ((s.entered u new cause).lfs.mismatchReported &&
    ((s.entered u new cause).liftState .L1).shows.isSome &&
    ((s.entered u new cause).liftState .L1).shows == ((s.entered u new cause).liftState .L2).shows) = true ↔
      s.agrees u new := by
  have hself : (s.entered u new cause).liftState u = new := congrArg UnitRec.state (State.putUnit_get _ _ _ _)
  have hother : (s.entered u new cause).liftState (otherUnit u) = (s.lfs.units.get (otherUnit u)).state :=
    congrArg UnitRec.state (s.entered_get_other u new cause)
  have hreported : (s.entered u new cause).lfs.mismatchReported = s.lfs.mismatchReported := rfl
  rw [Bool.and_assoc, Bool.and_eq_true, LiftState.shows_agree_iff, hreported, State.agrees]
  refine and_congr_right fun _ => ?_
  cases u with
  | L1 =>
    rw [hself]
    exact and_congr (Eq.congr_right hother) Iff.rfl
  | L2 =>
    rw [show (s.entered .L2 new cause).liftState .L1 = (s.lfs.units.get (otherUnit .L2)).state from hother, hself]
    constructor <;> rintro ⟨rfl, h⟩ <;> exact ⟨rfl, h⟩

theorem State.enterLift_of_agrees (h : s.agrees u new) : s.enterLift u new cause = State.sends
    { s.entered u new cause with lfs := { (s.entered u new cause).lfs with mismatchReported := false, pair := none } }
    [.report .lfs .liftMismatch .gone] := by
  rw [State.enterLift, State.setLift_eq, State.agreement, if_pos (s.agreement_entered_iff u new cause |>.mpr h),
    State.report_eq_sends]

theorem State.enterLift_of_not_agrees (h : ¬ s.agrees u new) : s.enterLift u new cause = s.entered u new cause := by
  rw [State.enterLift, State.setLift_eq, State.agreement, if_neg (mt (s.agreement_entered_iff u new cause).mp h)]

/-- A unit that is under way shows no profile, so it agrees with none. -/
theorem State.enterLift_of_under_way (hh : new ≠ .high) (hl : new ≠ .low) :
    s.enterLift u new cause = s.entered u new cause :=
  s.enterLift_of_not_agrees u new cause fun h => h.2.2.elim hh hl

end

/-- Settles O47: the entry to a state with and without the agreement check; the sense that a unit settles by. -/
theorem liftUnitsEnterStates : Obligations.LiftUnitsEnterStates := by
  intro s u new cause r t other
  have ht : s.entered u new cause = t := rfl
  refine ⟨fun hr ho hn => s.enterLift_of_agrees u new cause ⟨hr, ho, hn⟩,
    fun h => s.enterLift_of_not_agrees u new cause h, rfl, fun n hn => ?_, fun hn => ?_⟩
  · unfold State.senseHigh
    rw [hn]
  · unfold State.senseHigh
    rw [hn]

/-! ### The senses (R123) -/

theorem SenseRec.sample_eq (r : SenseRec) (b : Bool) : r.sample b =
    if b = r.high then ⟨r.high, 0⟩ else if 2 ≤ r.differing then ⟨b, 0⟩ else ⟨r.high, r.differing + 1⟩ := by
  simp only [SenseRec.sample, Nat.reduceLeDiff]

/-- A debounced position that changes becomes what was sampled. -/
theorem SenseRec.sample_high_of_change {r : SenseRec} {b : Bool} (h : ¬ (r.sample b).high = r.high) :
    (r.sample b).high = b := by
  rw [SenseRec.sample_eq] at h ⊢
  split_ifs at h ⊢ <;> simp_all

/-- What the sample `b` of an input sends to the units that bind it (R1, R123). -/
def State.sampleNews (s : State) (i : LineAB) (b : Bool) : List Handover :=
  if ((s.lfs.senses.get i).sample b).high = (s.lfs.senses.get i).high then []
  else (allUnits.filter fun u => (s.tbm.layout.lift.get u).sense == some i).map fun u => .senseChange u b

theorem State.sampleInput_eq (s : State) (i : LineAB) (b : Bool) : s.sampleInput i b = State.sends
    { s with lfs := { s.lfs with senses := s.lfs.senses.set i ((s.lfs.senses.get i).sample b) } }
    (s.sampleNews i b) := by
  unfold State.sampleInput State.sampleNews
  dsimp only
  split
  · exact (State.sends_nil _).symm
  · next h =>
    rw [forEach_hand_eq_sends, SenseRec.sample_high_of_change h]

theorem State.sampleNews_congr {s t : State} {i : LineAB} (hs : t.lfs.senses.get i = s.lfs.senses.get i)
    (hl : t.tbm.layout.lift = s.tbm.layout.lift) (b : Bool) : t.sampleNews i b = s.sampleNews i b := by
  unfold State.sampleNews
  rw [hs, hl]

/-- A sample of both inputs: B is sampled after A, and neither changes what the other sends. -/
theorem State.sampleInputs_eq (s : State) (a b : Bool) : (s.sampleInput .A a).sampleInput .B b = State.sends
    { s with lfs := { s.lfs with senses := ⟨s.lfs.senses.a.sample a, s.lfs.senses.b.sample b⟩ } }
    (s.sampleNews .A a ++ s.sampleNews .B b) := by
  rw [State.sampleInput_eq s, State.sampleInput_eq, State.sampleNews_congr (s := s) (i := .B) rfl rfl]
  simp only [State.sends, List.append_assoc]
  rfl

/-! ### Claims, travel, lock loss (R130, R131, R135, R136) -/

/-- What the release of the unit's claim sends, if it has one (R131). -/
def State.freedNews (s : State) (u : LiftUnit) : List Handover :=
  if (s.lfs.units.get u).claim then [.phcClaim (intake u) false] else []

section
variable (s : State) (u : LiftUnit)

theorem State.releaseClaim_eq : s.releaseClaim u =
    s.putUnit u { s.lfs.units.get u with claim := false } (s.freedNews u) := by
  unfold State.releaseClaim State.freedNews
  by_cases h : (s.lfs.units.get u).claim = true
  · rw [if_pos h, if_pos h, State.updUnit_eq_putUnit, State.hand_eq_sends, State.putUnit_sends, List.nil_append]
  · have hsame : { s.lfs.units.get u with claim := false } = s.lfs.units.get u := by
      rw [← Bool.not_eq_true _ |>.mp h]
    rw [if_neg h, if_neg h, hsame, State.putUnit_self]

theorem State.freedNews_putUnit {x : UnitRec} (hx : x.claim = (s.lfs.units.get u).claim) (l : List Handover) :
    (s.putUnit u x l).freedNews u = s.freedNews u := by
  unfold State.freedNews
  rw [State.putUnit_get, hx]

theorem State.endTravel_eq : s.endTravel u =
    s.putUnit u { s.lfs.units.get u with travel := none } (s.solenoidNews u false) := by
  rw [State.endTravel, State.drive_eq_sends, State.updUnit_eq_putUnit, State.sends_putUnit, List.append_nil]
  rfl

theorem State.liftLockLost_eq : s.liftLockLost u =
    if (s.lfs.units.get u).state = .high ∨ (s.lfs.units.get u).state = .low ∨ (s.lfs.units.get u).state = .stuck then s
    else (s.putUnit u { s.lfs.units.get u with travel := none, attempts := 0, claim := false }
      (s.solenoidNews u false ++ s.freedNews u)).settle u .lock := by
  unfold State.liftLockLost
  simp only [LiftState.announced_iff]
  rw [State.endTravel_eq, State.releaseClaim_eq, State.freedNews_putUnit _ _ (by rfl), State.putUnit_putUnit,
    State.updUnit_eq_putUnit, State.putUnit_putUnit, State.putUnit_get, State.putUnit_get, List.append_nil]
  rfl

theorem State.stickUnit_eq : s.stickUnit u =
    if s.unitBound u = false ∨ (s.lfs.units.get u).state = .stuck then s
    else (s.putUnit u { s.lfs.units.get u with travel := none, test := none, attempts := 0, claim := false }
      (s.solenoidNews u false ++ s.freedNews u)).enterLift u .stuck .driver := by
  have hcond : (!s.unitBound u || s.liftState u == .stuck) = true ↔
      s.unitBound u = false ∨ (s.lfs.units.get u).state = .stuck := by
    rw [Bool.or_eq_true, Bool.not_eq_true', beq_iff_eq, State.liftState]
  unfold State.stickUnit
  simp only [hcond]
  rw [State.updUnit_eq_putUnit, State.endTravel_eq, State.putUnit_putUnit, State.putUnit_get, State.releaseClaim_eq,
    State.freedNews_putUnit _ _ (by rfl), State.putUnit_putUnit, State.putUnit_get]
  rfl

end

theorem LiftState.movesTo_eq_some_iff (st : LiftState) (high : Bool) :
    st.movesTo = some high ↔ st = if high then .raising else .lowering := by
  cases st <;> cases high <;> decide

theorem LiftState.waitsFor_eq_some_iff (st : LiftState) (high : Bool) :
    st.waitsFor = some high ↔ st = if high then .raiseWait else .lowerWait := by
  cases st <;> cases high <;> decide

theorem LiftState.shows_eq_some_iff (st : LiftState) (high : Bool) :
    st.shows = some high ↔ st = if high then .high else .low := by
  cases st <;> cases high <;> decide

theorem State.takesSense_eq (s : State) (u : LiftUnit) (high : Bool) : s.takesSense u high =
    if (s.lfs.units.get u).state = (if high then .raising else .lowering) then
      s.putUnit u { s.lfs.units.get u with travel := none } (s.solenoidNews u false)
    else s := by
  simp only [State.takesSense, LiftState.movesTo_eq_some_iff, State.endTravel_eq]
  rfl

/-- No entry of the schedule to the unit. -/
def Handover.notEntryOf (u : LiftUnit) : Handover → Bool
  | .liftEntry (.liftDecide v) _ _ => v != u
  | .liftEntry (.liftOpen v) _ _ => v != u
  | .liftEntry (.liftClose v) _ _ => v != u
  | _ => true

theorem Handover.not_entryOf (u : LiftUnit) (h : Handover) : (!h.entryOf u) = h.notEntryOf u := by
  cases h with
  | liftEntry k angle cycle => cases k <;> rfl
  | _ => rfl

theorem exec_lfsLockLost {s : State} {u : LiftUnit} {pre post : List Handover}
    (e : s.handovers = pre ++ .lfsLockLost u :: post) (hp : .lfsLockLost u ∉ pre) (hs : .lfsStart u ∉ pre) :
    exec (.lfsLockLost u) s = .next
      (State.liftLockLost { s with handovers := pre.filter (Handover.notEntryOf u) ++ post } u) := by
  have hlane : ∀ x ∈ pre, x.lane ≠ .lfsCrank u := by
    intro y hy hl
    cases y <;> simp_all [Handover.lane]
  have hfilter : (pre.filter fun h => !h.entryOf u) = pre.filter (Handover.notEntryOf u) :=
    List.filter_congr fun h _ => h.not_entryOf u
  rw [← hfilter]
  exact execLfsLockLost_of_before u pre post e hlane

/-- Settles O50: the sample of the two inputs, then what a sense change, a lost lock, a stuck action and a clear do. -/
theorem sensesLossesAndStuckActions : Obligations.SensesLossesAndStuckActions := by
  refine ⟨fun s psa psb => ⟨fun hr => if_pos hr, fun hr => ?_⟩, fun s t u => ⟨fun high ho => ?_,
    fun pre post e hp hs ht => ?_, fun ho => ?_, fun ho => ?_⟩⟩
  · have he : exec (.pinSenseSample psa psb) s = execPinSenseSample psa psb s := rfl
    rw [he, execPinSenseSample, if_neg (by simp [hr])]
    dsimp only
    rw [State.sampleInputs_eq]
    simp only [State.sampleNews, SenseRec.sample_eq]
    rfl
  · refine (execSenseChange_of_offers u high ho).trans (congrArg _ ?_)
    rw [State.takesSense_eq]
    dsimp only
    rw [List.append_nil]
    rfl
  · rw [exec_lfsLockLost e hp hs]
    subst ht
    exact congrArg _ (State.liftLockLost_eq _ u)
  · exact (execStuckAction_of_offers u ho).trans (congrArg _ (t.stickUnit_eq u))
  · exact execUnitClear_of_offers u ho

end Sys2Proof.Machine
end

section
/-! Proofs about the windows of the Lift Sequencer (R129 to R131, R133): what a unit makes of its LIFT_OPEN and
LIFT_CLOSE. -/

namespace Sys2Proof.Machine

section
variable {s : State} {u : LiftUnit} {high : Bool}

/-! ### Opening (R129) -/

theorem State.liftOpen_of_wait (h : (s.lfs.units.get u).state = if high then .raiseWait else .lowerWait) :
    s.liftOpen u = s.openWindow u high := by
  unfold State.liftOpen
  rw [((s.liftState u).waitsFor_eq_some_iff high).mpr h]

theorem State.liftOpen_of_not_wait (hr : (s.lfs.units.get u).state ≠ .raiseWait)
    (hl : (s.lfs.units.get u).state ≠ .lowerWait) : s.liftOpen u = s := by
  have hnone : (s.liftState u).waitsFor = none := by
    rw [Option.eq_none_iff_forall_ne_some]
    intro b hb
    rw [LiftState.waitsFor_eq_some_iff] at hb
    cases b with
    | false => exact hl hb
    | true => exact hr hb
  unfold State.liftOpen
  rw [hnone]

theorem State.withdraw_eq : s.withdraw u high =
    (s.putUnit u { s.lfs.units.get u with attempts := 0, claim := false } (s.freedNews u)).enterLift u
      (if high then .low else .high) .withdrawn := by
  have hback : settledAt (!high) = if high then .low else .high := by cases high <;> rfl
  unfold State.withdraw
  dsimp only
  rw [State.releaseClaim_eq, State.updUnit_eq_putUnit, State.putUnit_putUnit, State.putUnit_get, List.append_nil, hback]

/-- The unit in its move state, one attempt on. -/
def State.moving (s : State) (u : LiftUnit) (high : Bool) : State :=
  (s.putUnit u { s.lfs.units.get u with attempts := bump 2 (s.lfs.units.get u).attempts } []).enterLift u (moveTo high)
    .run

theorem State.moving_eq : s.moving u high =
    (s.putUnit u { s.lfs.units.get u with attempts := bump 2 (s.lfs.units.get u).attempts } []).entered u (moveTo high)
      .run :=
  State.enterLift_of_under_way _ _ _ _ (by cases high <;> decide) (by cases high <;> decide)

theorem State.openWindow_of_phaser
    (h : (s.phc.chans.get (intake u)).state = .tracking ∨ (s.phc.chans.get (intake u)).state = .releasing) :
    s.openWindow u high = s.withdraw u high := by
  unfold State.openWindow
  rcases h with h | h
  · rw [h]
  · rw [h]

theorem State.openWindow_of_free (ht : (s.phc.chans.get (intake u)).state ≠ .tracking)
    (hr : (s.phc.chans.get (intake u)).state ≠ .releasing) : s.openWindow u high =
      if s.senseHigh u = high then s.moving u high
      else ((s.moving u high).drive u true).updUnit u fun r => { r with
        travel := some (s.now + tenthsMs (s.tbm.tuning.unit.get u).travelMs) } := by
  have hsense : (s.moving u high).senseHigh u = s.senseHigh u := by
    rw [State.moving_eq]
    rfl
  have hnow : (s.moving u high).now = s.now ∧ (s.moving u high).tbm = s.tbm := by
    rw [State.moving_eq]
    exact ⟨rfl, rfl⟩
  unfold State.openWindow
  cases hst : (s.phc.chans.get (intake u)).state <;> first | contradiction | skip
  all_goals
    dsimp only
    rw [State.updUnit_eq_putUnit, ← State.moving, hsense, hnow.1, hnow.2]

theorem State.drive_updUnit (q : State) (on : Bool) (f : UnitRec → UnitRec) :
    (q.drive u on).updUnit u f = q.putUnit u (f (q.lfs.units.get u)) (q.solenoidNews u on) := by
  rw [State.drive_eq_sends, State.updUnit_eq_putUnit, State.sends_putUnit, List.append_nil]
  rfl

/-! ### Closing (R131, R133) -/

theorem State.liftClose_of_move (h : (s.lfs.units.get u).state = if high then .raising else .lowering)
    (cycle : Word32) : s.liftClose u cycle = s.closeLift u high cycle := by
  unfold State.liftClose
  rw [((s.liftState u).movesTo_eq_some_iff high).mpr h]

theorem State.liftClose_of_not_move (hr : (s.lfs.units.get u).state ≠ .raising)
    (hl : (s.lfs.units.get u).state ≠ .lowering) (cycle : Word32) : s.liftClose u cycle = s := by
  have hnone : (s.liftState u).movesTo = none := by
    rw [Option.eq_none_iff_forall_ne_some]
    intro b hb
    rw [LiftState.movesTo_eq_some_iff] at hb
    cases b with
    | false => exact hl hb
    | true => exact hr hb
  unfold State.liftClose
  rw [hnone]

/-- The pair rule: the pair is complete where the other unit already shows the profile (R133). -/
theorem State.pairRule_eq (cycle : Word32) : s.pairRule u high cycle =
    if s.unitBound .L1 && s.unitBound .L2 then
      { s with lfs := { s.lfs with
        pair := if (s.lfs.units.get (otherUnit u)).state = (if high then .high else .low) then none
          else some ⟨u, high, cycle⟩ } }
    else s := by
  have hone (a b : Option PairRec) (st : LiftState) (hb : b = a) :
      (if st.shows = some (!high) then a else if st.shows = some high then none else b) =
        if st = (if high then .high else .low) then none else a := by
    rw [hb]
    cases st <;> cases high <;> rfl
  unfold State.pairRule
  dsimp only
  rw [hone _ _ _ rfl]
  rfl

/-- The unit as its LIFT_CLOSE ends its travel, with its attempts and its claim given up (R131). -/
def State.freed (s : State) (u : LiftUnit) : State :=
  s.putUnit u { s.lfs.units.get u with attempts := 0, claim := false, travel := none }
    (s.solenoidNews u false ++ s.freedNews u)

theorem State.endTravel_freed : ((s.endTravel u).updUnit u fun r => { r with attempts := 0 }).releaseClaim u =
    s.freed u := by
  rw [State.endTravel_eq, State.updUnit_eq_putUnit, State.putUnit_putUnit, State.putUnit_get, State.releaseClaim_eq,
    State.freedNews_putUnit _ _ (by rfl), State.putUnit_putUnit, State.putUnit_get, List.append_nil]
  rfl

theorem State.endTravel_senseHigh : (s.endTravel u).senseHigh u = s.senseHigh u := by
  rw [State.endTravel_eq]
  rfl

theorem State.endTravel_attempts : ((s.endTravel u).lfs.units.get u).attempts = (s.lfs.units.get u).attempts := by
  rw [State.endTravel_eq, State.putUnit_get]

theorem State.closeLift_of_confirmed (h : s.senseHigh u = high) (cycle : Word32) : s.closeLift u high cycle =
    ((s.freed u).enterLift u (settledAt high) .confirm).pairRule u high cycle := by
  unfold State.closeLift
  dsimp only
  rw [State.endTravel_senseHigh, if_pos h, State.endTravel_freed]

theorem State.closeLift_of_retry (h : s.senseHigh u ≠ high) (ha : (s.lfs.units.get u).attempts < 2) (cycle : Word32) :
    s.closeLift u high cycle = (s.endTravel u).enterLift u (waitFor high) .run := by
  unfold State.closeLift
  dsimp only
  rw [State.endTravel_senseHigh, if_neg h, State.endTravel_attempts, if_pos ha]

theorem State.closeLift_of_stuck (h : s.senseHigh u ≠ high) (ha : 2 ≤ (s.lfs.units.get u).attempts) (cycle : Word32) :
    s.closeLift u high cycle =
      ((s.freed u).enterLift u .stuck .noConfirm).sends [.report .lfs (.liftNoConfirm u) .event] := by
  unfold State.closeLift
  dsimp only
  rw [State.endTravel_senseHigh, if_neg h, State.endTravel_attempts, if_neg (not_lt.mpr ha), State.endTravel_freed,
    State.report_eq_sends]

end

/-- The entry of one unit leaves the other and the layout in force as they are. -/
theorem State.enterLift_leaves (s : State) (u : LiftUnit) (new : LiftState) (cause : LiftCause) :
    (s.enterLift u new cause).lfs.units.get (otherUnit u) = s.lfs.units.get (otherUnit u) ∧
      ∀ v, (s.enterLift u new cause).unitBound v = s.unitBound v := by
  by_cases h : s.agrees u new
  · rw [State.enterLift_of_agrees s u new cause h]
    exact ⟨s.entered_get_other u new cause, fun _ => rfl⟩
  · rw [State.enterLift_of_not_agrees s u new cause h]
    exact ⟨s.entered_get_other u new cause, fun _ => rfl⟩

theorem exec_travelTimerExpiry {s : State} {u : LiftUnit} {x : Time} (h : (s.lfs.units.get u).travel = some x) :
    exec (.travelTimerExpiry u) s = .next ((s.reachTime x).putUnit u { s.lfs.units.get u with travel := none }
      (s.solenoidNews u false)) := by
  have he : exec (.travelTimerExpiry u) s = execTravelTimerExpiry u s := rfl
  rw [he, execTravelTimerExpiry, h]
  exact congrArg _ (State.endTravel_eq _ u)

/-- Settles O49: LIFT_OPEN by the intake channel and the sense, LIFT_CLOSE by the sense and the attempts. -/
theorem liftWindowsOpenAndClose : Obligations.LiftWindowsOpenAndClose := by
  refine ⟨fun s t u angle cycle => ?_, fun s u x hx => exec_travelTimerExpiry hx⟩
  intro r ch put freed
  refine ⟨fun ho => ⟨fun hr hl => ?_, fun high hst => ?_⟩, fun ho => ?_⟩
  · exact (execLfsLiftOpen_of_offers u angle cycle ho).trans (congrArg _ (State.liftOpen_of_not_wait hr hl))
  · have he : exec (.lfsLiftOpen u) s = .next (t.openWindow u high) :=
      (execLfsLiftOpen_of_offers u angle cycle ho).trans (congrArg _ (State.liftOpen_of_wait hst))
    intro move m
    have hm : t.moving u high = m := rfl
    have hnews : m.solenoidNews u true = t.solenoidNews u true := by
      rw [← hm, State.moving_eq]
      rfl
    refine ⟨fun h => ?_, fun ht hr hs => ?_, fun ht hr hs => ?_⟩
    · rw [he, State.openWindow_of_phaser h, State.withdraw_eq]
      rfl
    · rw [he, State.openWindow_of_free ht hr, if_pos hs]
      rfl
    · rw [he, State.openWindow_of_free ht hr, if_neg hs, State.drive_updUnit, hm, hnews]
      rfl
  · intro e
    have hfreed : e { r with attempts := 0, claim := false } freed = t.freed u := rfl
    have htravel : e r [] = t.endTravel u := by
      rw [State.endTravel_eq, ← List.append_nil (t.solenoidNews u false)]
      rfl
    refine ⟨fun hr hl => ?_, fun high hst => ?_⟩
    · exact (execLfsLiftClose_of_offers u angle cycle ho).trans (congrArg _ (State.liftClose_of_not_move hr hl cycle))
    · have he : exec (.lfsLiftClose u) s = .next (t.closeLift u high cycle) :=
        (execLfsLiftClose_of_offers u angle cycle ho).trans (congrArg _ (State.liftClose_of_move hst cycle))
      refine ⟨fun hs => ?_, fun hs ha => ?_, fun hs ha => ?_⟩
      · intro c same
        have hc : (t.freed u).enterLift u (settledAt high) .confirm = c := rfl
        obtain ⟨hother, hbound⟩ := (t.freed u).enterLift_leaves u (settledAt high) .confirm
        rw [hc, State.freed, State.putUnit_get_other] at hother
        rw [hc] at hbound
        rw [he, State.closeLift_of_confirmed hs, hc, State.pairRule_eq, hother, hbound, hbound]
        rfl
      · rw [he, State.closeLift_of_retry hs ha, htravel]
        rfl
      · rw [he, State.closeLift_of_stuck hs ha, hfreed]

end Sys2Proof.Machine
end

section
/-! Proofs about a LIFT_DECIDE (R126 to R128, R133, R134): the request, the pair check, the position check, the switch. -/

namespace Sys2Proof.Machine

/-! ### The request (R126) -/

section
variable {s : State}

theorem State.decideRequest_of_lift {o : Oppt} {q : Bool} (h : s.tga.record = some o) (hf : s.tga.fresh = .fresh)
    (hq : o.lift = some q) : s.decideRequest = q := by
  unfold State.decideRequest
  simp only [h, hf, hq]

theorem State.decideRequest_of_none (h : s.tga.record = none) : s.decideRequest = s.lfs.request := by
  unfold State.decideRequest
  rw [h]

theorem State.decideRequest_of_point {o : Oppt} (h : s.tga.record = some o)
    (hf : s.tga.fresh ≠ .fresh ∨ o.lift = none) : s.decideRequest =
      if s.tbm.tuning.dev.upRpm ≤ s.ckt.rpm ∧ s.tbm.tuning.dev.upLoad ≤ o.load then true
      else if s.ckt.rpm < s.tbm.tuning.dev.downRpm ∨ o.load < s.tbm.tuning.dev.downLoad then false
      else s.lfs.request := by
  unfold State.decideRequest
  rw [h]
  dsimp only
  split
  · next hfresh hlift => simp [hfresh, hlift] at hf
  · rfl

end

/-! ### The pair check (R133, R134) -/

section
variable {s : State} {cycle : Word32}

theorem State.pairCheck_of_none (h : s.lfs.pair = none) : s.pairCheck cycle = s := by
  unfold State.pairCheck
  rw [h]

theorem State.pairCheck_of_some {x : PairRec} (h : s.lfs.pair = some x) : s.pairCheck cycle =
    if s.unitBound .L1 = false ∨ s.unitBound .L2 = false then s
    else if (s.lfs.units.get (otherUnit x.lead)).state = (if x.high then .high else .low) then
      { s with lfs := { s.lfs with pair := none } }
    else if 2 ≤ (cycle - x.cycle).toNat then
      State.sends { s with lfs := { s.lfs with mismatchReported := true } } [.report .lfs .liftMismatch .present]
    else s := by
  unfold State.pairCheck
  rw [h]
  by_cases hb : s.unitBound .L1 = false ∨ s.unitBound .L2 = false
  · have hand : (s.unitBound .L1 && s.unitBound .L2) = false := Bool.and_eq_false_iff.mpr hb
    rw [hand, if_pos hb]
  · have hand : (s.unitBound .L1 && s.unitBound .L2) = true := by simpa [not_or] using hb
    rw [hand, if_neg hb]
    dsimp only
    simp only [LiftState.shows_eq_some_iff, State.report_eq_sends]
    rfl

end

/-- What the pair check may have changed: the pair and the mismatch report, and what is sent. -/
def State.pairOnly (s p : State) : Prop :=
  ∃ pair mismatch l, p = State.sends { s with lfs := { s.lfs with pair := pair, mismatchReported := mismatch } } l

theorem State.pairCheck_pairOnly (s : State) (cycle : Word32) : s.pairOnly (s.pairCheck cycle) := by
  cases h : s.lfs.pair with
  | none => exact ⟨s.lfs.pair, s.lfs.mismatchReported, [], by rw [State.pairCheck_of_none h, State.sends_nil]⟩
  | some x =>
    rw [State.pairCheck_of_some h]
    generalize (if x.high then LiftState.high else .low) = st
    split_ifs
    · exact ⟨s.lfs.pair, s.lfs.mismatchReported, [], (State.sends_nil _).symm⟩
    · exact ⟨none, s.lfs.mismatchReported, [], (State.sends_nil _).symm⟩
    · exact ⟨s.lfs.pair, true, [.report .lfs .liftMismatch .present], rfl⟩
    · exact ⟨s.lfs.pair, s.lfs.mismatchReported, [], (State.sends_nil _).symm⟩

/-! ### The position check (R127) -/

/-- The unit's record after the position check against the profile `high`. -/
def State.checkedUnit (s : State) (u : LiftUnit) (high : Bool) : UnitRec :=
  if s.senseHigh u ≠ high then { s.lfs.units.get u with
    posTally := bump 255 (s.lfs.units.get u).posTally
    posReported := (s.lfs.units.get u).posReported || decide (3 ≤ bump 255 (s.lfs.units.get u).posTally) }
  else { s.lfs.units.get u with posTally := 0, posReported := false }

/-- What the position check reports. -/
def State.positionNews (s : State) (u : LiftUnit) (high : Bool) : List Handover :=
  if s.senseHigh u ≠ high then
    if 3 ≤ bump 255 (s.lfs.units.get u).posTally then [.report .lfs (.liftPosition u) .present] else []
  else if (s.lfs.units.get u).posReported then [.report .lfs (.liftPosition u) .gone]
  else []

theorem State.positionCheck_eq (s : State) (u : LiftUnit) (high : Bool) :
    s.positionCheck u high = s.putUnit u (s.checkedUnit u high) (s.positionNews u high) := by
  unfold State.positionCheck State.checkedUnit State.positionNews
  simp only [bne_iff_ne, State.setUnit_eq_putUnit, State.report_eq_sends, State.putUnit_sends, List.nil_append]
  by_cases hd : s.senseHigh u ≠ high
  · by_cases h3 : 3 ≤ bump 255 (s.lfs.units.get u).posTally
    · simp only [if_pos hd, if_pos h3, decide_eq_true h3, Bool.or_true]
    · simp only [if_pos hd, if_neg h3, decide_eq_false h3, Bool.or_false]
  · by_cases hp : (s.lfs.units.get u).posReported = true
    · simp only [if_neg hd, if_pos hp]
    · simp only [if_neg hd, if_neg hp]

/-! ### The switch (R128) -/

/-- The switch conditions hold (R128): the speed, the window, the intake channel. -/
def State.switchOpen (s : State) (u : LiftUnit) : Prop :=
  s.ckt.rpm ≤ s.tbm.tuning.dev.ceilingRpm ∧
    windowFits (s.windowLength u) s.ckt.rpm
      ((s.tbm.tuning.unit.get u).travelMs + (s.tbm.tuning.unit.get u).marginMs) = true ∧
    ((s.phc.chans.get (intake u)).state = .tracking ∨ (s.phc.chans.get (intake u)).state = .parked ∨
      (s.phc.chans.get (intake u)).state = .unused)

section
variable {s : State} {u : LiftUnit} {high : Bool}

theorem State.maySwitch_iff : s.maySwitch u = true ↔ s.switchOpen u := by
  unfold State.maySwitch State.switchOpen
  rw [Bool.and_eq_true, Bool.and_eq_true, decide_eq_true_iff, and_assoc]
  refine and_congr_right fun _ => and_congr_right fun _ => ?_
  cases (s.phc.chans.get (intake u)).state <;> decide

theorem windowFits_iff {w rpm need : Nat} (h : rpm ≠ 0) :
    windowFits w rpm need = true ↔ need * 100 * (5760 * rpm) ≤ w * 60000000 := by
  rw [windowFits, if_neg h, decide_eq_true_iff, Nat.mul_comm need 100]
  rfl

/-- A switch that goes ahead: the wait state and, where the intake channel is in use, the claim (R128). -/
theorem State.startSwitch_putUnit (x : UnitRec) (l : List Handover) : (s.putUnit u x l).startSwitch u high =
    s.putUnit u { x with
      state := waitFor high, attempts := 0
      claim := if (s.phc.chans.get (intake u)).state = .unused then x.claim else true }
      (l ++ s.liftNews u (waitFor high) x.state .run ++
        if (s.phc.chans.get (intake u)).state = .unused then [] else [.phcClaim (intake u) true]) := by
  have htally : ¬ (waitFor high = .high ∨ waitFor high = .low ∨ waitFor high = .stuck) := by cases high <;> decide
  have hphc (y : UnitRec) (m : List Handover) : (s.putUnit u y m).phc = s.phc := rfl
  have hattempts : ((s.putUnit u x l).updUnit u fun r => { r with attempts := 0 }) =
      s.putUnit u { x with attempts := 0 } l := by
    rw [State.updUnit_eq_putUnit, State.putUnit_putUnit, State.putUnit_get, List.append_nil]
  have hentered : (s.putUnit u { x with attempts := 0 } l).enterLift u (waitFor high) .run =
      s.putUnit u { x with state := waitFor high, attempts := 0 } (l ++ s.liftNews u (waitFor high) x.state .run) := by
    rw [State.enterLift_of_under_way _ _ _ _ (by cases high <;> decide) (by cases high <;> decide), State.entered,
      State.putUnit_putUnit, State.putUnit_get, State.putUnit_liftNews, if_neg htally]
  unfold State.startSwitch
  dsimp only
  rw [hattempts, hentered, hphc]
  simp only [bne_iff_ne]
  by_cases hu : (s.phc.chans.get (intake u)).state = .unused
  · rw [if_neg (not_not_intro hu), if_pos hu, if_pos hu, List.append_nil]
  · rw [if_pos hu, if_neg hu, if_neg hu, State.updUnit_eq_putUnit, State.putUnit_putUnit, State.putUnit_get,
      State.hand_eq_sends, State.putUnit_sends, List.append_nil]

end

/-! ### LIFT_DECIDE -/

section
variable {s t : State} {u : LiftUnit} {cycle : Word32}

theorem State.liftDecide_of_unbound (h : s.unitBound u = false ∨ (s.lfs.units.get u).test ≠ none) :
    s.liftDecide u cycle = s := by
  refine if_pos ?_
  rcases h with h | h
  · simp [h]
  · simp [Option.isSome_iff_ne_none.mpr h]

theorem State.liftDecide_of_bound (hb : s.unitBound u = true) (ht : (s.lfs.units.get u).test = none) :
    s.liftDecide u cycle = s.decideUnit u cycle :=
  if_neg (by simp [hb, ht])

/-- `s` with the lift request `req` in it. -/
def State.requested (s : State) (req : Bool) : State := { s with lfs := { s.lfs with request := req } }

/-- The state as the unit's own checks begin: the request decided, the pair checked. -/
def State.paired (s : State) (cycle : Word32) : State := (s.requested s.decideRequest).pairCheck cycle

theorem State.paired_eq (s : State) (cycle : Word32) : ∃ pair mismatch l, s.paired cycle = State.sends
    { s with lfs := { s.lfs with
      request := s.decideRequest, pair := pair, mismatchReported := mismatch } } l :=
  (s.requested s.decideRequest).pairCheck_pairOnly cycle

theorem State.paired_phc (s : State) (cycle : Word32) : (s.paired cycle).phc = s.phc := by
  obtain ⟨pair, mismatch, l, hp⟩ := s.paired_eq cycle
  rw [hp]
  rfl

theorem State.paired_liftNews (s : State) (cycle : Word32) (u : LiftUnit) (new old : LiftState) (cause : LiftCause) :
    (s.paired cycle).liftNews u new old cause = s.liftNews u new old cause := by
  obtain ⟨pair, mismatch, l, hp⟩ := s.paired_eq cycle
  rw [hp]
  rfl

theorem State.checkedUnit_state (s : State) (u : LiftUnit) (high : Bool) :
    (s.checkedUnit u high).state = (s.lfs.units.get u).state := by
  unfold State.checkedUnit
  split <;> rfl

theorem State.decideUnit_of_hidden (hh : (s.lfs.units.get u).state ≠ .high) (hl : (s.lfs.units.get u).state ≠ .low) :
    s.decideUnit u cycle = s.paired cycle := by
  obtain ⟨pair, mismatch, l, hp⟩ := s.paired_eq cycle
  have hstate : (s.paired cycle).liftState u = (s.lfs.units.get u).state := by
    rw [hp]
    rfl
  have hshows : ((s.paired cycle).liftState u).shows = none := by
    rw [hstate, LiftState.shows_eq_none_iff]
    exact fun h => h.elim hh hl
  unfold State.decideUnit
  dsimp only
  rw [← State.requested, ← State.paired, hshows]

/-- The unit wants the profile that it does not show, and the switch conditions hold. -/
def State.goes (s : State) (u : LiftUnit) (req high : Bool) : Prop :=
  (if s.fmg.unitLow.get u then false else req) ≠ high ∧ s.switchOpen u

/-- The state after the position check of a unit that shows `high`. -/
def State.positioned (s : State) (u : LiftUnit) (high : Bool) (cycle : Word32) : State :=
  (s.paired cycle).putUnit u (s.checkedUnit u high) (s.positionNews u high)

theorem State.positioned_goes_iff {high : Bool} : ((s.positioned u high cycle).wanted u != high &&
    (s.positioned u high cycle).maySwitch u) = true ↔ s.goes u s.decideRequest high := by
  obtain ⟨pair, mismatch, l, hp⟩ := s.paired_eq cycle
  rw [Bool.and_eq_true, bne_iff_ne, State.maySwitch_iff, State.positioned, hp]
  rfl

theorem State.decideUnit_of_shown {high : Bool} (h : (s.lfs.units.get u).state = if high then .high else .low) :
    s.decideUnit u cycle =
      if (s.positioned u high cycle).wanted u != high && (s.positioned u high cycle).maySwitch u then
        (s.positioned u high cycle).startSwitch u (!high)
      else s.positioned u high cycle := by
  obtain ⟨pair, mismatch, l, hp⟩ := s.paired_eq cycle
  have hshows : ((s.paired cycle).liftState u).shows = some high := by
    rw [hp, LiftState.shows_eq_some_iff]
    exact h
  have hcheck : (s.paired cycle).positionCheck u high = s.positioned u high cycle := by
    rw [State.positionCheck_eq, State.positioned, hp]
    rfl
  unfold State.decideUnit
  dsimp only
  rw [← State.requested, ← State.paired, hshows]
  dsimp only
  rw [hcheck]

end

/-- Settles O48: the request by the operating point, the pair check by the pair, then the unit by what it shows. -/
theorem liftDecisionsStartASwitch : Obligations.LiftDecisionsStartASwitch := by
  intro s t u angle cycle ho y r rpm ch
  have he : exec (.lfsLiftDecide u) s = .next (t.liftDecide u cycle) := execLfsLiftDecide_of_offers u angle cycle ho
  refine ⟨fun h => by rw [he, State.liftDecide_of_unbound h], fun hb ht => ?_⟩
  rw [he, State.liftDecide_of_bound hb ht]
  refine ⟨t.decideRequest, windowFits (t.windowLength u) t.ckt.rpm
    ((t.tbm.tuning.unit.get u).travelMs + (t.tbm.tuning.unit.get u).marginMs),
    fun o q h hf hq => State.decideRequest_of_lift h hf hq, State.decideRequest_of_none, fun o h hf => ?_,
    windowFits_iff, ?_⟩
  · rw [State.decideRequest_of_point h hf]
    refine ⟨fun hu => if_pos hu, fun hu hd => (if_neg hu).trans (if_pos hd), fun hu hr hl => ?_⟩
    exact (if_neg hu).trans (if_neg fun hd => hd.elim (not_lt.mpr hr) (not_lt.mpr hl))
  · intro q p
    have hp : t.paired cycle = p := by
      cases hpair : t.lfs.pair with
      | none =>
        have hq : t.paired cycle = q := State.pairCheck_of_none (s := q) hpair
        rw [hq]
        simp only [p, hpair]
      | some x =>
        have hq := State.pairCheck_of_some (s := q) (cycle := cycle) hpair
        simp only [p, hpair]
        exact hq
    refine ⟨fun hh hl => by rw [State.decideUnit_of_hidden hh hl, hp], fun high hst => ?_⟩
    intro differs n x news wanted go wait
    have hgo : t.goes u t.decideRequest high ↔ go := Iff.rfl
    have hq : t.positioned u high cycle = p.putUnit u x news := by
      rw [State.positioned, hp]
      rfl
    have hclaim : (p.phc.chans.get (intake u)).state = ch := by rw [← hp, State.paired_phc]
    have hlift : p.liftNews u wait r.state .run = t.liftNews u wait r.state .run := by
      rw [← hp, State.paired_liftNews]
    have hstate : x.state = r.state := t.checkedUnit_state u high
    have hwait : waitFor (!high) = wait := by
      show waitFor (!high) = if high then .lowerWait else .raiseWait
      cases high <;> rfl
    rw [State.decideUnit_of_shown hst]
    refine ⟨fun hn => ?_, fun hg => ?_⟩
    · rw [if_neg (mt (State.positioned_goes_iff.trans hgo).mp hn), hq]
      rfl
    · rw [if_pos (State.positioned_goes_iff.trans hgo |>.mpr hg), hq, State.startSwitch_putUnit, hwait, hclaim, hstate,
        hlift]
      rfl

end Sys2Proof.Machine
end

section
/-! Proofs about the Fault Manager's records (R139 to R149): what a change of records and an occurrence send, what a report
makes of its record, the responses in force and FLT from the records. -/

namespace Sys2Proof.Machine

/-- Changes that send, each the same wherever it stands among the others, send in their order. -/
theorem forEach_eq_sends {α : Type} {f : State → α → State} {g : α → List Handover} {s : State}
    (h : ∀ l a, f (s.sends l) a = (s.sends l).sends (g a)) (l : List Handover) (as : List α) :
    forEach as f (s.sends l) = s.sends (l ++ as.flatMap g) := by
  induction as generalizing l with
  | nil => simp [forEach]
  | cons a as ih =>
    calc forEach (a :: as) f (s.sends l) = forEach as f (f (s.sends l) a) := rfl
      _ = forEach as f (s.sends (l ++ g a)) := by rw [h, State.sends_sends]
      _ = s.sends (l ++ (a :: as).flatMap g) := by rw [ih, List.flatMap_cons, List.append_assoc]

/-! ### One record change (R147 to R149, R151) -/

/-- What the clear of an output's driver records sends (R148). -/
def State.outClearNews (s : State) (old new : FaultTable) (out : Out) : List Handover :=
  if new.outClear out && !old.outClear out then
    .vdrDriverClear out :: (match out with
      | .ocv o => (s.vdr.ocv.get o).binding.toList.map .phcDriverClear
      | .ls _ => [])
  else []

/-- What the clear of a unit's stuck records sends (R148). -/
def State.unitClearNews (s : State) (old new : FaultTable) (u : LiftUnit) : List Handover :=
  if s.stuckClear new u && !s.stuckClear old u then [.unitClear u] else []

theorem State.handDriverClear_eq (s : State) (old new : FaultTable) (out : Out) :
    s.handDriverClear old new out = s.sends (s.outClearNews old new out) := by
  unfold State.handDriverClear State.outClearNews
  by_cases h : (new.outClear out && !old.outClear out) = true
  · rw [if_pos h, if_pos h]
    cases out with
    | ocv o =>
      have hbinding : ((s.hand (.vdrDriverClear (.ocv o))).vdr.ocv.get o).binding = (s.vdr.ocv.get o).binding := rfl
      dsimp only
      rw [hbinding]
      cases (s.vdr.ocv.get o).binding with
      | none => rfl
      | some ch => exact State.sends_sends s _ _
    | ls o => rfl
  · rw [if_neg h, if_neg h, State.sends_nil]

theorem State.handUnitClear_eq (s : State) (old new : FaultTable) (u : LiftUnit) :
    s.handUnitClear old new u = s.sends (s.unitClearNews old new u) := by
  unfold State.handUnitClear State.unitClearNews
  rw [State.hand_eq_sends, State.sends_if]

/-- `s` with the table `new`, before anything follows from it. -/
def State.tabled (s : State) (new : FaultTable) : State := { s with fmg := { s.fmg with table := new } }

/-- `s` with the table `new`, the responses in force and FLT as it gives them (R147, R149). -/
def State.followed (s : State) (new : FaultTable) : State :=
  { (s.tabled new).responsesSet with
    fmg := { (s.tabled new).responsesSet.fmg with flt := (s.tabled new).fltNow } }

theorem State.recompute_evalFlt_tabled (s : State) (new : FaultTable) :
    (s.tabled new).recompute.evalFlt = s.followed new := by
  rw [State.recompute_eq]
  rfl

section
variable {s q : State} (hq : q.vdr = s.vdr) (old new : FaultTable) (l : List Handover)
include hq

theorem State.outClearNews_congr (out : Out) : (q.sends l).outClearNews old new out = s.outClearNews old new out := by
  unfold State.outClearNews
  rw [show (q.sends l).vdr = s.vdr from hq]

theorem State.unitClearNews_congr (u : LiftUnit) : (q.sends l).unitClearNews old new u = s.unitClearNews old new u := by
  unfold State.unitClearNews State.stuckClear State.boundLs
  rw [show (q.sends l).vdr = s.vdr from hq]

end

theorem State.changeRecords_eq (s : State) (new : FaultTable) : s.changeRecords new = (s.followed new).sends
    (allOuts.flatMap (s.outClearNews s.fmg.table new) ++ allUnits.flatMap (s.unitClearNews s.fmg.table new)) := by
  have hvdr : (s.followed new).vdr = s.vdr := rfl
  unfold State.changeRecords
  dsimp only
  rw [← State.tabled, State.recompute_evalFlt_tabled, ← State.sends_nil (s.followed new),
    forEach_eq_sends (g := s.outClearNews s.fmg.table new)
      (fun l out => by rw [State.handDriverClear_eq, State.outClearNews_congr hvdr]),
    forEach_eq_sends (g := s.unitClearNews s.fmg.table new)
      (fun l u => by rw [State.handUnitClear_eq, State.unitClearNews_congr hvdr]), List.nil_append, State.sends_nil]

/-! ### Occurrences (R144, R148) -/

/-- What the record `r` of an occurrence sends: the push and the notice (R144). -/
def State.occurrenceNews (s : State) (id : FaultId) (r : FaultRec) : List Handover :=
  (if (s.responseRec id).capture then [.trbPush (.fault id)] else []) ++
    if (s.responseRec id).notify then [.notice .fmg (.flt id r.state r.count r.lastSeen)] else []

theorem State.occurrence_eq (s : State) (id : FaultId) : s.occurrence id = s.sends (s.occurrenceNews id (s.fault id)) := by
  have hresponse (l : List Handover) : (s.sends l).responseRec id = s.responseRec id := rfl
  unfold State.occurrence State.occurrenceNews
  dsimp only
  rw [State.hand_eq_sends, State.sends_if, hresponse, State.notice_eq_sends, State.sends_if, State.sends_sends]

/-- What the fixed action of an occurrence sends (R148). -/
def State.fixedNews (s : State) : FaultId → List Handover
  | .driverShort (.ocv o) => (s.vdr.ocv.get o).binding.toList.map fun ch => .phcDriverFault ch true
  | .driverShort (.ls o) => (s.vdr.ls.get o).binding.toList.map .stuckAction
  | .driverOpen (.ocv o) => (s.vdr.ocv.get o).binding.toList.map fun ch => .phcDriverFault ch false
  | .driverOpen (.ls o) => (s.vdr.ls.get o).binding.toList.map .stuckAction
  | .parkFail ch => [.phcClass1 ch]
  | _ => []

theorem State.handDriverFault_ocv (s : State) (class1 : Bool) (o : LineABCD) : s.handDriverFault class1 (.ocv o) =
    s.sends ((s.vdr.ocv.get o).binding.toList.map fun ch => .phcDriverFault ch class1) := by
  unfold State.handDriverFault
  dsimp only
  cases (s.vdr.ocv.get o).binding with
  | none => exact (State.sends_nil s).symm
  | some ch => rfl

theorem State.handDriverFault_ls (s : State) (class1 : Bool) (o : LineAB) : s.handDriverFault class1 (.ls o) =
    s.sends ((s.vdr.ls.get o).binding.toList.map .stuckAction) := by
  unfold State.handDriverFault
  dsimp only
  cases (s.vdr.ls.get o).binding with
  | none => exact (State.sends_nil s).symm
  | some u => rfl

theorem State.fixedAction_eq (s : State) (id : FaultId) : s.fixedAction id = s.sends (s.fixedNews id) := by
  cases id with
  | driverShort out =>
    cases out with
    | ocv o => exact s.handDriverFault_ocv true o
    | ls o => exact s.handDriverFault_ls true o
  | driverOpen out =>
    cases out with
    | ocv o => exact s.handDriverFault_ocv false o
    | ls o => exact s.handDriverFault_ls false o
  | parkFail ch => rfl
  | _ => exact (State.sends_nil s).symm

theorem State.fixedNews_congr {s t : State} (h : t.vdr = s.vdr) (id : FaultId) : t.fixedNews id = s.fixedNews id := by
  unfold State.fixedNews
  rw [h]

theorem State.occur_eq (s : State) (id : FaultId) (r : FaultRec) : s.occur id r =
    (s.changeRecord id r.counted).sends (s.occurrenceNews id r.counted ++ s.fixedNews id) := by
  have hfault : (s.changeRecord id r.counted).fault id = r.counted := by
    rw [State.fault, State.changeRecord_table, FaultTable.get_set, if_pos rfl]
  have hresponse : (s.changeRecord id r.counted).occurrenceNews id r.counted = s.occurrenceNews id r.counted := by
    unfold State.occurrenceNews State.responseRec
    simp
  unfold State.occur
  rw [State.occurrence_eq, State.fixedAction_eq, State.sends_sends, hfault, hresponse,
    State.fixedNews_congr (s := s) (by simp [State.sends])]

/-! ### Reports (R141 to R143) -/

section
variable {s : State} {id : FaultId}

/-- The record as a condition is seen again. -/
def State.sightedAgain (s : State) (id : FaultId) : FaultRec := { s.fault id with lastSeen := some s.ckt.cycles }

/-- The record as a condition is seen for the first time (R141). -/
def State.firstSighted (s : State) (id : FaultId) : FaultRec :=
  { s.fault id with
    firstSeen := some s.ckt.cycles, lastSeen := some s.ckt.cycles, context := some (s.context id) }

theorem FaultRec.inactive_iff (r : FaultRec) : r.inactive = true ↔ r.state = .inactive := by
  rw [FaultRec.inactive, beq_iff_eq]

theorem State.seenFirst_of_inactive (h : (s.fault id).state = .inactive) : s.seenFirst id (s.fault id) =
    { s.fault id with firstSeen := some s.ckt.cycles, context := some (s.context id) } :=
  if_pos ((FaultRec.inactive_iff _).mpr h)

theorem State.seenFirst_of_not_inactive (h : (s.fault id).state ≠ .inactive) : s.seenFirst id (s.fault id) = s.fault id :=
  if_neg (mt (FaultRec.inactive_iff _).mp h)

theorem State.takePresent_of_inactive (h : (s.fault id).state = .inactive) : s.takePresent id =
    if (s.responseRec id).debounce ≤ 1 then s.occur id { s.firstSighted id with state := .active, tally := 0 }
    else s.changeRecord id { s.firstSighted id with state := .pending, tally := 1 } := by
  unfold State.takePresent
  rw [State.seenFirst_of_inactive h]
  dsimp only
  rw [h]
  rfl

theorem State.takePresent_of_pending (h : (s.fault id).state = .pending) : s.takePresent id =
    if (s.responseRec id).debounce ≤ (s.fault id).tally + 1 then
      s.occur id { s.sightedAgain id with state := .active, tally := 0 }
    else s.changeRecord id { s.sightedAgain id with tally := (s.fault id).tally + 1 } := by
  unfold State.takePresent State.sightedAgain
  rw [State.seenFirst_of_not_inactive (by rw [h]; decide)]
  dsimp only
  rw [h]

theorem State.takePresent_of_active (h : (s.fault id).state = .active) :
    s.takePresent id = s.changeRecord id (s.sightedAgain id) := by
  unfold State.takePresent State.sightedAgain
  rw [State.seenFirst_of_not_inactive (by rw [h]; decide)]
  dsimp only
  rw [h]

theorem State.takePresent_of_latched (h : (s.fault id).state = .latched) :
    s.takePresent id = s.occur id { s.sightedAgain id with state := .active, tally := 0 } := by
  unfold State.takePresent State.sightedAgain
  rw [State.seenFirst_of_not_inactive (by rw [h]; decide)]
  dsimp only
  rw [h]

theorem State.takeGone_of_pending (h : (s.fault id).state = .pending) :
    s.takeGone id = s.changeRecord id { FaultRec.clean with count := (s.fault id).count } := by
  unfold State.takeGone
  dsimp only
  rw [h]

theorem State.takeGone_of_active (h : (s.fault id).state = .active) :
    s.takeGone id = s.changeRecord id { s.fault id with state := .latched } := by
  unfold State.takeGone
  dsimp only
  rw [h]

theorem State.takeGone_of_rest (h : (s.fault id).state = .inactive ∨ (s.fault id).state = .latched) :
    s.takeGone id = s := by
  unfold State.takeGone
  dsimp only
  rcases h with h | h
  · rw [h]
  · rw [h]

theorem State.takeEvent_eq : s.takeEvent id = s.occur id
    { (if (s.fault id).state = .inactive then s.firstSighted id else s.fault id) with
      state := .latched, lastSeen := some s.ckt.cycles } := by
  unfold State.takeEvent State.seenFirst
  by_cases h : (s.fault id).state = .inactive
  · rw [if_pos h, if_pos ((FaultRec.inactive_iff _).mpr h)]
    rfl
  · rw [if_neg h, if_neg (mt (FaultRec.inactive_iff _).mp h)]

end

theorem FaultTable.outClear_eq (t : FaultTable) (out : Out) : t.outClear out =
    ((t.get (.driverShort out)).state == .inactive && (t.get (.driverOpen out)).state == .inactive) := rfl

theorem State.stuckClear_eq (s : State) (t : FaultTable) (u : LiftUnit) : s.stuckClear t u =
    ((t.get (.liftNoConfirm u)).state == .inactive && (s.boundLs u).all fun o => t.outClear (.ls o)) := by
  unfold State.stuckClear
  cases s.boundLs u <;> rfl

/-- Settles O52: each report by the state of its record, an occurrence and a record change by what they send. -/
theorem reportsMoveTheirRecord : Obligations.ReportsMoveTheirRecord := by
  refine ⟨fun s t id => ?_, fun s id r => ⟨rfl, ?_⟩, fun s new => ?_⟩
  · intro r seen first debounce takes
    refine ⟨fun hk => ?_, fun hk => ?_, fun hk => ?_⟩
    · have he : exec (.faultPresent id) s = .next (t.takePresent id) := execFaultPresent_of_take id hk
      rw [he]
      refine ⟨fun h hd => ?_, fun h hd => ?_, fun h hd => ?_, fun h hd => ?_, fun h => ?_, fun h => ?_⟩
      · exact congrArg _ ((State.takePresent_of_inactive h).trans (if_pos hd))
      · exact congrArg _ ((State.takePresent_of_inactive h).trans (if_neg (not_le.mpr hd)))
      · exact congrArg _ ((State.takePresent_of_pending h).trans (if_pos hd))
      · exact congrArg _ ((State.takePresent_of_pending h).trans (if_neg (not_le.mpr hd)))
      · exact congrArg _ (State.takePresent_of_active h)
      · exact congrArg _ (State.takePresent_of_latched h)
    · have he : exec (.faultGone id) s = .next (t.takeGone id) := execFaultGone_of_take id hk
      rw [he]
      exact ⟨fun h => congrArg _ (State.takeGone_of_pending h), fun h => congrArg _ (State.takeGone_of_active h),
        fun h => congrArg _ (State.takeGone_of_rest h)⟩
    · have he : exec (.faultEvent id) s = .next (t.takeEvent id) := execFaultEvent_of_take id hk
      exact he.trans (congrArg _ State.takeEvent_eq)
  · exact s.occur_eq id r
  · intro q u clear calm
    have hcalm (t : FaultTable) (v : LiftUnit) : s.stuckClear t v = calm t v := s.stuckClear_eq t v
    rw [State.changeRecords_eq]
    unfold State.unitClearNews
    simp only [hcalm]
    rfl

/-! ### The responses in force (R147) -/

theorem mem_allKinds (k : FaultKind) : k ∈ allKinds := by cases k <;> decide

theorem mem_allFaultIds (id : FaultId) : id ∈ allFaultIds :=
  List.mem_flatMap.mpr ⟨faultKind id, mem_allKinds _, (mem_kindRecords _ _).mpr rfl⟩

theorem FaultRec.held_iff (r : FaultRec) : r.held = true ↔ r.state = .active ∨ r.state = .latched := by
  unfold FaultRec.held
  cases r.state <;> decide

section
variable {α : Type} (f : α → PhaserAction)

theorem strongest_eq_park (a b : PhaserAction) : a.strongest b = .park ↔ a = .park ∨ b = .park := by
  cases a <;> cases b <;> decide

theorem strongest_eq_none (a b : PhaserAction) : a.strongest b = .none ↔ a = .none ∧ b = .none := by
  cases a <;> cases b <;> decide

theorem foldl_strongest_eq_park (l : List α) (a : PhaserAction) :
    l.foldl (fun acc x => acc.strongest (f x)) a = .park ↔ a = .park ∨ ∃ x ∈ l, f x = .park := by
  induction l generalizing a with
  | nil => simp
  | cons x l ih => rw [List.foldl_cons, ih, strongest_eq_park, List.exists_mem_cons_iff, or_assoc]

theorem foldl_strongest_eq_none (l : List α) (a : PhaserAction) :
    l.foldl (fun acc x => acc.strongest (f x)) a = .none ↔ a = .none ∧ ∀ x ∈ l, f x = .none := by
  induction l generalizing a with
  | nil => simp
  | cons x l ih => rw [List.foldl_cons, ih, strongest_eq_none, List.forall_mem_cons, and_assoc]

/-- HOLD is the strongest where nothing parks and something holds. -/
theorem foldl_strongest_eq_hold (l : List α) :
    l.foldl (fun acc x => acc.strongest (f x)) PhaserAction.none = .hold ↔
    (¬ ∃ x ∈ l, f x = .park) ∧ ∃ x ∈ l, f x = .hold := by
  have hpark := foldl_strongest_eq_park f l .none
  have hnone := foldl_strongest_eq_none f l .none
  have hact (a : PhaserAction) : a = .hold ↔ a ≠ .park ∧ a ≠ .none := by cases a <;> decide
  rw [hact, Ne, hpark, Ne, hnone]
  simp only [reduceCtorEq, false_or, true_and, not_forall]
  refine and_congr_right fun hp => ⟨fun ⟨x, hx, hn⟩ => ⟨x, hx, ?_⟩, fun ⟨x, hx, he⟩ => ⟨x, hx, by simp [he]⟩⟩
  exact (hact _).mpr ⟨fun h => hp ⟨x, hx, h⟩, hn⟩

end

section
variable (s : State)

/-- A held record of a kind that acts on the channel. -/
def State.covered (ch : Chan) (id : FaultId) : Prop :=
  ((s.fault id).state = .active ∨ (s.fault id).state = .latched) ∧
    ((s.responseRec id).phaserAll = true ∨ s.ownCoversChan id ch = true)

theorem State.coversChan_iff (ch : Chan) (id : FaultId) : s.coversChan ch id = true ↔ s.covered ch id := by
  rw [State.coversChan, Bool.and_eq_true, Bool.or_eq_true, FaultRec.held_iff]
  rfl

theorem State.mem_covering (ch : Chan) (id : FaultId) :
    id ∈ allFaultIds.filter (s.coversChan ch) ↔ s.covered ch id := by
  rw [List.mem_filter, s.coversChan_iff]
  exact and_iff_right (mem_allFaultIds id)

theorem State.chanResponseNow_eq_park (ch : Chan) : s.chanResponseNow ch = .park ↔
    ∃ id, s.covered ch id ∧ (s.responseRec id).phaser = .park := by
  rw [State.chanResponseNow, foldl_strongest_eq_park fun id => (s.responseRec id).phaser]
  simp only [reduceCtorEq, false_or, s.mem_covering]

theorem State.chanResponseNow_eq_hold (ch : Chan) : s.chanResponseNow ch = .hold ↔
    (¬ ∃ id, s.covered ch id ∧ (s.responseRec id).phaser = .park) ∧
      ∃ id, s.covered ch id ∧ (s.responseRec id).phaser = .hold := by
  rw [State.chanResponseNow, foldl_strongest_eq_hold fun id => (s.responseRec id).phaser]
  simp only [s.mem_covering]

theorem State.unitLowNow_iff (u : LiftUnit) : s.unitLowNow u = true ↔
    ∃ id, ((s.fault id).state = .active ∨ (s.fault id).state = .latched) ∧ (s.responseRec id).liftLow = true ∧
      ((s.responseRec id).liftAll = true ∨ s.ownCoversUnit id u = true) := by
  simp only [State.unitLowNow, List.any_eq_true, mem_allFaultIds, true_and, State.lowersUnit, Bool.and_eq_true,
    Bool.or_eq_true, FaultRec.held_iff, and_assoc]

/-! ### FLT (R149) -/

theorem State.classOneHeld_iff : (allFaultIds.any fun id => faultClass (faultKind id) == 1 && (s.fault id).held) = true ↔
    (∃ ch, (s.fault (.parkFail ch)).held = true) ∨ (∃ out, (s.fault (.driverShort out)).held = true) ∨
      (s.fault .liftMismatch).held = true := by
  simp only [List.any_eq_true, mem_allFaultIds, true_and, Bool.and_eq_true, beq_iff_eq]
  constructor
  · rintro ⟨id, hclass, hheld⟩
    cases id with
    | parkFail ch => exact .inl ⟨ch, hheld⟩
    | driverShort out => exact .inr (.inl ⟨out, hheld⟩)
    | liftMismatch => exact .inr (.inr hheld)
    | _ => cases hclass
  · rintro (⟨ch, h⟩ | ⟨out, h⟩ | h)
    · exact ⟨.parkFail ch, rfl, h⟩
    · exact ⟨.driverShort out, rfl, h⟩
    · exact ⟨.liftMismatch, rfl, h⟩

theorem State.anyLockout_iff : (allChans.any fun ch => (s.phc.chans.get ch).state == .lockout) = true ↔
    ∃ ch, (s.phc.chans.get ch).state = .lockout := by
  have hall (ch : Chan) : ch ∈ allChans := by cases ch <;> decide
  simp only [List.any_eq_true, hall, true_and, beq_iff_eq]

theorem State.fltNow_iff : s.fltNow = true ↔
    (∃ ch, (s.fault (.parkFail ch)).held = true ∨ (s.phc.chans.get ch).state = .lockout) ∨
      (∃ out, (s.fault (.driverShort out)).held = true) ∨ (s.fault .liftMismatch).held = true := by
  rw [State.fltNow, Bool.or_eq_true, s.classOneHeld_iff, s.anyLockout_iff, exists_or]
  tauto

end

/-- Settles O53: the strongest of the covering records' actions, any record that lowers, any class-1 record or LOCKOUT. -/
theorem responsesAndFltFollowTheRecords : Obligations.ResponsesAndFltFollowTheRecords := by
  refine ⟨fun s => ?_, fun s t ho => execFmgLockoutChange_of_offers ho⟩
  intro held y
  refine ⟨fun ch => ?_, fun u => ?_, ?_, s.recompute_eq⟩
  · intro own covers
    have hown (id : FaultId) : s.ownCoversChan id ch = true ↔ own id := by
      cases id with
      | driverShort out => cases out <;> simp [State.ownCoversChan, own]
      | driverOpen out => cases out <;> simp [State.ownCoversChan, own]
      | _ => simp [State.ownCoversChan, own]
    have hcovers (id : FaultId) : s.covered ch id ↔ covers id := by
      rw [State.covered, hown]
      rfl
    refine ⟨(s.chanResponseNow_eq_park ch).trans ?_, (s.chanResponseNow_eq_hold ch).trans ?_⟩
    · simp only [hcovers]
      rfl
    · simp only [hcovers]
      rfl
  · intro own
    have hown (id : FaultId) : s.ownCoversUnit id u = true ↔ own id := by
      cases id with
      | driverShort out => cases out <;> simp [State.ownCoversUnit, own]
      | driverOpen out => cases out <;> simp [State.ownCoversUnit, own]
      | _ => simp [State.ownCoversUnit, own]
    refine (s.unitLowNow_iff u).trans ?_
    simp only [hown]
    rfl
  · rw [s.fltNow_iff]
    simp only [FaultRec.held_iff]
    rfl

end Sys2Proof.Machine
end

section
/-! Proofs about the requests of the Fault Manager (R145, R146, R150, R151): record lines, RSPW and RSPR, FLTR and FLTC. -/

namespace Sys2Proof.Machine

/-! ### Record lines (R141, R150) -/

theorem optField_word32 (x : Option Word32) : optField word32 x = x.elim .absent fun c => .num c.toNat := by
  cases x <;> rfl

theorem isInstance_faultInstance (id : FaultId) : isInstance (faultInstance id) = true := by
  rw [isInstance_iff]
  cases id with
  | camPattern ch | camMissing ch | phaserStuck ch | parkFail ch => exact .inr (.inl ⟨chanNum ch, rfl⟩)
  | liftNoConfirm u | liftPosition u => exact .inr (.inl ⟨unitNum u, rfl⟩)
  | driverShort out | driverOpen out => exact .inr (.inr ⟨out, rfl⟩)
  | _ => exact .inl rfl

/-! ### RSPW and RSPR (R145, R146) -/

/-- A record below the fixed minimum of its kind (R145). -/
theorem fixedMinimum_eq_false_iff (k : FaultKind) (r : ResponseRec) : fixedMinimum k r = false ↔
    k = .parkFail ∧ r.phaser ≠ .park ∨ k = .liftMismatch ∧ r.liftLow = false := by
  cases k <;> simp [fixedMinimum]

/-- The eight fields of an RSPW: a kind, and a record's fields with `d` for the debounce. -/
def rspwFields (k : FaultKind) (r : ResponseRec) (d : Int) : List Field :=
  .word (kindWord k) :: (responseFields r).set 4 (.num d)

theorem readResponse_rspwFields (k : FaultKind) (r : ResponseRec) (d : Int) :
    readResponse (rspwFields k r d) = some (k, { r with debounce := 0 }, d) :=
  (readResponse_eq_some_iff _ _ _ _).mpr ⟨rfl, rfl⟩

theorem readResponse_eq_none {fields : List Field} (h : ∀ k r d, fields ≠ rspwFields k r d) :
    readResponse fields = none := by
  refine Option.eq_none_iff_forall_ne_some.mpr fun ⟨k, r, d⟩ he => ?_
  exact h k r d ((readResponse_eq_some_iff _ _ _ _).mp he).2

section
variable {s : State} {fields : List Field}

theorem State.doRspw_of_malformed (h : ∀ k r d, fields ≠ rspwFields k r d) : s.doRspw fields = s.answer .RSPW .format := by
  unfold State.doRspw
  rw [readResponse_eq_none h]

theorem State.doRspw_rspwFields (k : FaultKind) (r : ResponseRec) (d : Int) : s.doRspw (rspwFields k r d) =
    if s.smc.mode ≠ .standby then s.answer .RSPW .mode
    else if s.saving .response then s.answer .RSPW .busy
    else if d < 1 ∨ 8 < d ∨ k = .parkFail ∧ r.phaser ≠ .park ∨ k = .liftMismatch ∧ r.liftLow = false then
      s.answer .RSPW .range
    else (s.writeResponse k { r with debounce := d.toNat }).answer .RSPW .ok := by
  unfold State.doRspw
  rw [readResponse_rspwFields]
  dsimp only
  simp only [fixedMinimum_eq_false_iff]

theorem State.doRspr_kind (k : FaultKind) :
    s.doRspr [.word (kindWord k)] = s.answer .RSPR .ok (responseFields (s.tbm.response.get k)) := by
  cases k <;> rfl

theorem State.doRspr_of_other (hn : fields ≠ []) (ho : fields ≠ [.word .ORIGIN])
    (hk : ∀ k, fields ≠ [.word (kindWord k)]) : s.doRspr fields = s.answer .RSPR .format := by
  unfold State.doRspr
  split
  · exact absurd rfl hn
  · exact absurd rfl ho
  · next f _ =>
    have hnone : kind? f = none := Option.eq_none_iff_forall_ne_some.mpr fun k he =>
      hk k (by rw [(kind?_eq_some_iff f k).mp he])
    rw [hnone]
  · rfl

/-! ### FLTR and FLTC (R150, R151) -/

theorem State.doFltr_of_error {st : Status} (hn : fields ≠ []) (hf : fields ≠ [.word .FORCE])
    (h : namedRecords fields = .error st) : s.doFltr fields = s.answer .FLTR st := by
  unfold State.doFltr
  split
  · exact absurd rfl hn
  · exact absurd rfl hf
  · rw [h]

theorem State.doFltr_kind (k : FaultKind) :
    s.doFltr [.word (kindWord k)] = s.answerRun .FLTR ((kindRecords k).map s.recordLine) := by
  have h := namedRecords_kind k
  unfold State.doFltr
  split
  · next e => cases e
  · next e => cases k <;> cases e
  · rw [h]

theorem State.doFltr_instance (id : FaultId) : s.doFltr [.word (kindWord (faultKind id)), faultInstance id] =
    s.answer .FLTR .ok (s.recordLine id) := by
  have h := namedRecords_instance id (isInstance_faultInstance id)
  unfold State.doFltr
  split
  · next e => cases e
  · next e => simp at e
  · rw [h, ← List.flatMap_singleton s.recordLine id]

theorem State.doFltc_of_error {st : Status} (ha : fields ≠ [.word .ALL]) (h : namedRecords fields = .error st) :
    s.doFltc fields = s.answer .FLTC st := by
  unfold State.doFltc
  split
  · exact absurd rfl ha
  · rw [h]

theorem State.doFltc_of_ok {ids : List FaultId} (ha : fields ≠ [.word .ALL]) (h : namedRecords fields = .ok ids) :
    s.doFltc fields = s.clearRecords ids := by
  unfold State.doFltc
  split
  · exact absurd rfl ha
  · rw [h]

/-- What the fields of FLTC name: every record, the records of a kind, or one. -/
theorem State.doFltc_named {ids : List FaultId} (h : fields = [.word .ALL] ∧ ids = allFaultIds ∨
    (∃ k, fields = [.word (kindWord k)] ∧ ids = kindRecords k) ∨
      ∃ id, fields = [.word (kindWord (faultKind id)), faultInstance id] ∧ ids = [id]) :
    s.doFltc fields = s.clearRecords ids := by
  rcases h with ⟨rfl, rfl⟩ | ⟨k, rfl, rfl⟩ | ⟨id, rfl, rfl⟩
  · rfl
  · exact State.doFltc_of_ok (by cases k <;> simp [kindWord]) (namedRecords_kind k)
  · exact State.doFltc_of_ok (by simp) (namedRecords_instance id (isInstance_faultInstance id))

/-- The statuses that refuse fields which name no record, by the first thing wrong (R150, R151). -/
def refusedBy (fields : List Field) (refused : Status → Prop) : Prop :=
  ((∀ k rest, fields ≠ .word (kindWord k) :: rest) → refused .format) ∧
  (∀ k i rest, fields = .word (kindWord k) :: i :: rest →
    rest ≠ [] ∨ ¬ (i = .absent ∨ (∃ v, i = .num v) ∨ ∃ out, i = .word (outWord out)) → refused .format) ∧
  (∀ k i, fields = [.word (kindWord k), i] → (i = .absent ∨ (∃ v, i = .num v) ∨ ∃ out, i = .word (outWord out)) →
    (∀ id, faultKind id = k → faultInstance id ≠ i) → refused .range)

theorem refusedBy_of_error {refused : Status → Prop} (h : ∀ st, namedRecords fields = .error st → refused st) :
    refusedBy fields refused := by
  refine ⟨fun hk => h _ (namedRecords_no_kind fields hk), fun k i rest hf hi => ?_, fun k i hf hi hid => ?_⟩
  · refine h _ (hf ▸ namedRecords_no_instance k i rest (hi.imp_right fun hn => ?_))
    exact Bool.eq_false_iff.mpr (mt (isInstance_iff i).mp hn)
  · exact h _ (hf ▸ namedRecords_foreign k i ((isInstance_iff i).mpr hi) hid)

end

/-! ### Clearing records (R151) -/

theorem FaultRec.cleared_cleared (r : FaultRec) : r.cleared.cleared = r.cleared := by
  unfold FaultRec.cleared
  by_cases h : r.state = .latched
  · rw [if_pos h]
    exact if_neg (by simp [FaultRec.clean])
  · rw [if_neg h, if_neg h]

theorem FaultTable.clear_get (ids : List FaultId) (t : FaultTable) (id : FaultId) :
    (t.clear ids).get id = if id ∈ ids then (t.get id).cleared else t.get id := by
  induction ids generalizing t with
  | nil => rfl
  | cons a ids ih =>
    have hcons : t.clear (a :: ids) = (t.set a (t.get a).cleared).clear ids := rfl
    rw [hcons, ih, FaultTable.get_set]
    by_cases ha : a = id
    · rw [if_pos ha, ha, FaultRec.cleared_cleared, ite_self, if_pos List.mem_cons_self]
    · have hmem : id ∈ a :: ids ↔ id ∈ ids := by simp [Ne.symm ha]
      simp only [if_neg ha, hmem]

theorem FaultRec.cleared_of_latched {r : FaultRec} (h : r.state = .latched) :
    r.cleared = ⟨.inactive, r.count, 0, none, none, none⟩ := if_pos h

theorem FaultTable.clear_get_eq (ids : List FaultId) (t : FaultTable) (id : FaultId) : (t.clear ids).get id =
    if id ∈ ids ∧ (t.get id).state = .latched then ⟨.inactive, (t.get id).count, 0, none, none, none⟩ else t.get id := by
  rw [FaultTable.clear_get]
  by_cases hm : id ∈ ids
  · by_cases hl : (t.get id).state = .latched
    · rw [if_pos hm, if_pos ⟨hm, hl⟩, FaultRec.cleared_of_latched hl]
    · rw [if_pos hm, if_neg fun h => hl h.2]
      exact if_neg hl
  · rw [if_neg hm, if_neg fun h => hm h.1]

theorem FaultRec.present_eq (r : FaultRec) : r.present = (r.state == .active || r.state == .pending) := by
  unfold FaultRec.present
  cases r.state <;> rfl

theorem State.clearRecords_eq (s : State) (ids : List FaultId) : s.clearRecords ids =
    (s.changeRecords (s.fmg.table.clear ids)).answer .FLTC .ok
      [.num (ids.filter fun id => (s.fault id).state == .latched).length,
        .num (ids.filter fun id => (s.fault id).state == .active || (s.fault id).state == .pending).length] := by
  unfold State.clearRecords
  simp only [FaultRec.present_eq]
  rfl

/-- Settles O54: the spelling of a record line, then each request by the form of its fields. -/
theorem faultRequestsReadAndClear : Obligations.FaultRequestsReadAndClear := by
  intro s t fields shown instance_ refusals
  have hshown (r : ResponseRec) : responseFields r = shown r := rfl
  have hrefusals (p : Status → Prop) : refusedBy fields p → refusals p := id
  refine ⟨fun id => ?_, fun k => ⟨mem_kindRecords k, by cases k <;> decide⟩, fun hb => ?_, fun hb => ?_, fun hb => ?_,
    fun hb => ?_⟩
  · intro r cycle flag
    refine ⟨by cases id <;> rfl, ?_⟩
    have hcycle (c : Option Word32) : optField word32 c = cycle c := optField_word32 c
    have hline : t.recordLine id = [.word (kindWord (faultKind id)), faultInstance id, .word (recStateWord r.state),
        .num r.count, .num r.tally, cycle r.firstSeen, cycle r.lastSeen] ++ contextFields id r.context := by
      rw [← hcycle, ← hcycle]
      rfl
    rw [hline]
    refine congrArg _ ?_
    cases r.context with
    | none => cases id <;> rfl
    | some c =>
      obtain ⟨mode, crank, rpm, supplyState, supply, scope⟩ := c
      cases scope with
      | ocv line bound => cases bound <;> rfl
      | ls line bound => cases bound <;> rfl
      | _ => rfl
  · have he : exec (.rspw fields) s = .next (t.doRspw fields) := exec_of_begins (act := fun s => s.doRspw fields) rfl hb
    rw [he]
    refine ⟨fun h => congrArg _ (State.doRspw_of_malformed h), fun k r d hf => ?_⟩
    have hfields : fields = rspwFields k r d := hf
    intro wrong
    rw [hfields, State.doRspw_rspwFields]
    refine ⟨fun hm => ?_, fun hm hs => ?_, fun hm hs hw => ?_, fun hm hs hw => ?_⟩
    · exact congrArg _ (if_pos hm)
    · exact congrArg _ ((if_neg (not_not_intro hm)).trans (if_pos hs))
    · rw [if_neg (not_not_intro hm), if_neg (by simp [hs])]
      exact congrArg _ (if_pos hw)
    · rw [if_neg (not_not_intro hm), if_neg (by simp [hs])]
      refine congrArg _ ((if_neg hw).trans ?_)
      rw [State.writeResponse, State.recompute_eq]
  · have he : exec (.rspr fields) s = .next (t.doRspr fields) := exec_of_begins (act := fun s => s.doRspr fields) rfl hb
    rw [he]
    refine ⟨fun h => by rw [h]; rfl, fun h => by rw [h]; rfl, fun k h => ?_, fun hn ho hk => ?_⟩
    · rw [h, State.doRspr_kind, hshown]
    · rw [State.doRspr_of_other hn ho hk]
  · have he : exec (.fltr fields) s = .next (t.doFltr fields) := exec_of_begins (act := fun s => s.doFltr fields) rfl hb
    rw [he]
    refine ⟨fun h => ⟨by decide, by rw [h]; rfl⟩, fun h => by rw [h]; rfl, fun k h => ?_, fun id h => ?_, fun hn hf => ?_⟩
    · rw [h, State.doFltr_kind]
    · rw [h, State.doFltr_instance]
    · exact hrefusals _ (refusedBy_of_error fun st h => congrArg _ (State.doFltr_of_error hn hf h))
  · have he : exec (.fltc fields) s = .next (t.doFltc fields) := exec_of_begins (act := fun s => s.doFltc fields) rfl hb
    rw [he]
    refine ⟨fun ha => hrefusals _ (refusedBy_of_error fun st h => congrArg _ (State.doFltc_of_error ha h)),
      fun ids hids => ⟨t.fmg.table.clear ids, t.fmg.table.clear_get_eq ids, ?_⟩⟩
    rw [State.doFltc_named hids, State.clearRecords_eq]

end Sys2Proof.Machine
end

section
/-! Proofs about the pages of the store (R161, R162): what a region's pages make of it, and what a programmed page holds. -/

namespace Sys2Proof.Machine

/-! ### What a list of pages gives (R162) -/

section
variable {α β : Type}

theorem filterMap_mapIdx_of_all {f : Nat → α → Option β} {l : List α} {b : β}
    (h : ∀ i a, l[i]? = some a → f i a = some b) : (l.mapIdx f).filterMap id = List.replicate l.length b := by
  have hrep : l.mapIdx f = List.replicate l.length (some b) := by
    refine List.eq_replicate_iff.mpr ⟨List.length_mapIdx, fun x hx => ?_⟩
    obtain ⟨i, hi, rfl⟩ := List.mem_mapIdx.mp hx
    exact h i _ (List.getElem?_eq_getElem hi)
  rw [hrep]
  simp

theorem filterMap_mapIdx_eq_nil {f : Nat → α → Option β} {l : List α} (h : ∀ i a, l[i]? = some a → f i a = none) :
    (l.mapIdx f).filterMap id = [] := by
  refine List.filterMap_eq_nil_iff.mpr fun x hx => ?_
  obtain ⟨i, hi, rfl⟩ := List.mem_mapIdx.mp hx
  exact h i _ (List.getElem?_eq_getElem hi)

theorem mem_filterMap_mapIdx {f : Nat → α → Option β} {l : List α} {i : Nat} {a : α} {b : β} (hi : l[i]? = some a)
    (hb : f i a = some b) : b ∈ (l.mapIdx f).filterMap id :=
  List.mem_filterMap.mpr ⟨some b, List.mem_of_getElem? (i := i) (by simp [hi, hb]), rfl⟩

theorem headD_filterMap_mapIdx {f : Nat → α → Option β} {l : List α} {i : Nat} {a : α} {b d : β} (hi : l[i]? = some a)
    (hb : f i a = some b) (hn : ∀ j c, j < i → l[j]? = some c → f j c = none) :
    ((l.mapIdx f).filterMap id).headD d = b := by
  induction l generalizing f i with
  | nil => simp at hi
  | cons c l ih =>
    rw [List.mapIdx_cons]
    cases i with
    | zero =>
      obtain rfl : c = a := by simpa using hi
      have hc : id (f 0 c) = some b := hb
      rw [List.filterMap_cons_some hc]
      rfl
    | succ i =>
      have hc : id (f 0 c) = none := hn 0 c (by omega) rfl
      rw [List.filterMap_cons_none hc]
      exact ih (f := fun i => f (i + 1)) hi hb fun j x hj hx => hn (j + 1) x (by omega) hx

end

section
variable {r : Region} {pages : List Page}

theorem Page.good_iff (p : Page) (r : Region) (i : Nat) : p.good r i = true ↔
    p.passes = true ∧ p.byte 0 = BitVec.ofNat 8 (regionId r) ∧ p.byte 1 = BitVec.ofNat 8 i := by
  rw [Page.good, Bool.and_eq_true, Bool.and_eq_true, beq_iff_eq, beq_iff_eq, and_assoc]

/-- An erased page is good nowhere, whatever table it stands for. -/
theorem Page.good_of_isErased {p : Page} (h : p.isErased = true) (r : Region) (i : Nat) : p.good r i = false := by
  have hbytes : p.bytes = List.replicate 128 0xFF#8 := by simpa [Page.isErased] using h
  have hsame : p.good r i = Page.erased.good r i := by
    simp only [Page.good, Page.passes, Page.byte, hbytes]
    rfl
  rw [hsame, Page.erased_good]

theorem evaluatePages_of_cons {g : Gen} {rest : List Gen} (h : goodGens r pages = g :: rest) :
    evaluatePages r pages = if decide ((g :: rest).length = pages.length) && rest.all (· == g) then ⟨.valid, g⟩
      else ⟨.invalid, g⟩ := by
  unfold evaluatePages
  rw [h]

theorem evaluatePages_of_nil (h : goodGens r pages = []) :
    evaluatePages r pages = if pages.all Page.isErased then ⟨.blank, 0⟩ else ⟨.invalid, 0⟩ := by
  unfold evaluatePages
  rw [h]

theorem evaluatePages_gen : (evaluatePages r pages).gen = (goodGens r pages).headD 0 := by
  cases h : goodGens r pages with
  | nil =>
    rw [evaluatePages_of_nil h]
    split <;> rfl
  | cons g rest =>
    rw [evaluatePages_of_cons h]
    split <;> rfl

theorem evaluatePages_valid {g : Gen} (hne : pages ≠ [])
    (h : ∀ (i : Nat) (p : Page), pages[i]? = some p → p.good r i = true ∧ p.gen = g) :
    evaluatePages r pages = ⟨.valid, g⟩ := by
  obtain ⟨p, rest, rfl⟩ := List.exists_cons_of_ne_nil hne
  have hgens : goodGens r (p :: rest) = g :: List.replicate rest.length g :=
    filterMap_mapIdx_of_all fun i p hp => by rw [if_pos (h i p hp).1, (h i p hp).2]
  rw [evaluatePages_of_cons hgens, if_pos (by simp)]

theorem goodGens_eq_nil (h : ∀ (i : Nat) (p : Page), pages[i]? = some p → p.good r i = false) : goodGens r pages = [] :=
  filterMap_mapIdx_eq_nil fun i p hp => by simp [h i p hp]

theorem evaluatePages_blank (h : ∀ p ∈ pages, p.isErased = true) : evaluatePages r pages = ⟨.blank, 0⟩ := by
  have hgens : goodGens r pages = [] :=
    goodGens_eq_nil fun i p hp => Page.good_of_isErased (h p (List.mem_of_getElem? hp)) r i
  rw [evaluatePages_of_nil hgens, if_pos (List.all_eq_true.mpr h)]

theorem mem_goodGens {i : Nat} {p : Page} (hi : pages[i]? = some p) (hp : p.good r i = true) : p.gen ∈ goodGens r pages :=
  mem_filterMap_mapIdx hi (if_pos hp)

/-- Good pages of two generations make a region INVALID. -/
theorem evaluatePages_of_two_gens {a b : Gen} (ha : a ∈ goodGens r pages) (hb : b ∈ goodGens r pages) (hab : a ≠ b) :
    (evaluatePages r pages).status = .invalid := by
  cases h : goodGens r pages with
  | nil => simp [h] at ha
  | cons g rest =>
    rw [h] at ha hb
    rw [evaluatePages_of_cons h, if_neg]
    intro hall
    have hsame (x : Gen) (hx : x ∈ g :: rest) : x = g := by
      rcases List.mem_cons.mp hx with rfl | hx
      · rfl
      · exact beq_iff_eq.mp (List.all_eq_true.mp (Bool.and_eq_true_iff.mp hall).2 x hx)
    exact hab ((hsame a ha).trans (hsame b hb).symm)

end

/-! ### A programmed page (R161) -/

section
variable (id index : Nat) (g : Gen) (image : TableImage)

theorem Page.build_spare : ((Page.build id index g image).bytes.drop 5).take 3 = [0#8, 0#8, 0#8] := rfl

theorem Page.build_used : ((Page.build id index g image).byte 4).toNat ≤ 116 := by
  have hbyte : (Page.build id index g image).byte 4 =
      BitVec.ofNat 8 ((Config.encodePayload image index).take 116).length := rfl
  have hlen : ((Config.encodePayload image index).take 116).length ≤ 116 := List.length_take_le _ _
  rw [hbyte, BitVec.toNat_ofNat]
  exact (Nat.mod_le _ _).trans hlen

end

end Sys2Proof.Machine
end

section
/-! Proofs about the operation of the store (R164 to R167, R169): SAVE and the pages of a save, SWEP and the pages of a
sweep, suspension and resumption. -/

namespace Sys2Proof.Machine

/-! ### SAVE (R165) -/

theorem region?_eq_some_iff (f : Field) (r : Region) : region? f = some r ↔ f = .word (regionWord r) := by
  constructor
  · intro h
    unfold region? at h
    split at h
    · next w =>
      have hw := List.find?_some h
      rw [beq_iff_eq] at hw
      rw [hw]
    · cases h
  · rintro rfl
    cases r <;> rfl

theorem oneRegion_word (r : Region) : oneRegion [.word (regionWord r)] = some r :=
  (region?_eq_some_iff _ r).mpr rfl

theorem oneRegion_eq_none {fields : List Field} (h : ∀ r, fields ≠ [.word (regionWord r)]) : oneRegion fields = none := by
  unfold oneRegion
  split
  · next f => exact Option.eq_none_iff_forall_ne_some.mpr fun r hr => h r (by rw [(region?_eq_some_iff f r).mp hr])
  · rfl

/-- The region is kept from saves: the identity, a locked region, a guarded one while GUARD is on (R163, R165). -/
def State.kept (s : State) (r : Region) : Prop :=
  r = .ident ∨ s.cst.locks.get r = true ∨ (r = .layout ∨ r = .tuning ∨ r = .response) ∧ s.cst.guardOn = true

section
variable {s : State} {r : Region}

theorem State.protected_iff (hr : r ≠ .ident) :
    (s.cst.locks.get r || (guardSubject r && s.cst.guardOn)) = true ↔ s.kept r := by
  have hsubject : guardSubject r = true ↔ r = .layout ∨ r = .tuning ∨ r = .response := by cases r <;> decide
  rw [Bool.or_eq_true, Bool.and_eq_true, hsubject, State.kept, or_iff_right hr]

theorem Tbm.image_of_ne_ident (t : Tbm) (hr : r ≠ .ident) : ∃ image, t.image r = some image := by
  cases r with
  | ident => exact absurd rfl hr
  | _ => exact ⟨_, rfl⟩

theorem State.doSave_of_malformed {fields : List Field} (h : ∀ r, fields ≠ [.word (regionWord r)]) :
    s.doSave fields = s.answer .SAVE .format := by
  unfold State.doSave
  rw [oneRegion_eq_none h]

theorem State.doSave_of_kept (h : s.kept r) : s.doSave [.word (regionWord r)] = s.answer .SAVE .protect := by
  unfold State.doSave
  rw [oneRegion_word]
  dsimp only
  by_cases hr : r = .ident
  · rw [hr]
    rfl
  · obtain ⟨image, hi⟩ := s.tbm.image_of_ne_ident hr
    rw [hi, (State.protected_iff hr).mpr h]

variable {image : TableImage} (hk : ¬ s.kept r)
include hk

theorem State.doSave_of_saving {x : Region} {y : Gen} {z : TableImage} (ho : s.cst.op.kind = .save x y z) :
    s.doSave [.word (regionWord r)] = s.answer .SAVE .busy := by
  have hr : r ≠ .ident := fun h => hk (.inl h)
  obtain ⟨image, hi⟩ := s.tbm.image_of_ne_ident hr
  unfold State.doSave
  rw [oneRegion_word]
  dsimp only
  rw [hi, Bool.eq_false_iff.mpr (mt (State.protected_iff hr).mp hk), ho]

theorem State.doSave_of_sweep (hi : s.tbm.image r = some image) (ho : s.cst.op.kind = .sweep) :
    s.doSave [.word (regionWord r)] = (s.abandonSweep.startSave r image).answer .SAVE .accepted := by
  have hr : r ≠ .ident := fun h => hk (.inl h)
  unfold State.doSave
  rw [oneRegion_word]
  dsimp only
  rw [hi, Bool.eq_false_iff.mpr (mt (State.protected_iff hr).mp hk), ho]

theorem State.doSave_of_free (hi : s.tbm.image r = some image) (ho : s.cst.op.kind = .none) :
    s.doSave [.word (regionWord r)] = (s.startSave r image).answer .SAVE .accepted := by
  have hr : r ≠ .ident := fun h => hk (.inl h)
  unfold State.doSave
  rw [oneRegion_word]
  dsimp only
  rw [hi, Bool.eq_false_iff.mpr (mt (State.protected_iff hr).mp hk), ho]

end

section
variable (s : State)

theorem State.supplyNormal_iff : s.supplyNormal = true ↔ s.smc.supplyState = .normal := by
  rw [State.supplyNormal, beq_iff_eq]

theorem State.abandonSweep_eq : s.abandonSweep = State.sends
    { s with cst := { s.cst with op := .idle, sweep := .abandoned } } [.notice .cst (.stoSweep .abandoned)] := by
  rw [State.abandonSweep, State.endOp, State.notice_eq_sends]
  rfl

/-- The operation record of a save as it begins. -/
def State.saveOp (s : State) (r : Region) (image : TableImage) (running : Bool) : StoreOp :=
  ⟨.save r ((s.cst.regions.get r).gen + 1) image, running, false, regionFirst r, none⟩

variable {s}

theorem State.startSave_running (r : Region) (image : TableImage) (h : s.smc.supplyState = .normal) :
    s.startSave r image = { s with cst := { s.cst with
      op := s.saveOp r image true
      pages := s.cst.pages.set (regionFirst r) .erased
      regions := s.cst.regions.set r ⟨.invalid, (s.cst.regions.get r).gen⟩ } } := by
  have hn : s.supplyNormal = true := s.supplyNormal_iff.mpr h
  unfold State.startSave
  dsimp only
  rw [hn, if_pos rfl, State.beginErase]
  exact if_pos rfl

theorem State.startSave_suspended (r : Region) (image : TableImage) (h : s.smc.supplyState ≠ .normal) :
    s.startSave r image = { s with cst := { s.cst with op := s.saveOp r image false } } := by
  have hn : s.supplyNormal = false := Bool.eq_false_iff.mpr (mt s.supplyNormal_iff.mp h)
  unfold State.startSave
  dsimp only
  rw [hn]
  rfl

/-! ### The pages of a save (R166, R167) -/

theorem exec_savePageEnd_of_idle (dt : Nat)
    (h : (∀ r g image, s.cst.op.kind ≠ .save r g image) ∨ s.cst.op.running = false) :
    exec (.savePageEnd dt) s = .next s := by
  have he : exec (.savePageEnd dt) s = execSavePageEnd dt s := rfl
  rw [he, execSavePageEnd]
  rcases h with h | h
  · cases hk : s.cst.op.kind with
    | save r g image => exact absurd hk (h r g image)
    | _ => rfl
  · rw [h]
    cases s.cst.op.kind <;> rfl

theorem exec_savePageEnd {r : Region} {g : Gen} {image : TableImage} (hk : s.cst.op.kind = .save r g image)
    (hr : s.cst.op.running = true) (dt : Nat) : exec (.savePageEnd dt) s = .next ((s.pass dt).endPage r g image) := by
  have he : exec (.savePageEnd dt) s = execSavePageEnd dt s := rfl
  rw [he, execSavePageEnd, hk, hr]

/-- A suspension is pending and the supply is not back at NORMAL (R167). -/
def State.stops (s : State) : Prop := s.cst.op.suspendPending = true ∧ s.smc.supplyState ≠ .normal

theorem State.stops_iff : (s.cst.op.suspendPending && !s.supplyNormal) = true ↔ s.stops := by
  rw [Bool.and_eq_true, Bool.not_eq_true', ← Bool.not_eq_true, s.supplyNormal_iff]
  rfl

theorem State.nextSavePage_of_stops (h : s.stops) (r : Region) (n : Nat) : s.nextSavePage r n = { s with cst := { s.cst with
    op := { s.cst.op with page := n, running := false, suspendPending := false, resume := none } } } :=
  if_pos (State.stops_iff.mpr h)

/-- Only the erase of a region's first page makes it INVALID. -/
theorem State.nextSavePage_of_not_stops (h : ¬ s.stops) {r : Region} {n : Nat} (hn : n ≠ regionFirst r) :
    s.nextSavePage r n = { s with cst := { s.cst with
      pages := s.cst.pages.set n .erased, op := { s.cst.op with page := n, suspendPending := false } } } :=
  (if_neg (mt State.stops_iff.mp h)).trans (if_neg hn)

theorem Tbm.saved_eq (t : Tbm) (r : Region) : t.saved r = { t with
    layoutOrigin := if r = .layout then .loaded else t.layoutOrigin
    tuningOrigin := if r = .tuning then .loaded else t.tuningOrigin
    responseOrigin := if r = .response then .loaded else t.responseOrigin } := by
  cases r <;> rfl

theorem State.endSave_eq (r : Region) (g : Gen) (complete : Bool) : s.endSave r g complete = State.sends
    { s with cst := { s.cst with
      op := .idle, regions := s.cst.regions.set r (evaluatePages r (s.regionPages r))
      lastSave := some ⟨r, complete, g⟩ } }
    [.notice .cst (.stoSave r complete (evaluatePages r (s.regionPages r)).gen)] := by
  have hgen : (((s.evaluateRegion r).updCst fun c => { c with lastSave := some ⟨r, complete, g⟩ }).cst.regions.get r).gen =
      (evaluatePages r (s.regionPages r)).gen := congrArg RegionRec.gen (PerRegion.get_set_same _ _ _)
  unfold State.endSave
  dsimp only
  rw [State.endOp, State.notice_eq_sends, hgen]
  rfl

end

/-- Settles O55: the pages by what they hold, a SAVE by what keeps it, a page's end by what comes next. -/
theorem savesWriteTheirRegionPageByPage : Obligations.SavesWriteTheirRegionPageByPage := by
  refine ⟨fun r pages => ⟨fun g hne h => evaluatePages_valid hne h, fun _ h => evaluatePages_blank h,
      fun ⟨i, p, hi, hp⟩ hne => evaluatePages_invalid hi hp hne, fun i p hi hp hfirst => ?_, fun h => ?_,
      fun p i => p.good_iff r i, fun ⟨i, j, p, q, hi, hj, hp, hq, hpq⟩ =>
        evaluatePages_of_two_gens (mem_goodGens hi hp) (mem_goodGens hj hq) hpq⟩,
    fun id index g image => ⟨Page.build_length id index g image, Page.build_passes id index g image, rfl, rfl,
      Page.build_gen id index g image, Page.build_spare id index g image, Page.build_used id index g image⟩,
    fun s t fields g hb => ?_, fun s dt => ⟨exec_savePageEnd_of_idle dt, fun r g image hk hr hn => ?_⟩⟩
  · rw [evaluatePages_gen]
    exact headD_filterMap_mapIdx hi (if_pos hp) fun j q hj hq => if_neg (by simp [hfirst j q hj hq])
  · rw [evaluatePages_gen, goodGens_eq_nil h]
    rfl
  · intro u
    have he : exec (.save g fields) s = .next (u.doSave fields) :=
      exec_of_begins (act := fun s => (s.seeGuard g).doSave fields) rfl hb
    refine ⟨fun h => by rw [he, State.doSave_of_malformed h], fun r hf => ?_⟩
    intro kept gen
    have hkept : u.kept r ↔ kept := Iff.rfl
    rw [he, hf]
    refine ⟨fun h => by rw [State.doSave_of_kept (hkept.mpr h)], fun x y z h ho => ?_, fun h ho => ?_⟩
    · rw [State.doSave_of_saving (mt hkept.mp h) ho]
    · obtain ⟨image, hi⟩ := u.tbm.image_of_ne_ident fun hr => h (.inl hr)
      refine ⟨image, hi, ?_⟩
      intro v op
      have hdone : u.doSave [.word (regionWord r)] = (v.startSave r image).answer .SAVE .accepted := by
        cases hk : t.cst.op.kind with
        | save x y z => exact absurd hk (ho x y z)
        | none =>
          have hv : v = u := if_neg (by rw [hk]; simp)
          rw [State.doSave_of_free (mt hkept.mp h) hi hk, hv]
        | sweep =>
          have hv : v = u.abandonSweep := (if_pos hk).trans u.abandonSweep_eq.symm
          rw [State.doSave_of_sweep (mt hkept.mp h) hi hk, hv]
      have hsmc : v.smc = t.smc ∧ v.cst.regions = t.cst.regions := by
        by_cases hk : t.cst.op.kind = .sweep
        · rw [show v = _ from if_pos hk]
          exact ⟨rfl, rfl⟩
        · rw [show v = _ from if_neg hk]
          exact ⟨rfl, rfl⟩
      have hop (running : Bool) : v.saveOp r image running = op running := by
        rw [State.saveOp, hsmc.2]
      have hgen : (v.cst.regions.get r).gen = gen := by rw [hsmc.2]
      rw [hdone]
      refine ⟨fun hs => ?_, fun hs => ?_⟩
      · rw [State.startSave_running r image (by rw [hsmc.1]; exact hs), hop, hgen]
        rfl
      · rw [State.startSave_suspended r image (by rw [hsmc.1]; exact hs), hop]
  · intro n last pages stops
    have he := exec_savePageEnd hk hr dt
    have hset : ((s.pass dt).setPage n (.build (regionId r) (n - regionFirst r) g image)).stops ↔ stops := Iff.rfl
    rw [he]
    refine ⟨fun hl hs => ?_, fun hl hs => ?_, fun hl => ?_⟩
    · refine congrArg _ ((if_pos hl).trans ?_)
      exact State.nextSavePage_of_stops (hset.mpr hs) r (n + 1)
    · refine congrArg _ ((if_pos hl).trans ?_)
      exact State.nextSavePage_of_not_stops (mt hset.mp hs) (Nat.ne_of_gt (Nat.lt_succ_of_le hn))
    · refine congrArg _ ((if_neg (not_lt.mpr hl)).trans ?_)
      rw [State.completeSave, State.endSave_eq, Tbm.saved_eq]
      rfl

/-! ### Sweeps and suspensions (R167, R169) -/

section
variable {s : State}

theorem State.sweepDamaged_eq (n : Nat) : s.sweepDamaged n = State.sends
    { s with cst := { s.cst with
      op := .idle, sweep := .damaged n
      regions := s.cst.regions.set (regionOfPage n) { s.cst.regions.get (regionOfPage n) with status := .invalid } } }
    [.report .cst .storeDamaged .event, .notice .cst (.stoSweep (.damaged n))] := by
  unfold State.sweepDamaged
  dsimp only
  rw [State.endOp, State.notice_eq_sends, State.report_eq_sends]
  simp only [State.sends, State.updOp, State.updCst, State.setRegion, List.append_assoc]
  rfl

theorem State.sweepOn_of_last {n : Nat} (h : 35 ≤ n) : s.sweepOn n = State.sends
    { s with cst := { s.cst with op := .idle, sweep := .clean } } [.notice .cst (.stoSweep .clean)] := by
  refine (if_pos h).trans ?_
  rw [State.endOp, State.notice_eq_sends]
  rfl

theorem State.sweepOn_of_stops {n : Nat} (h : n < 35) (hs : s.stops) : s.sweepOn n = { s with cst := { s.cst with
    op := { s.cst.op with page := n + 1, running := false, suspendPending := false, resume := none } } } :=
  (if_neg (not_le.mpr h)).trans (if_pos (State.stops_iff.mpr hs))

theorem State.sweepOn_of_not_stops {n : Nat} (h : n < 35) (hs : ¬ s.stops) : s.sweepOn n = { s with cst := { s.cst with
    op := { s.cst.op with page := n + 1, suspendPending := false } } } :=
  (if_neg (not_le.mpr h)).trans (if_neg (mt State.stops_iff.mp hs))

theorem exec_sweepPageCheck (hk : s.cst.op.kind = .sweep) (hr : s.cst.op.running = true) (dt : Nat) :
    exec (.sweepPageCheck dt) s = .next (if (s.page s.cst.op.page).damaged then (s.pass dt).sweepDamaged s.cst.op.page
      else (s.pass dt).sweepOn s.cst.op.page) := by
  have he : exec (.sweepPageCheck dt) s = execSweepPageCheck dt s := rfl
  rw [he, execSweepPageCheck, hk, hr]
  rfl

theorem State.resumeOp_of_sweep (h : s.cst.op.kind = .sweep) : s.resumeOp = { s with cst := { s.cst with
    op := { s.cst.op with running := true, suspendPending := false, resume := none } } } := by
  have hkind : (s.updOp fun o => { o with running := true, suspendPending := false, resume := none }).cst.op.kind =
      .sweep := h
  unfold State.resumeOp
  dsimp only
  rw [hkind]
  rfl

theorem State.resumeOp_of_save {r : Region} {g : Gen} {image : TableImage} (h : s.cst.op.kind = .save r g image) :
    s.resumeOp = { s with cst := { s.cst with
      op := { s.cst.op with running := true, suspendPending := false, resume := none }
      pages := s.cst.pages.set s.cst.op.page .erased
      regions := if s.cst.op.page = regionFirst r then
        s.cst.regions.set r { s.cst.regions.get r with status := .invalid } else s.cst.regions } } := by
  have hkind : (s.updOp fun o => { o with running := true, suspendPending := false, resume := none }).cst.op.kind =
      .save r g image := h
  unfold State.resumeOp
  dsimp only
  rw [hkind]
  dsimp only
  rw [State.beginErase]
  by_cases hp : s.cst.op.page = regionFirst r
  · rw [if_pos hp]
    exact if_pos hp
  · rw [if_neg hp]
    exact if_neg hp

theorem exec_resumeTimerExpiry {x : Time} (h : s.cst.op.resume = some x) :
    exec .resumeTimerExpiry s = .next (s.reachTime x).resumeOp := by
  have he : exec .resumeTimerExpiry s = execResumeTimerExpiry s := rfl
  rw [he, execResumeTimerExpiry, h]

theorem State.cstTakesSupply_of_rest {x : SupplyState}
    (h : s.cst.op.kind = .none ∨ s.cst.op.running = true ∧ x = .normal) : s.cstTakesSupply x = s := by
  unfold State.cstTakesSupply
  dsimp only
  rcases h with h | ⟨hr, hx⟩
  · rw [if_pos h]
  · rw [if_pos hr, if_pos hx, ite_self]

theorem State.cstTakesSupply_of_running {x : SupplyState} (hk : s.cst.op.kind ≠ .none) (hr : s.cst.op.running = true)
    (hx : x ≠ .normal) : s.cstTakesSupply x = s.updOp fun o => { o with suspendPending := true } :=
  (if_neg hk).trans ((if_pos hr).trans (if_neg hx))

theorem State.cstTakesSupply_of_suspended {x : SupplyState} (hk : s.cst.op.kind ≠ .none)
    (hr : s.cst.op.running = false) : s.cstTakesSupply x = s.updOp fun o => { o with
      resume := if x = .normal then some (s.now + ms 100) else none } :=
  (if_neg hk).trans (if_neg (by simp [hr]))

end

/-- Settles O56: the supply by what the operation does, a resumption by its kind, a swept page by what it holds. -/
theorem sweepsAndSuspensions : Obligations.SweepsAndSuspensions := by
  refine ⟨fun s t x ho => ?_, fun s x hx => ?_, fun s t fields hb => ?_, fun s dt hk hr => ?_⟩
  · intro op o
    have he : exec .cstSupplyChange s = .next (t.cstTakesSupply x) := execCstSupplyChange_of_offers x ho
    rw [he]
    exact ⟨fun h => congrArg _ (State.cstTakesSupply_of_rest h),
      fun hk hr hn => congrArg _ (State.cstTakesSupply_of_running hk hr hn),
      fun hk hr => congrArg _ (State.cstTakesSupply_of_suspended hk hr)⟩
  · intro t
    rw [exec_resumeTimerExpiry hx]
    exact ⟨fun hk => congrArg _ (State.resumeOp_of_sweep (s := s.reachTime x) hk),
      fun r g image hk => congrArg _ (State.resumeOp_of_save (s := s.reachTime x) hk)⟩
  · have he : exec (.swep fields) s = .next (t.doSwep fields) := exec_of_begins (act := fun s => s.doSwep fields) rfl hb
    rw [he]
    exact ⟨fun h => congrArg _ (if_pos h), fun h hk => congrArg _ ((if_neg (not_not_intro h)).trans (if_pos hk)),
      fun h hk => congrArg _ ((if_neg (not_not_intro h)).trans (if_neg (not_not_intro hk)))⟩
  · intro n t r damaged stops
    have hdamaged : (s.page n).damaged = true ↔ damaged := by
      rw [Page.damaged_iff, Bool.not_eq_true, Bool.not_eq_true]
      exact and_comm
    have hstops : t.stops ↔ stops := Iff.rfl
    rw [exec_sweepPageCheck hk hr]
    refine ⟨fun hd => ?_, fun hd hn => ?_, fun hd hn hs => ?_, fun hd hn hs => ?_⟩
    · exact congrArg _ ((if_pos (hdamaged.mpr hd)).trans (State.sweepDamaged_eq n))
    · exact congrArg _ ((if_neg (mt hdamaged.mp hd)).trans (State.sweepOn_of_last hn))
    · exact congrArg _ ((if_neg (mt hdamaged.mp hd)).trans (State.sweepOn_of_stops (s := t) hn (hstops.mpr hs)))
    · exact congrArg _ ((if_neg (mt hdamaged.mp hd)).trans (State.sweepOn_of_not_stops (s := t) hn (mt hstops.mp hs)))

end Sys2Proof.Machine
end

section
/-! Proofs about the requests of the store that read it or end its work (R163, R168, R170, R171): PAGE, ABRT, STST, LOCK. -/

namespace Sys2Proof.Machine

/-! ### PAGE (R170) -/

section
variable {s : State}

/-- The operation keeps PAGE from page `n` (R170). -/
theorem StoreOp.hides_iff (o : StoreOp) (n : Nat) : o.hides n = true ↔
    o.kind ≠ .none ∧ (o.running = true ∨ o.kind ≠ .sweep ∧ o.page = n) := by
  unfold StoreOp.hides
  cases o.kind <;> simp

theorem State.doPage_of_malformed {fields : List Field} (h : ∀ v, fields ≠ [.num v]) :
    s.doPage fields = s.answer .PAGE .format := by
  unfold State.doPage
  split
  · exact absurd rfl (h _)
  · rfl

theorem State.doPage_of_beyond {v : Int} (h : ¬ (0 ≤ v ∧ v ≤ 35)) : s.doPage [.num v] = s.answer .PAGE .range := by
  have hv : within? 0 35 (.num v) = none := within?_num_of_beyond h
  simp only [State.doPage, hv]

theorem State.doPage_of_within {v : Int} (h : 0 ≤ v ∧ v ≤ 35) : s.doPage [.num v] =
    if s.cst.op.hides v.toNat then s.answer .PAGE .busy
    else s.answer .PAGE .ok [.num v, .word (s.page v.toNat).verdict, .hex (s.page v.toNat).bytes] := by
  have hv : within? 0 35 (.num v) = some v.toNat := within?_num_of_within h
  have hnat : nat v.toNat = .num v := congrArg Field.num (Int.toNat_of_nonneg h.1)
  simp only [State.doPage, hv, hnat]

end

/-- Settles O57: PAGE by its field, its range and what the operation hides; the bytes by their digits. -/
theorem pageReadsOnePage : Obligations.PageReadsOnePage := by
  refine ⟨fun s t fields hb => ?_, fun l => rfl⟩
  have he : exec (.page fields) s = .next (t.doPage fields) := exec_of_begins (act := fun s => s.doPage fields) rfl hb
  rw [he]
  refine ⟨fun h => by rw [State.doPage_of_malformed h], fun v hv => ?_⟩
  intro o p hidden
  have hhides : o.hides v.toNat = true ↔ hidden := o.hides_iff v.toNat
  rw [hv]
  refine ⟨fun h => ?_, fun h0 h35 hh => ?_, fun h0 h35 hh => ?_⟩
  · rw [State.doPage_of_beyond (by omega)]
  · exact congrArg _ ((State.doPage_of_within ⟨h0, h35⟩).trans (if_pos (hhides.mpr hh)))
  · exact congrArg _ ((State.doPage_of_within ⟨h0, h35⟩).trans (if_neg (mt hhides.mp hh)))

/-! ### ABRT (R168) -/

section
variable {s : State} {r : Region} {g : Gen} {image : TableImage}

theorem State.doAbrt_of_none (h : s.cst.op.kind = .none) : s.doAbrt [] = s.answer .ABRT .ok [.word .NONE] := by
  refine (if_neg (not_not_intro rfl)).trans ?_
  rw [h]

theorem State.doAbrt_of_sweep (h : s.cst.op.kind = .sweep) :
    s.doAbrt [] = s.abandonSweep.answer .ABRT .ok [.word .SWEEP] := by
  refine (if_neg (not_not_intro rfl)).trans ?_
  rw [h]

theorem State.doAbrt_of_save (h : s.cst.op.kind = .save r g image) :
    s.doAbrt [] = (s.cutOffSave.endSave r g false).answer .ABRT .ok [.word .SAVE] := by
  refine (if_neg (not_not_intro rfl)).trans ?_
  rw [h]

theorem State.cutOffSave_of_suspended (hr : s.cst.op.running = false) : s.cutOffSave = s := by
  unfold State.cutOffSave
  rw [hr]
  cases s.cst.op.kind <;> rfl

theorem State.cutOffSave_of_running (hk : s.cst.op.kind = .save r g image) (hr : s.cst.op.running = true) :
    s.cutOffSave = s.cutOffPage r s.cst.op.page := by
  unfold State.cutOffSave
  rw [hk, hr]

/-- The page in progress is left erased or damaged (R168). -/
theorem State.cutOffPage_eq (s : State) (r : Region) (n : Nat) : ∃ p : Page, (p.isErased = true ∨ p.damaged = true) ∧
    s.cutOffPage r n = { s with
      cst := { s.cst with pages := s.cst.pages.set n p }, freeCount := s.freeCount + 1 } := by
  by_cases he : (Config.cutOffErased s.freeCount && !s.blankBut r n) = true
  · refine ⟨.erased, .inl rfl, ?_⟩
    unfold State.cutOffPage
    dsimp only
    rw [if_pos he]
    rfl
  · refine ⟨⟨damagedBytes (Config.cutOffBytes s.freeCount), none⟩, .inr (damagedBytes_damaged _ none), ?_⟩
    unfold State.cutOffPage
    dsimp only
    rw [if_neg he]
    rfl

end

/-! ### LOCK (R163) -/

section
variable {s : State} {armed : Bool}

theorem State.doLock_of_malformed {fields : List Field} (h : ∀ r, fields ≠ [.word (regionWord r)]) :
    s.doLock fields armed = s.answer .LOCK .format := by
  unfold State.doLock
  rw [oneRegion_eq_none h]

theorem State.doLock_word (r : Region) : s.doLock [.word (regionWord r)] armed =
    if !armed then s.answer .LOCK .notArmed
    else if s.cst.locks.get r then s.answer .LOCK .ok
    else if s.saving r then s.answer .LOCK .busy
    else (s.updCst fun c => { c with locks := c.locks.set r true }).answer .LOCK .ok := by
  unfold State.doLock
  rw [oneRegion_word]

end

/-! ### STST (R171) -/

theorem StoreOp.fields_of_none {o : StoreOp} (h : o.kind = .none) : o.fields = [.word .NONE] := by
  unfold StoreOp.fields
  rw [h]

theorem StoreOp.fields_of_sweep {o : StoreOp} (h : o.kind = .sweep) : o.fields = .word .SWEEP :: o.stateFields := by
  unfold StoreOp.fields
  rw [h]

theorem StoreOp.fields_of_save {o : StoreOp} {r : Region} {g : Gen} {image : TableImage} (h : o.kind = .save r g image) :
    o.fields = .word .SAVE :: .word (regionWord r) :: .num g.toNat :: o.stateFields := by
  unfold StoreOp.fields
  rw [h]

/-- Settles O58: ABRT by what runs, STST by the lines of its records, LOCK by the first check that fails. -/
theorem abortsStatusAndLocks : Obligations.AbortsStatusAndLocks := by
  refine fun s t fields => ⟨fun hb => ?_, fun g hb => ?_, fun hb => ?_⟩
  · intro ok
    have he : exec (.abrt fields) s = .next (t.doAbrt fields) := exec_of_begins (act := fun s => s.doAbrt fields) rfl hb
    rw [he]
    refine ⟨fun h => congrArg _ (if_pos h), fun h hk => ?_, fun h hk => ?_, fun r g image h hk => ?_⟩
    · rw [h, State.doAbrt_of_none hk]
    · rw [h, State.doAbrt_of_sweep hk, State.abandonSweep_eq]
    · intro x ended
      rw [h, State.doAbrt_of_save hk]
      refine ⟨fun hr => ?_, fun hr => ?_⟩
      · rw [State.cutOffSave_of_suspended hr, State.endSave_eq]
        rfl
      · obtain ⟨p, hp, hcut⟩ := t.cutOffPage_eq r t.cst.op.page
        refine ⟨p, hp, ?_, fun hg hlen => ?_⟩
        · rw [State.cutOffSave_of_running hk hr, hcut, State.endSave_eq]
          rfl
        · have hinvalid := State.cutOffPage_invalid (hg r g image hk).2 hlen
          rw [hcut] at hinvalid
          exact hinvalid
  · intro u o work operation sweep lastSave
    have he : exec (.stst g fields) s = .next (u.doStst fields) :=
      exec_of_begins (act := fun s => (s.seeGuard g).doStst fields) rfl hb
    have hoperation : o.fields = operation := by
      cases hk : t.cst.op.kind with
      | none => simp only [operation, o, hk, StoreOp.fields_of_none hk]
      | sweep =>
        simp only [operation, o, hk, StoreOp.fields_of_sweep hk]
        rfl
      | save r gen image =>
        simp only [operation, o, hk, StoreOp.fields_of_save hk]
        rfl
    have hsweep : sweepFields t.cst.sweep = sweep := by
      cases hk : t.cst.sweep with
      | damaged n =>
        simp only [sweep, hk]
        rfl
      | _ =>
        simp only [sweep, hk]
        rfl
    have hlast : lastSaveFields t.cst.lastSave = lastSave := by
      cases hk : t.cst.lastSave with
      | none =>
        simp only [lastSave, hk]
        rfl
      | some x =>
        simp only [lastSave, hk]
        rfl
    rw [he, ← hoperation, ← hsweep, ← hlast]
    exact ⟨fun h => congrArg _ (if_pos h), fun h => congrArg _ (if_neg (not_not_intro h))⟩
  · intro u armed
    have he : exec (.lock fields) s = .next (u.doLock fields (t.armed .lock)) :=
      exec_of_begins (act := fun s => s.disarm.doLock fields (s.armed .lock)) rfl hb
    have harm : s.armed .lock = true ↔ armed := s.armed_iff .lock
    rw [he, hb.armed_eq rfl]
    refine ⟨fun h => by rw [State.doLock_of_malformed h], fun r hf => ?_⟩
    rw [hf, State.doLock_word]
    refine ⟨fun ha => ?_, fun ha hl => ?_, fun ha hl hs => ?_, fun ha hl hs => ?_⟩
    · rw [if_pos (by simpa using mt harm.mp ha)]
    all_goals rw [if_neg (by simpa using harm.mpr ha)]
    · exact congrArg _ (if_pos hl)
    · refine congrArg _ ((if_neg ?_).trans (if_pos hs))
      exact Bool.eq_false_iff.mp hl
    · refine congrArg _ ((if_neg ?_).trans (if_neg ?_))
      · exact Bool.eq_false_iff.mp hl
      · exact Bool.eq_false_iff.mp hs

end Sys2Proof.Machine
end

section
/-! What the readers of the fields of LAYW, LAYR, TUNW and TUNR take: each gives a value back exactly for its spelling (R2, R13, R14). -/

namespace Sys2Proof.Machine

theorem chan?_eq_none {f : Field} (h : ∀ ch, f ≠ .num (chanNum ch)) : chan? f = none :=
  Option.eq_none_iff_forall_ne_some.mpr fun ch he => h ch (chan?_shape he)

theorem unit?_eq_none {f : Field} (h : ∀ u, f ≠ .num (unitNum u)) : unit? f = none :=
  Option.eq_none_iff_forall_ne_some.mpr fun u he => h u (unit?_shape he)

theorem abcd?_abcdWord (o : LineABCD) : abcd? (.word (abcdWord o)) = some o := by cases o <;> rfl

theorem abcd?_eq_none {f : Field} (h : ∀ o, f ≠ .word (abcdWord o)) : abcd? f = none :=
  Option.eq_none_iff_forall_ne_some.mpr fun o he => h o (abcd?_shape he)

theorem optField_nat (a : Option Nat) : optField nat a = a.elim .absent fun n => .num n := by cases a <;> rfl

/-! ### Instances and numbers (R5, R100) -/

section
variable {α : Type} {read : Field → Option α} {f : Field} {sh : α → List Field}

theorem byInstance_of_some {a : α} (h : read f = some a) : byInstance read f sh = .ok (sh a) := by
  rw [byInstance, h]

theorem byInstance_of_none (h : read f = none) (hf : f ≠ .absent) : byInstance read f sh = .error .range := by
  rw [byInstance, h]
  exact congrArg Except.error (if_neg hf)

theorem byInstance_absent (h : read .absent = none) : byInstance read .absent sh = .error .format := by
  rw [byInstance, h]
  exact congrArg Except.error (if_pos rfl)

theorem byNumber_of_some {a : α} (h : read f = some a) : byNumber read f sh = .ok (sh a) := by
  rw [byNumber, h]

theorem byNumber_of_none (h : read f = none) : byNumber read f sh = .error (if isNum f then .range else .format) := by
  rw [byNumber, h]

end

end Sys2Proof.Machine
end

section
/-! Proofs about LAYR (R5): what each line of the Layout table reads, and the statuses that refuse a request. -/

namespace Sys2Proof.Machine

/-! ### The item a LAYR names -/

section
variable (t : Tbm)

theorem Tbm.layrItem_cam (i : Field) :
    t.layrItem [.word .CAM, i] = byInstance chan? i fun ch => camFields (t.layout.cam.get ch) := rfl

theorem Tbm.layrItem_edge (i : Field) :
    t.layrItem [.word .EDGE, i] = byInstance chan? i fun ch => edgeFields (t.layout.edges.get ch) := rfl

theorem Tbm.layrItem_bind (i : Field) :
    t.layrItem [.word .BIND, i] = byInstance chan? i fun ch => bindFields (t.layout.bind.get ch) := rfl

theorem Tbm.layrItem_lift (i : Field) :
    t.layrItem [.word .LIFT, i] = byInstance unit? i fun u => liftFields (t.layout.lift.get u) := rfl

theorem Tbm.layrItem_pwm (i : Field) :
    t.layrItem [.word .PWM, i] = byInstance abcd? i fun o => [nat (t.layout.pwm.get o)] := rfl

theorem Tbm.layrItem_of_foreign {f : Field} (rest : List Field)
    (h : f ∉ [.word .ORIGIN, .word .WHEEL, .word .CYL, .word .CAM, .word .EDGE, .word .BIND, .word .LIFT, .word .PWM]) :
    t.layrItem (f :: rest) = .error .format := by
  unfold Tbm.layrItem
  split <;> simp_all

/-- ORIGIN, WHEEL and CYL take no number. -/
theorem Tbm.layrItem_of_single {f : Field} {rest : List Field} (hr : rest ≠ [])
    (h : f ∈ [.word .ORIGIN, .word .WHEEL, .word .CYL]) : t.layrItem (f :: rest) = .error .format := by
  unfold Tbm.layrItem
  split <;> simp_all

/-- The other items take one number, and "-" is none. -/
theorem Tbm.layrItem_of_no_instance {f : Field} {rest : List Field}
    (hr : rest = [] ∨ rest = [.absent] ∨ 2 ≤ rest.length)
    (h : f ∈ [.word .CAM, .word .EDGE, .word .BIND, .word .LIFT, .word .PWM]) :
    t.layrItem (f :: rest) = .error .format := by
  simp only [List.mem_cons, List.not_mem_nil, or_false] at h
  rcases hr with rfl | rfl | hr
  · rcases h with rfl | rfl | rfl | rfl | rfl <;> rfl
  · rcases h with rfl | rfl | rfl | rfl | rfl
    · exact (t.layrItem_cam .absent).trans (byInstance_absent rfl)
    · exact (t.layrItem_edge .absent).trans (byInstance_absent rfl)
    · exact (t.layrItem_bind .absent).trans (byInstance_absent rfl)
    · exact (t.layrItem_lift .absent).trans (byInstance_absent rfl)
    · exact (t.layrItem_pwm .absent).trans (byInstance_absent rfl)
  · unfold Tbm.layrItem
    split <;> simp_all

theorem Tbm.layrItem_of_no_chan {f i : Field} (hi : i ≠ .absent) (hc : ∀ ch, i ≠ .num (chanNum ch))
    (h : f ∈ [.word .CAM, .word .EDGE, .word .BIND]) : t.layrItem [f, i] = .error .range := by
  simp only [List.mem_cons, List.not_mem_nil, or_false] at h
  rcases h with rfl | rfl | rfl <;> exact byInstance_of_none (chan?_eq_none hc) hi

end

/-! ### The request -/

section
variable {s : State} {fields : List Field}

theorem State.doLayr_of_ok {g : List Field} (hn : fields ≠ []) (h : s.tbm.layrItem fields = .ok g) :
    s.doLayr fields = s.answer .LAYR .ok g := by
  unfold State.doLayr
  split
  · exact absurd rfl hn
  · rw [h]

theorem State.doLayr_of_error {st : Status} (hn : fields ≠ []) (h : s.tbm.layrItem fields = .error st) :
    s.doLayr fields = s.answer .LAYR st := by
  unfold State.doLayr
  split
  · exact absurd rfl hn
  · rw [h]

theorem State.doLayr_cam (ch : Chan) : s.doLayr [.word .CAM, .num (chanNum ch)] =
    s.answer .LAYR .ok (camFields (s.tbm.layout.cam.get ch)) :=
  State.doLayr_of_ok (by simp) (byInstance_of_some (chan?_chanNum ch))

theorem State.doLayr_edge (ch : Chan) : s.doLayr [.word .EDGE, .num (chanNum ch)] =
    s.answer .LAYR .ok (edgeFields (s.tbm.layout.edges.get ch)) :=
  State.doLayr_of_ok (by simp) (byInstance_of_some (chan?_chanNum ch))

theorem State.doLayr_bind (ch : Chan) : s.doLayr [.word .BIND, .num (chanNum ch)] =
    s.answer .LAYR .ok (bindFields (s.tbm.layout.bind.get ch)) :=
  State.doLayr_of_ok (by simp) (byInstance_of_some (chan?_chanNum ch))

theorem State.doLayr_lift (u : LiftUnit) : s.doLayr [.word .LIFT, .num (unitNum u)] =
    s.answer .LAYR .ok (liftFields (s.tbm.layout.lift.get u)) :=
  State.doLayr_of_ok (by simp) (byInstance_of_some (unit?_unitNum u))

theorem State.doLayr_pwm (o : LineABCD) : s.doLayr [.word .PWM, .word (abcdWord o)] =
    s.answer .LAYR .ok [nat (s.tbm.layout.pwm.get o)] :=
  State.doLayr_of_ok (by simp) (byInstance_of_some (abcd?_abcdWord o))

/-- The statuses that refuse a LAYR whose first field is `f` (R5). -/
theorem State.doLayr_refused (f : Field) (rest : List Field) :
    (f ∉ [.word .ORIGIN, .word .WHEEL, .word .CYL, .word .CAM, .word .EDGE, .word .BIND, .word .LIFT, .word .PWM] →
      s.doLayr (f :: rest) = s.answer .LAYR .format) ∧
    (rest ≠ [] → f ∈ [.word .ORIGIN, .word .WHEEL, .word .CYL] → s.doLayr (f :: rest) = s.answer .LAYR .format) ∧
    (rest = [] ∨ rest = [.absent] ∨ 2 ≤ rest.length →
      f ∈ [.word .CAM, .word .EDGE, .word .BIND, .word .LIFT, .word .PWM] →
      s.doLayr (f :: rest) = s.answer .LAYR .format) ∧
    ∀ i, rest = [i] → i ≠ .absent →
      (f ∈ [.word .CAM, .word .EDGE, .word .BIND] → (∀ ch, i ≠ .num (chanNum ch)) →
        s.doLayr (f :: rest) = s.answer .LAYR .range) ∧
      (f = .word .LIFT → (∀ u, i ≠ .num (unitNum u)) → s.doLayr (f :: rest) = s.answer .LAYR .range) ∧
      (f = .word .PWM → (∀ o, i ≠ .word (abcdWord o)) → s.doLayr (f :: rest) = s.answer .LAYR .range) := by
  have hn : f :: rest ≠ [] := List.cons_ne_nil _ _
  refine ⟨fun h => State.doLayr_of_error hn (Tbm.layrItem_of_foreign _ rest h),
    fun hr h => State.doLayr_of_error hn (Tbm.layrItem_of_single _ hr h),
    fun hr h => State.doLayr_of_error hn (Tbm.layrItem_of_no_instance _ hr h), ?_⟩
  rintro i rfl hi
  refine ⟨fun h hc => State.doLayr_of_error hn (Tbm.layrItem_of_no_chan _ hi hc h), ?_, ?_⟩
  · rintro rfl hu
    exact State.doLayr_of_error hn (byInstance_of_none (unit?_eq_none hu) hi)
  · rintro rfl ho
    exact State.doLayr_of_error hn (byInstance_of_none (abcd?_eq_none ho) hi)

end

end Sys2Proof.Machine
end

section
/-! Proofs about TUNR (R16): the scope a request names, the items of a scope, and what it reads. -/

namespace Sys2Proof.Machine

/-! ### The items of a scope (R13, R14) -/

theorem ChanTune.mem_items_iff (c : ChanTune) (x : Token) :
    (chanTuneRange x).isSome = true ↔ x ∈ c.items.map Prod.fst := by
  constructor
  · intro h
    unfold chanTuneRange at h
    split at h <;> simp_all [ChanTune.items]
  · intro h
    simp only [ChanTune.items, List.map_cons, List.map_nil, List.mem_cons, List.not_mem_nil, or_false] at h
    rcases h with rfl | rfl | rfl | rfl | rfl | rfl | rfl | rfl | rfl | rfl | rfl | rfl | rfl | rfl | rfl | rfl | rfl | rfl
      <;> rfl

theorem UnitTune.mem_items_iff (c : UnitTune) (x : Token) :
    (unitTuneRange x).isSome = true ↔ x ∈ c.items.map Prod.fst := by
  constructor
  · intro h
    unfold unitTuneRange at h
    split at h <;> simp_all [UnitTune.items]
  · intro h
    simp only [UnitTune.items, List.map_cons, List.map_nil, List.mem_cons, List.not_mem_nil, or_false] at h
    rcases h with rfl | rfl <;> rfl

theorem DevTune.mem_items_iff (c : DevTune) (x : Token) :
    (devTuneRange x).isSome = true ↔ x ∈ c.items.map Prod.fst := by
  constructor
  · intro h
    unfold devTuneRange at h
    split at h <;> simp_all [DevTune.items]
  · intro h
    simp only [DevTune.items, List.map_cons, List.map_nil, List.mem_cons, List.not_mem_nil, or_false] at h
    rcases h with rfl | rfl | rfl | rfl | rfl | rfl | rfl <;> rfl

section
variable {y : Tuning} {sc : TuneScope} {l : List (Token × Nat)}

theorem Tuning.scopeItems?_chan (ch : Chan) :
    y.scopeItems? (.chan (.num (chanNum ch))) = some (y.chan.get ch).items := by
  rw [Tuning.scopeItems?, chan?_chanNum]
  rfl

theorem Tuning.scopeItems?_unit (u : LiftUnit) :
    y.scopeItems? (.unit (.num (unitNum u))) = some (y.unit.get u).items := by
  rw [Tuning.scopeItems?, unit?_unitNum]
  rfl

theorem Tuning.scopeItems?_chan_beyond {n : Int} (h : n < 1 ∨ 4 < n) : y.scopeItems? (.chan (.num n)) = none := by
  rw [Tuning.scopeItems?, chan?_of_beyond (by omega)]
  rfl

theorem Tuning.scopeItems?_unit_beyond {n : Int} (h : n < 1 ∨ 2 < n) : y.scopeItems? (.unit (.num n)) = none := by
  rw [Tuning.scopeItems?, unit?_of_beyond (by omega)]
  rfl

/-- The words a scope takes are those of its items. -/
theorem Tuning.range_isSome_iff (h : y.scopeItems? sc = some l) (x : Token) :
    (sc.range x).isSome = true ↔ x ∈ l.map Prod.fst := by
  cases sc with
  | chan f =>
    obtain ⟨ch, -, rfl⟩ := Option.map_eq_some_iff.mp h
    exact ChanTune.mem_items_iff _ x
  | unit f =>
    obtain ⟨u, -, rfl⟩ := Option.map_eq_some_iff.mp h
    exact UnitTune.mem_items_iff _ x
  | device =>
    cases h
    exact DevTune.mem_items_iff _ x

/-- No item of a scope comes twice. -/
theorem Tuning.scopeItems?_nodup (h : y.scopeItems? sc = some l) : (l.map Prod.fst).Nodup := by
  cases sc with
  | chan f =>
    obtain ⟨ch, -, rfl⟩ := Option.map_eq_some_iff.mp h
    simp [ChanTune.items]
  | unit f =>
    obtain ⟨u, -, rfl⟩ := Option.map_eq_some_iff.mp h
    simp [UnitTune.items]
  | device =>
    cases h
    simp [DevTune.items]

end

/-- With no word twice, a word finds its own item. -/
theorem find?_item {l : List (Token × Nat)} (hl : (l.map Prod.fst).Nodup) {x : Token} {v : Nat} (h : (x, v) ∈ l) :
    (l.find? fun p => p.1 == x) = some (x, v) := by
  induction l with
  | nil => cases h
  | cons p l ih =>
    rw [List.map_cons, List.nodup_cons] at hl
    rcases List.mem_cons.mp h with rfl | h
    · simp
    · have hne : p.1 ≠ x := by
        rintro rfl
        exact hl.1 (List.mem_map.mpr ⟨_, h, rfl⟩)
      rw [List.find?_cons_of_neg (by simpa using hne)]
      exact ih hl.2 h

/-! ### The scope a request begins with (R15) -/

theorem readScope_num {n : Int} {f : Field} {rest : List Field} (h : ∀ x, f = .word x → unitTuneRange x = none) :
    readScope (.num n :: f :: rest) = some (.chan (.num n), f :: rest) := by
  cases f with
  | word x => rw [readScope, h x rfl]; rfl
  | _ => rfl

theorem readScope_num_unit {n : Int} {x : Token} {rest : List Field} (h : (unitTuneRange x).isSome = true) :
    readScope (.num n :: .word x :: rest) = some (.unit (.num n), .word x :: rest) := by
  rw [readScope, if_pos h]

/-- A channel's item is no unit's item. -/
theorem unitTuneRange_of_chan {x : Token} (h : (chanTuneRange x).isSome = true) : unitTuneRange x = none := by
  unfold chanTuneRange at h
  split at h <;> first | rfl | cases h

/-- A request that begins with a bare number names a channel or a unit by it. -/
theorem readScope_num_cases (n : Int) (rest : List Field) :
    readScope (.num n :: rest) = some (.chan (.num n), rest) ∨ readScope (.num n :: rest) = some (.unit (.num n), rest) := by
  cases rest with
  | nil => exact .inl rfl
  | cons f rest =>
    by_cases h : ∃ x, f = .word x ∧ (unitTuneRange x).isSome = true
    · obtain ⟨x, rfl, hx⟩ := h
      exact .inr (readScope_num_unit hx)
    · exact .inl (readScope_num fun x hx => by simpa [hx] using h)

theorem readScope_eq_none {fields : List Field}
    (hn : ∀ n rest, fields ≠ .word .CH :: .num n :: rest ∧ fields ≠ .word .LIFT :: .num n :: rest ∧ fields ≠ .num n :: rest)
    (ha : ∀ rest, fields ≠ .absent :: rest) : readScope fields = none := by
  unfold readScope
  split <;> simp_all

/-! ### The request (R16) -/

section
variable {s : State} {fields rest : List Field} {sc : TuneScope} {l : List (Token × Nat)}

theorem State.doTunr_of_no_scope (h : readScope fields = none) : s.doTunr fields = s.answer .TUNR .format := by
  rw [State.doTunr, h]

theorem State.doTunr_run (hr : readScope fields = some (sc, [])) (hi : s.tbm.tuning.scopeItems? sc = some l) :
    s.doTunr fields = s.answerRun .TUNR (l.map fun p => [.word p.1, .num p.2]) := by
  unfold State.doTunr
  rw [hr]
  split
  · next e => cases e
  · next e =>
    cases e
    rw [hi]
    rfl
  · next e => cases e
  · next _ h _ => exact absurd rfl (h sc)

theorem State.doTunr_item {x : Token} {v : Nat} (hr : readScope fields = some (sc, [.word x]))
    (hi : s.tbm.tuning.scopeItems? sc = some l) (hx : (x, v) ∈ l) : s.doTunr fields = s.answer .TUNR .ok [.num v] := by
  have hk : (sc.range x).isSome = true :=
    (Tuning.range_isSome_iff hi x).mpr (List.mem_map_of_mem (f := Prod.fst) hx)
  have hne : (sc.range x).isNone ≠ true := by
    rw [Option.isSome_iff_ne_none] at hk
    simpa using hk
  have hf := find?_item (Tuning.scopeItems?_nodup hi) hx
  unfold State.doTunr
  rw [hr]
  split
  · next e =>
    cases e
    exact absurd (Tuning.range_isSome_iff hi _ |>.mp hk) (by cases hi; simp [DevTune.items])
  · next e => cases e
  · next e =>
    cases e
    rw [if_neg hne, hi, Option.bind_some, hf]
    rfl
  · next h =>
    exact absurd rfl (h sc x)

/-- Fields after the scope that are no item of it, and not the origin of the device. -/
theorem State.doTunr_of_foreign (hr : readScope fields = some (sc, rest)) (hn : rest ≠ [])
    (hx : ∀ x, rest = [.word x] → sc.range x = none) (ho : sc = .device → rest ≠ [.word .ORIGIN]) :
    s.doTunr fields = s.answer .TUNR .format := by
  unfold State.doTunr
  rw [hr]
  split
  · next e => cases e; exact absurd rfl (ho rfl)
  · next e => cases e; exact absurd rfl hn
  · next e =>
    cases e
    exact if_pos (by rw [hx _ rfl]; rfl)
  · rfl

/-- A scope whose index is out of range, with no item after it or one of its own. -/
theorem State.doTunr_of_beyond (hr : readScope fields = some (sc, rest)) (hi : s.tbm.tuning.scopeItems? sc = none)
    (hx : rest = [] ∨ ∃ x, rest = [.word x] ∧ (sc.range x).isSome = true) : s.doTunr fields = s.answer .TUNR .range := by
  unfold State.doTunr
  rw [hr]
  split
  · next e => cases e; cases hi
  · next e => cases e; rw [hi]
  · next e =>
    cases e
    rcases hx with hx | ⟨x, hx, hk⟩
    · cases hx
    · cases hx
      rw [if_neg (by simpa [Option.isSome_iff_ne_none] using hk), hi]
      rfl
  · next h1 h2 h3 =>
    rcases hx with rfl | ⟨x, rfl, -⟩
    · exact absurd rfl (h2 sc)
    · exact absurd rfl (h3 sc x)

/-- What a scope's fields read: all its items, one of them, or nothing (R16). -/
theorem State.doTunr_reads (hr : readScope fields = some (sc, rest)) (hi : s.tbm.tuning.scopeItems? sc = some l) :
    (rest = [] → s.doTunr fields = s.answerRun .TUNR (l.map fun p => [.word p.1, .num p.2])) ∧
    (∀ x v, rest = [.word x] → (x, v) ∈ l → s.doTunr fields = s.answer .TUNR .ok [.num v]) ∧
    (rest ≠ [] → (∀ p ∈ l, rest ≠ [.word p.1]) → rest ≠ [.word .ORIGIN] → s.doTunr fields = s.answer .TUNR .format) := by
  refine ⟨?_, ?_, fun hn hx ho => State.doTunr_of_foreign hr hn (fun x hw => ?_) fun _ => ho⟩
  · rintro rfl
    exact State.doTunr_run hr hi
  · rintro x v rfl hx
    exact State.doTunr_item hr hi hx
  · refine Option.not_isSome_iff_eq_none.mp fun hk => ?_
    obtain ⟨p, hp, rfl⟩ := List.mem_map.mp ((Tuning.range_isSome_iff hi x).mp hk)
    exact hx p hp hw

end

end Sys2Proof.Machine
end

section
/-! Proofs about MAPR (R100). -/

namespace Sys2Proof.Machine

/-! ### The part of a map a MAPR names -/

/-- The parts of a map that are named by one word. -/
def mapParts : List Field := [.word .RPM, .word .LOAD, .word .DERATE, .word .AVAIL]

section
variable (m : PhaseMap)

theorem PhaseMap.part_row (f : Field) : m.part [.word .ROW, f] = byNumber (within? 1 16) f m.row := rfl

theorem PhaseMap.part_of_foreign {f : Field} (more : List Field) (hk : f ∉ mapParts) (hr : f ≠ .word .ROW) :
    m.part (f :: more) = .error .format := by
  unfold PhaseMap.part
  split <;> simp_all [mapParts]

theorem PhaseMap.part_of_more {f : Field} {more : List Field} (hk : f ∈ mapParts) (hm : more ≠ []) :
    m.part (f :: more) = .error .format := by
  unfold PhaseMap.part
  split <;> simp_all [mapParts]

theorem PhaseMap.part_of_no_row {more : List Field} (h : ∀ v, more ≠ [.num v]) :
    m.part (.word .ROW :: more) = .error .format := by
  unfold PhaseMap.part
  split
  · next r e =>
    cases e
    cases r with
    | num v => exact absurd rfl (h v)
    | _ => rfl
  · next e => cases e
  · next e => cases e
  · next e => cases e
  · next e => cases e
  · rfl

/-- The parts that are read, whatever the map. -/
theorem PhaseMap.part_of_known {f : Field} (h : f ∈ mapParts) : ∃ g, m.part [f] = .ok g := by
  simp only [mapParts, List.mem_cons, List.not_mem_nil, or_false] at h
  rcases h with rfl | rfl | rfl | rfl <;> exact ⟨_, rfl⟩

theorem PhaseMap.part_row_num {r : Nat} (h : 1 ≤ r ∧ r ≤ 16) : m.part [.word .ROW, .num r] = .ok (m.row r) :=
  byNumber_of_some (within?_num_of_within (by omega))

theorem PhaseMap.part_row_beyond {v : Int} (h : v < 1 ∨ 16 < v) : m.part [.word .ROW, .num v] = .error .range :=
  byNumber_of_none (within?_num_of_beyond (by omega))

theorem PhaseMap.part_row_num_ne_format (v : Int) : m.part [.word .ROW, .num v] ≠ .error .format := by
  rw [PhaseMap.part_row]
  by_cases h : (1 : Int) ≤ v ∧ v ≤ 16
  · rw [byNumber_of_some (within?_num_of_within h)]
    simp
  · rw [byNumber_of_none (within?_num_of_beyond h)]
    simp [isNum]

end

/-- The values of a row of natural numbers, taken as integers one by one. -/
theorem map_num_cast (l : List Nat) : ((do let a ← l; pure (a : Int)) : List Int).map (fun v => Field.num v) = l.map nat := by
  induction l with
  | nil => rfl
  | cons a l ih => exact congrArg (Field.num a :: ·) ih

theorem wholeMap_iff (rest : List Field) : wholeMap rest = true ↔ rest = [] ∨ rest = [.absent] := by
  simp [wholeMap]

/-! ### The request -/

section
variable {s : State} {rest : List Field}

theorem State.doMapr_whole (ch : Chan) (h : rest = [] ∨ rest = [.absent]) :
    s.doMapr (.num (chanNum ch) :: rest) = s.answerRun .MAPR (s.tbm.maps.get ch).lines := by
  simp only [State.doMapr, chan?_chanNum]
  exact if_pos ((wholeMap_iff rest).mpr h)

theorem State.doMapr_part (ch : Chan) (h : ¬ (rest = [] ∨ rest = [.absent])) {g : List Field}
    (hp : (s.tbm.maps.get ch).part rest = .ok g) :
    s.doMapr (.num (chanNum ch) :: rest) = s.answer .MAPR .ok g := by
  simp only [State.doMapr, chan?_chanNum, hp]
  exact if_neg (mt (wholeMap_iff rest).mp h)

theorem State.doMapr_error (ch : Chan) (h : ¬ (rest = [] ∨ rest = [.absent])) {st : Status}
    (hp : (s.tbm.maps.get ch).part rest = .error st) :
    s.doMapr (.num (chanNum ch) :: rest) = s.answer .MAPR st := by
  simp only [State.doMapr, chan?_chanNum, hp]
  exact if_neg (mt (wholeMap_iff rest).mp h)

/-- Fields that name no part of any map are refused whatever the channel. -/
theorem State.doMapr_format (n : Int) (h : ¬ (rest = [] ∨ rest = [.absent]))
    (hp : ∀ m : PhaseMap, m.part rest = .error .format) : s.doMapr (.num n :: rest) = s.answer .MAPR .format := by
  have hw : wholeMap rest = false := Bool.eq_false_iff.mpr (mt (wholeMap_iff rest).mp h)
  cases hc : chan? (.num n) with
  | some ch => simp [State.doMapr, hc, hw, hp]
  | none => simp [State.doMapr, hc, hw, hp]

theorem State.doMapr_range {n : Int} (hn : n < 1 ∨ 4 < n)
    (h : (rest = [] ∨ rest = [.absent]) ∨ PhaseMap.blank.part rest ≠ .error .format) :
    s.doMapr (.num n :: rest) = s.answer .MAPR .range := by
  have hc : chan? (.num n) = none := chan?_of_beyond (by omega)
  unfold State.doMapr
  simp only [hc]
  split
  · next hw hp =>
    rcases h with h | h
    · exact absurd ((wholeMap_iff rest).mpr h) (by simp [hw])
    · exact absurd hp h
  · rfl

/-- The fields after the channel that a MAPR is refused with FORMAT for (R100). -/
theorem State.doMapr_refused (n : Int) (f : Field) (more : List Field) :
    (f ∉ mapParts → f ≠ .word .ROW → (f = .absent → more ≠ []) →
      s.doMapr (.num n :: f :: more) = s.answer .MAPR .format) ∧
    (f ∈ mapParts → more ≠ [] → s.doMapr (.num n :: f :: more) = s.answer .MAPR .format) ∧
    (f = .word .ROW → (∀ v, more ≠ [.num v]) → s.doMapr (.num n :: f :: more) = s.answer .MAPR .format) := by
  refine ⟨fun hk hr ha => State.doMapr_format n ?_ fun m => m.part_of_foreign more hk hr,
    fun hk hm => State.doMapr_format n ?_ fun m => m.part_of_more hk hm, ?_⟩
  · simpa using ha
  · simp [hm]
  · rintro rfl hv
    exact State.doMapr_format n (by simp) fun m => m.part_of_no_row hv

theorem State.doMapr_of_no_number {fields : List Field} (h : ∀ n rest, fields ≠ .num n :: rest) :
    s.doMapr fields = s.answer .MAPR .format := by
  unfold State.doMapr
  split
  · exact absurd rfl (h _ _)
  · rfl

end

end Sys2Proof.Machine
end

section
/-! What LAYR, TUNR and MAPR answer, and that they change nothing (R5, R16, R100). -/

namespace Sys2Proof.Machine

/-- Settles O60: each request answers from the tables as they stand when it begins. -/
theorem tableReadsChangeNothing : Obligations.TableReadsChangeNothing := by
  intro s t fields
  refine ⟨fun hb => ?_, fun hb => ?_, fun hb => ?_⟩
  · have he : exec (.layr fields) s = .next (t.doLayr fields) :=
      exec_of_begins (act := fun s => s.doLayr fields) rfl hb
    intro l line refused wheel orAbsent cam edge cd ab bind lift chans
    have hwheel : wheelFields l.wheel = wheel := by cases hw : l.wheel <;> simp only [wheel, hw] <;> rfl
    have habsent (a : Option Nat) : optField nat a = orAbsent a := by cases a <;> rfl
    have hcam (ch : Chan) : camFields (l.cam.get ch) = cam ch := by
      cases hc : l.cam.get ch <;> simp only [cam, hc] <;> rfl
    have hcd (a : Option LineABCD) : orZero abcdWord a = cd a := by cases a <;> rfl
    have hab (a : Option LineAB) : orZero abWord a = ab a := by cases a <;> rfl
    have hbind (ch : Chan) : bindFields (l.bind.get ch) = bind ch := by simp only [bindFields, hcd, bind]
    have hlift (u : LiftUnit) : liftFields (l.lift.get u) = lift u := by
      simp only [liftFields, hab, habsent, lift]
    have hline {g : List Field} (h : t.doLayr fields = t.answer .LAYR .ok g) : line g :=
      he.trans (congrArg Host.Outcome.next h)
    have hrefused {st : Status} (h : t.doLayr fields = t.answer .LAYR st) : refused st :=
      he.trans (congrArg Host.Outcome.next h)
    refine ⟨?_, ?_, ?_, ?_, fun ch hf => hline ?_, fun ch hf => hline ?_, fun ch hf => hline ?_,
      fun u hf => hline ?_, fun o hf => hline ?_, fun f rest hf => ?_⟩
    · rintro rfl
      rw [he, ← hwheel, ← habsent, ← funext hcam, ← funext hbind, ← funext hlift]
      rfl
    · rintro rfl
      exact hline rfl
    · rintro rfl
      rw [← hwheel]
      exact hline rfl
    · rintro rfl
      rw [← habsent]
      exact hline rfl
    · rw [hf, State.doLayr_cam, ← hcam]
    · rw [hf, State.doLayr_edge]
      rfl
    · rw [hf, State.doLayr_bind, ← hbind]
    · rw [hf, State.doLayr_lift, ← hlift]
    · rw [hf, State.doLayr_pwm]
      rfl
    · subst hf
      obtain ⟨hforeign, hsingle, hnone, hinstance⟩ := State.doLayr_refused (s := t) f rest
      refine ⟨fun h => hrefused (hforeign h), fun hr h => hrefused (hsingle hr h),
        fun hr h => hrefused (hnone hr h), fun i hi hna => ?_⟩
      obtain ⟨hchan, hunit, hout⟩ := hinstance i hi hna
      exact ⟨fun h hc => hrefused (hchan h hc), fun h hu => hrefused (hunit h hu), fun h ho => hrefused (hout h ho)⟩
  · have he : exec (.tunr fields) s = .next (t.doTunr fields) :=
      exec_of_begins (act := fun s => s.doTunr fields) rfl hb
    intro y refused chanItems unitItems devItems reads
    have hanswer {t' : State} (h : t.doTunr fields = t') : exec (.tunr fields) s = .next t' :=
      he.trans (congrArg Host.Outcome.next h)
    have hreads {sc : TuneScope} {rest : List Field} {items : List (Token × Nat)}
        (hr : readScope fields = some (sc, rest)) (hi : y.scopeItems? sc = some items) : reads rest items := by
      obtain ⟨hrun, hitem, hforeign⟩ := State.doTunr_reads (s := t) hr hi
      exact ⟨fun h => hanswer (hrun h), fun x v h hx => hanswer (hitem x v h hx),
        fun hn hx ho => hanswer (hforeign hn hx ho)⟩
    have hchanKey {p : Token × Nat} (h : p ∈ chanItems .builtIn) : (chanTuneRange p.1).isSome = true :=
      (ChanTune.mem_items_iff .builtIn p.1).mpr (List.mem_map_of_mem (f := Prod.fst) h)
    have hunitKey {p : Token × Nat} (h : p ∈ unitItems .builtIn) : (unitTuneRange p.1).isSome = true :=
      (UnitTune.mem_items_iff .builtIn p.1).mpr (List.mem_map_of_mem (f := Prod.fst) h)
    refine ⟨?_, ?_, ?_, ?_, ?_, ?_, ?_, ?_, ?_, ?_, ?_, ?_, ?_, ?_⟩
    · rintro ch rest rfl
      exact hreads rfl (Tuning.scopeItems?_chan ch)
    · rintro u rest rfl
      exact hreads rfl (Tuning.scopeItems?_unit u)
    · rintro rest rfl
      exact hreads rfl rfl
    · rintro ch x v rfl hx
      have hk := (ChanTune.mem_items_iff (y.chan.get ch) x).mpr (List.mem_map_of_mem (f := Prod.fst) hx)
      exact hanswer (State.doTunr_item (readScope_num (by rintro _ ⟨⟩; exact unitTuneRange_of_chan hk))
        (Tuning.scopeItems?_chan ch) hx)
    · rintro u x v rfl hx
      have hk := (UnitTune.mem_items_iff (y.unit.get u) x).mpr (List.mem_map_of_mem (f := Prod.fst) hx)
      exact hanswer (State.doTunr_item (readScope_num_unit hk) (Tuning.scopeItems?_unit u) hx)
    · rintro ch rfl
      exact hanswer (State.doTunr_run rfl (Tuning.scopeItems?_chan ch))
    · rintro n rest rfl hn hp
      have hchan (x : Token) (hx : rest = [.word x]) : chanTuneRange x = none := by
        refine Option.not_isSome_iff_eq_none.mp fun hk => ?_
        obtain ⟨p, hmem, rfl⟩ := List.mem_map.mp ((ChanTune.mem_items_iff .builtIn x).mp hk)
        exact hp p (List.mem_append_left _ hmem) hx
      have hunit (x : Token) (hx : rest = [.word x]) : unitTuneRange x = none := by
        refine Option.not_isSome_iff_eq_none.mp fun hk => ?_
        obtain ⟨p, hmem, rfl⟩ := List.mem_map.mp ((UnitTune.mem_items_iff .builtIn x).mp hk)
        exact hp p (List.mem_append_right _ hmem) hx
      rcases readScope_num_cases n rest with hr | hr
      · exact hanswer (State.doTunr_of_foreign hr hn hchan nofun)
      · exact hanswer (State.doTunr_of_foreign hr hn hunit nofun)
    · rintro rfl
      exact hanswer rfl
    · rintro n (rfl | rfl)
      · exact hanswer (State.doTunr_of_foreign (sc := .chan (.num n)) rfl (by simp) (by rintro _ ⟨⟩; rfl) nofun)
      · exact hanswer (State.doTunr_of_foreign (sc := .unit (.num n)) rfl (by simp) (by rintro _ ⟨⟩; rfl) nofun)
    · rintro n rest hn rfl hx
      refine hanswer (State.doTunr_of_beyond (sc := .chan (.num n)) rfl (Tuning.scopeItems?_chan_beyond hn) ?_)
      exact hx.imp_right fun ⟨p, hp, hr⟩ => ⟨p.1, hr, hchanKey hp⟩
    · rintro n rest hn rfl hx
      refine hanswer (State.doTunr_of_beyond (sc := .unit (.num n)) rfl (Tuning.scopeItems?_unit_beyond hn) ?_)
      exact hx.imp_right fun ⟨p, hp, hr⟩ => ⟨p.1, hr, hunitKey hp⟩
    · rintro n rest hn rfl hx
      have hr : readScope (.num n :: rest) = some (.chan (.num n), rest) := by
        rcases hx with rfl | ⟨p, hp, rfl⟩
        · rfl
        · exact readScope_num (by rintro _ ⟨⟩; exact unitTuneRange_of_chan (hchanKey hp))
      refine hanswer (State.doTunr_of_beyond hr (Tuning.scopeItems?_chan_beyond hn) ?_)
      exact hx.imp_right fun ⟨p, hp, hr⟩ => ⟨p.1, hr, hchanKey hp⟩
    · rintro n hn ⟨p, hp, rfl⟩
      exact hanswer (State.doTunr_of_beyond (readScope_num_unit (hunitKey hp)) (Tuning.scopeItems?_unit_beyond hn)
        (.inr ⟨p.1, rfl, hunitKey hp⟩))
    · exact fun hn ha => hanswer (State.doTunr_of_no_scope (readScope_eq_none hn ha))
  · have he : exec (.mapr fields) s = .next (t.doMapr fields) :=
      exec_of_begins (act := fun s => s.doMapr fields) rfl hb
    intro refused known
    have hanswer {t' : State} (h : t.doMapr fields = t') : exec (.mapr fields) s = .next t' :=
      he.trans (congrArg Host.Outcome.next h)
    have hrefused (n : Int) (f : Field) (more : List Field) (hf : fields = .num n :: f :: more) :
        (¬ known f → f ≠ .word .ROW → (f = .absent → more ≠ []) → refused .format) ∧
        (known f → more ≠ [] → refused .format) ∧ (f = .word .ROW → (∀ v, more ≠ [.num v]) → refused .format) := by
      subst hf
      obtain ⟨hforeign, hmore, hrow⟩ := State.doMapr_refused (s := t) n f more
      exact ⟨fun hk hr ha => hanswer (hforeign hk hr ha), fun hk hm => hanswer (hmore hk hm),
        fun hr hv => hanswer (hrow hr hv)⟩
    refine ⟨?_, ?_, fun h => hanswer (State.doMapr_of_no_number h)⟩
    · intro ch rest hf m line avail row rpm load derate
      have hpart {g : List Field} (hw : ¬ (rest = [] ∨ rest = [.absent])) (hp : m.part rest = .ok g) : line g :=
        hanswer (hf ▸ State.doMapr_part ch hw hp)
      have hrow (r : Nat) : m.row r = row r := (map_num_cast _).symm
      have hrpm : m.data.rpm.map nat = rpm := (map_num_cast _).symm
      have hload : m.data.load.map nat = load := (map_num_cast _).symm
      refine ⟨?_, ?_, ?_, ?_, ?_, ?_, ?_, ?_⟩
      · intro hw
        rw [← funext hrow, ← hrpm, ← hload]
        exact hanswer (hf ▸ State.doMapr_whole ch hw)
      · rintro rfl
        exact hpart (by simp) (congrArg Except.ok hrpm)
      · rintro rfl
        exact hpart (by simp) (congrArg Except.ok hload)
      · rintro rfl
        exact hpart (by simp) rfl
      · rintro rfl
        exact hpart (by simp) rfl
      · rintro r h1 h16 rfl
        exact hpart (by simp) ((m.part_row_num ⟨h1, h16⟩).trans (congrArg Except.ok (hrow r)))
      · rintro v hv rfl
        exact hanswer (hf ▸ State.doMapr_error ch (by simp) (m.part_row_beyond hv))
      · rintro f more rfl
        exact hrefused _ f more hf
    · intro n rest hn hf
      refine ⟨fun h => hanswer (hf ▸ State.doMapr_range hn ?_), fun f more hm => hrefused n f more (hm ▸ hf)⟩
      rcases h with h | h | ⟨f, rfl, hk⟩ | ⟨v, rfl⟩
      · exact .inl (.inl h)
      · exact .inl (.inr h)
      · obtain ⟨g, hg⟩ := PhaseMap.blank.part_of_known hk
        exact .inr (by rw [hg]; simp)
      · exact .inr (PhaseMap.blank.part_row_num_ne_format v)

end Sys2Proof.Machine
end

section
/-! Proofs about the form of LAYW, TUNW and MAPW: check 1 of R4, R15 and R99, as the shapes that pass it. -/

namespace Sys2Proof.Machine

/-! ### Fields -/

theorem plain_iff (ws : List Token) (f : Field) : plain ws f = true ↔ (∃ v, f = .num v) ∨ ∃ x ∈ ws, f = .word x := by
  cases f <;> simp [plain]

theorem plain_nil_iff (f : Field) : plain [] f = true ↔ ∃ v, f = .num v := by
  rw [plain_iff]
  simp

theorem plainOrAbsent_iff (f : Field) : plainOrAbsent f = true ↔ f = .absent ∨ ∃ v, f = .num v := by
  rw [plainOrAbsent, Bool.or_eq_true, beq_iff_eq, plain_nil_iff]

theorem all_plain_iff (ws : List Token) (l : List Field) :
    l.all (plain ws) = true ↔ ∀ f ∈ l, (∃ v, f = .num v) ∨ ∃ x ∈ ws, f = .word x := by
  simp only [List.all_eq_true, plain_iff]

theorem absent_or_plain_iff (ws : List Token) (f : Field) :
    (f == .absent || plain ws f) = true ↔ f = .absent ∨ (∃ v, f = .num v) ∨ ∃ x ∈ ws, f = .word x := by
  rw [Bool.or_eq_true, beq_iff_eq, plain_iff]

/-! ### LAYW (R4) -/

section
variable (a b c d e : Field) (rest : List Field)

theorem laywFormat_wheel : laywFormat [.word .WHEEL, a, b, c, d, e] = true ↔
    (∃ v, a = .num v) ∧ (∃ v, b = .num v) ∧ (∃ v, c = .num v) ∧ (∃ v, d = .num v) ∧ (e = .absent ∨ ∃ v, e = .num v) := by
  simp only [laywFormat, List.all_cons, List.all_nil, Bool.and_true, Bool.and_eq_true, plain_nil_iff, plainOrAbsent_iff,
    and_assoc]

theorem laywFormat_cam : laywFormat (.word .CAM :: rest) = true ↔
    rest.length = 5 ∧ ∀ f ∈ rest, (∃ v, f = .num v) ∨ ∃ x ∈ [Token.ADV, .RET, .YES, .NO], f = .word x := by
  simp only [laywFormat, Bool.and_eq_true, beq_iff_eq, all_plain_iff]

theorem laywFormat_edge (n : Int) : laywFormat (.word .EDGE :: a :: .num n :: rest) = true ↔ (rest.length : Int) = 2 * n ∧
    ∀ f ∈ a :: rest, (∃ v, f = .num v) ∨ ∃ x ∈ [Token.RISE, .FALL], f = .word x := by
  simp only [laywFormat, Bool.and_eq_true, decide_eq_true_iff, plain_iff, all_plain_iff, and_assoc, List.forall_mem_cons]

theorem laywFormat_bind : laywFormat (.word .BIND :: rest) = true ↔
    rest.length = 3 ∧ ∀ f ∈ rest, (∃ v, f = .num v) ∨ ∃ x ∈ [Token.A, .B, .C, .D], f = .word x := by
  simp only [laywFormat, Bool.and_eq_true, beq_iff_eq, all_plain_iff]

theorem laywFormat_lift (u : Field) : laywFormat [.word .LIFT, u, d, e, a, b, c] = true ↔
    (∀ f ∈ [u, d, e], (∃ v, f = .num v) ∨ ∃ x ∈ [Token.A, .B], f = .word x) ∧
      ∀ f ∈ [a, b, c], f = .absent ∨ (∃ v, f = .num v) ∨ ∃ x ∈ [Token.A, .B], f = .word x := by
  simp only [laywFormat, Bool.and_eq_true, List.all_eq_true, plain_iff, absent_or_plain_iff]

theorem laywFormat_pwm : laywFormat [.word .PWM, a, b] = true ↔
    ((∃ v, a = .num v) ∨ ∃ x ∈ [Token.A, .B, .C, .D], a = .word x) ∧
      (b = .absent ∨ (∃ v, b = .num v) ∨ ∃ x ∈ [Token.A, .B, .C, .D], b = .word x) := by
  simp only [laywFormat, Bool.and_eq_true, plain_iff, absent_or_plain_iff]

end

/-- The seven items of a LAYW. -/
theorem laywFormat_iff (fields : List Field) :
    let num (f : Field) : Prop := ∃ v, f = .num v
    let of_ (words : List Token) (f : Field) : Prop := num f ∨ ∃ x ∈ words, f = .word x
    laywFormat fields = true ↔
      (∃ a b c d e, fields = [.word .WHEEL, a, b, c, d, e] ∧ num a ∧ num b ∧ num c ∧ num d ∧ (e = .absent ∨ num e)) ∨
      (∃ a, fields = [.word .CYL, a] ∧ num a) ∨
      (∃ rest, fields = .word .CAM :: rest ∧ rest.length = 5 ∧ ∀ f ∈ rest, of_ [.ADV, .RET, .YES, .NO] f) ∨
      (∃ (ch : Field) (n : Int) (rest : List Field), fields = .word .EDGE :: ch :: .num n :: rest ∧
        (rest.length : Int) = 2 * n ∧ ∀ f ∈ ch :: rest, of_ [.RISE, .FALL] f) ∨
      (∃ rest, fields = .word .BIND :: rest ∧ rest.length = 3 ∧ ∀ f ∈ rest, of_ [.A, .B, .C, .D] f) ∨
      (∃ u d n a b c, fields = [.word .LIFT, u, d, n, a, b, c] ∧ (∀ f ∈ [u, d, n], of_ [.A, .B] f) ∧
        ∀ f ∈ [a, b, c], f = .absent ∨ of_ [.A, .B] f) ∨
      ∃ o x, fields = [.word .PWM, o, x] ∧ of_ [.A, .B, .C, .D] o ∧ (x = .absent ∨ of_ [.A, .B, .C, .D] x) := by
  intro num of_
  constructor
  · intro h
    have hall := h
    unfold laywFormat at h
    split at h
    · exact .inl ⟨_, _, _, _, _, rfl, (laywFormat_wheel _ _ _ _ _).mp hall⟩
    · exact .inr (.inl ⟨_, rfl, (plain_nil_iff _).mp hall⟩)
    · exact .inr (.inr (.inl ⟨_, rfl, (laywFormat_cam _).mp hall⟩))
    · exact .inr (.inr (.inr (.inl ⟨_, _, _, rfl, (laywFormat_edge _ _ _).mp hall⟩)))
    · exact .inr (.inr (.inr (.inr (.inl ⟨_, rfl, (laywFormat_bind _).mp hall⟩))))
    · exact .inr (.inr (.inr (.inr (.inr (.inl ⟨_, _, _, _, _, _, rfl, (laywFormat_lift _ _ _ _ _ _).mp hall⟩)))))
    · exact .inr (.inr (.inr (.inr (.inr (.inr ⟨_, _, rfl, (laywFormat_pwm _ _).mp hall⟩)))))
    · cases h
  · rintro (⟨a, b, c, d, e, rfl, h⟩ | ⟨a, rfl, h⟩ | ⟨rest, rfl, h⟩ | ⟨ch, n, rest, rfl, h⟩ | ⟨rest, rfl, h⟩ |
      ⟨u, d, n, a, b, c, rfl, h⟩ | ⟨o, x, rfl, h⟩)
    · exact (laywFormat_wheel a b c d e).mpr h
    · exact (plain_nil_iff a).mpr h
    · exact (laywFormat_cam rest).mpr h
    · exact (laywFormat_edge ch rest n).mpr h
    · exact (laywFormat_bind rest).mpr h
    · exact (laywFormat_lift a b c d n u).mpr h
    · exact (laywFormat_pwm o x).mpr h

/-! ### MAPW (R99) -/

theorem mapwFormat_iff (fields : List Field) : mapwFormat fields = true ↔
    ∃ ch part rest, fields = ch :: .word part :: rest ∧ (∃ v, ch = .num v) ∧ (∀ f ∈ rest, ∃ v, f = .num v) ∧
      (part = .ROW ∧ 3 ≤ rest.length ∧ rest.length ≤ 14 ∨ part = .RPM ∧ rest.length = 16 ∨
        part = .LOAD ∧ rest.length = 12 ∨ part = .DERATE ∧ rest.length = 16) := by
  constructor
  · intro h
    unfold mapwFormat at h
    split at h
    · simp only [Bool.and_eq_true, isNum_iff, List.all_eq_true] at h
      obtain ⟨⟨hc, hr⟩, hp⟩ := h
      refine ⟨_, _, _, rfl, hc, hr, ?_⟩
      split at hp
      · exact .inl ⟨rfl, of_decide_eq_true hp⟩
      · exact .inr (.inl ⟨rfl, beq_iff_eq.mp hp⟩)
      · exact .inr (.inr (.inl ⟨rfl, beq_iff_eq.mp hp⟩))
      · exact .inr (.inr (.inr ⟨rfl, beq_iff_eq.mp hp⟩))
      · cases hp
    · cases h
  · rintro ⟨ch, part, rest, rfl, hc, hr, hp⟩
    have hch : isNum ch = true := (isNum_iff ch).mpr hc
    have hall : rest.all isNum = true := List.all_eq_true.mpr fun f hf => (isNum_iff f).mpr (hr f hf)
    unfold mapwFormat
    rcases hp with ⟨rfl, hp⟩ | ⟨rfl, hp⟩ | ⟨rfl, hp⟩ | ⟨rfl, hp⟩ <;> simp [hch, hall, hp]

/-! ### TUNW (R15; log 17) -/

theorem unitTuneRange_isSome_iff (x : Token) : (unitTuneRange x).isSome = true ↔ x = .TRAVEL_MS ∨ x = .MARGIN_MS := by
  rw [UnitTune.mem_items_iff .builtIn]
  simp [UnitTune.items]

theorem readScope_eq_some_iff (fields : List Field) (sc : TuneScope) (rest : List Field) :
    readScope fields = some (sc, rest) ↔
      (∃ n, fields = .word .CH :: .num n :: rest ∧ sc = .chan (.num n)) ∨
      (∃ n, fields = .word .LIFT :: .num n :: rest ∧ sc = .unit (.num n)) ∨
      (fields = .absent :: rest ∧ sc = .device) ∨
      ∃ n, fields = .num n :: rest ∧ sc =
        if rest.head? = some (.word .TRAVEL_MS) ∨ rest.head? = some (.word .MARGIN_MS) then .unit (.num n)
        else .chan (.num n) := by
  constructor
  · intro h
    unfold readScope at h
    split at h
    · cases h; exact .inl ⟨_, rfl, rfl⟩
    · cases h; exact .inr (.inl ⟨_, rfl, rfl⟩)
    · cases h
      refine .inr (.inr (.inr ⟨_, rfl, ?_⟩))
      simp [unitTuneRange_isSome_iff]
    · next n r hw =>
      cases h
      refine .inr (.inr (.inr ⟨_, rfl, (if_neg ?_).symm⟩))
      cases rest with
      | nil => simp
      | cons f r => simpa using ⟨fun hf => hw _ r (by rw [hf]), fun hf => hw _ r (by rw [hf])⟩
    · cases h; exact .inr (.inr (.inl ⟨rfl, rfl⟩))
    · cases h
  · rintro (⟨n, rfl, rfl⟩ | ⟨n, rfl, rfl⟩ | ⟨rfl, rfl⟩ | ⟨n, rfl, rfl⟩)
    · rfl
    · rfl
    · rfl
    · cases rest with
      | nil => rfl
      | cons f r =>
        cases f with
        | word x => simp [readScope, unitTuneRange_isSome_iff]
        | _ => rfl

theorem itemPairs?_eq_some_iff (fields : List Field) (l : List (Token × Int)) :
    itemPairs? fields = some l ↔ fields = l.flatMap fun p => [.word p.1, .num p.2] := by
  induction fields using itemPairs?.induct generalizing l with
  | case1 x v rest ih =>
    cases l with
    | nil => simp [itemPairs?]
    | cons p l => simp [itemPairs?, ih, Prod.ext_iff, and_assoc, and_comm, and_left_comm]
  | case2 => cases l <;> simp [itemPairs?]
  | case3 fields h1 h2 =>
    cases l with
    | nil => simpa [itemPairs?] using h2
    | cons p l =>
      rw [itemPairs?.eq_3 _ h1 h2]
      simpa using h1 p.1 p.2 _

theorem tunwPairs?_eq_some_iff (sc : TuneScope) (fields : List Field) (l : List (Token × Int)) :
    tunwPairs? sc fields = some l ↔
      fields = l.flatMap (fun p => [.word p.1, .num p.2]) ∧ 1 ≤ l.length ∧ l.length ≤ 8 ∧ (l.map Prod.fst).Nodup ∧
        ∀ p ∈ l, sc.range p.1 ≠ none := by
  have hall (k : List (Token × Int)) :
      (k.all fun p => (sc.range p.1).isSome) = true ↔ ∀ p ∈ k, sc.range p.1 ≠ none := by
    simp only [List.all_eq_true, Option.isSome_iff_ne_none]
  constructor
  · intro h
    obtain ⟨k, hk, h⟩ := Option.bind_eq_some_iff.mp h
    obtain ⟨⟨h1, h8, hd, ha⟩, rfl⟩ := Option.ite_none_right_eq_some.mp h |>.imp_right Option.some.inj
    exact ⟨(itemPairs?_eq_some_iff _ _).mp hk, h1, h8, hd, (hall _).mp ha⟩
  · rintro ⟨hf, h1, h8, hd, ha⟩
    refine Option.bind_eq_some_iff.mpr ⟨l, (itemPairs?_eq_some_iff _ _).mpr hf, ?_⟩
    exact if_pos ⟨h1, h8, hd, (hall l).mpr ha⟩

end Sys2Proof.Machine
end

section
/-! Proofs about TUNW (R13 to R15): the ranges of the items, what a write does to them, and the pair constraints. -/

namespace Sys2Proof.Machine

/-! ### Ranges (R13, R14) -/

theorem chanTuneRange_eq_some_iff (x : Token) (lo hi : Nat) : chanTuneRange x = some (lo, hi) ↔
    (x, lo, hi) ∈ [(Token.KP, 0, 1000), (.KI, 0, 500), (.ILIM, 0, 1000), (.HOLD0, 0, 1000),
      (.DMIN, 0, 1000), (.DMAX, 0, 1000), (.DEADBAND, 0, 64), (.SLEW, 1, 960), (.RELEASE_RPM, 0, 18000),
      (.RELEASE_KPA, 0, 1000), (.HOLD_KPA, 0, 1000), (.RELEASE_DUTY, 0, 1000), (.RELEASE_MS, 10, 500),
      (.PARK_TOL, 0, 160), (.PARK_MS, 50, 2000), (.STEP, 8, 960), (.STUCK_CYCLES, 1, 64), (.MOVE_MIN, 1, 480)] := by
  constructor
  · intro h
    unfold chanTuneRange at h
    split at h <;> simp_all
  · simp only [List.mem_cons, List.not_mem_nil, or_false, Prod.mk.injEq]
    rintro (⟨rfl, rfl, rfl⟩ | ⟨rfl, rfl, rfl⟩ | ⟨rfl, rfl, rfl⟩ | ⟨rfl, rfl, rfl⟩ | ⟨rfl, rfl, rfl⟩ | ⟨rfl, rfl, rfl⟩ |
      ⟨rfl, rfl, rfl⟩ | ⟨rfl, rfl, rfl⟩ | ⟨rfl, rfl, rfl⟩ | ⟨rfl, rfl, rfl⟩ | ⟨rfl, rfl, rfl⟩ | ⟨rfl, rfl, rfl⟩ |
      ⟨rfl, rfl, rfl⟩ | ⟨rfl, rfl, rfl⟩ | ⟨rfl, rfl, rfl⟩ | ⟨rfl, rfl, rfl⟩ | ⟨rfl, rfl, rfl⟩ | ⟨rfl, rfl, rfl⟩) <;> rfl

theorem unitTuneRange_eq_some_iff (x : Token) (lo hi : Nat) : unitTuneRange x = some (lo, hi) ↔
    (x, lo, hi) ∈ [(Token.TRAVEL_MS, 5, 100), (.MARGIN_MS, 0, 50)] := by
  constructor
  · intro h
    unfold unitTuneRange at h
    split at h <;> simp_all
  · simp only [List.mem_cons, List.not_mem_nil, or_false, Prod.mk.injEq]
    rintro (⟨rfl, rfl, rfl⟩ | ⟨rfl, rfl, rfl⟩) <;> rfl

theorem devTuneRange_eq_some_iff (x : Token) (lo hi : Nat) : devTuneRange x = some (lo, hi) ↔
    (x, lo, hi) ∈ [(Token.CEILING_RPM, 0, 18000), (.UP_RPM, 0, 18000), (.UP_LOAD, 0, 1000),
      (.DOWN_RPM, 0, 18000), (.DOWN_LOAD, 0, 1000), (.STALE_MS, 20, 500), (.HOLD_LIMIT_MS, 50, 5000)] := by
  constructor
  · intro h
    unfold devTuneRange at h
    split at h <;> simp_all
  · simp only [List.mem_cons, List.not_mem_nil, or_false, Prod.mk.injEq]
    rintro (⟨rfl, rfl, rfl⟩ | ⟨rfl, rfl, rfl⟩ | ⟨rfl, rfl, rfl⟩ | ⟨rfl, rfl, rfl⟩ | ⟨rfl, rfl, rfl⟩ | ⟨rfl, rfl, rfl⟩ |
      ⟨rfl, rfl, rfl⟩) <;> rfl

/-! ### A written item (R15) -/

/-- One item's value replaced, every other item as it was. -/
def putItem (x : Token) (n : Nat) (p : Token × Nat) : Token × Nat := if p.1 = x then (x, n) else p

theorem map_putItem_of_foreign {x : Token} (n : Nat) {l : List (Token × Nat)} (h : x ∉ l.map Prod.fst) :
    l.map (putItem x n) = l := by
  refine List.map_congr_left (fun p hp => ?_) |>.trans (List.map_id l)
  exact if_neg fun hx => h (List.mem_map.mpr ⟨p, hp, hx⟩)

theorem ChanTune.items_write (a : ChanTune) (x : Token) (n : Nat) : (a.write x n).items = a.items.map (putItem x n) := by
  unfold ChanTune.write
  split
  case h_19 =>
    refine (map_putItem_of_foreign n ?_).symm
    simp_all [ChanTune.items]
  all_goals rfl

theorem UnitTune.items_write (a : UnitTune) (x : Token) (n : Nat) : (a.write x n).items = a.items.map (putItem x n) := by
  unfold UnitTune.write
  split
  · rfl
  · rfl
  · refine (map_putItem_of_foreign n ?_).symm
    simp_all [UnitTune.items]

theorem DevTune.items_write (a : DevTune) (x : Token) (n : Nat) : (a.write x n).items = a.items.map (putItem x n) := by
  unfold DevTune.write
  split
  case h_8 =>
    refine (map_putItem_of_foreign n ?_).symm
    simp_all [DevTune.items]
  all_goals rfl

/-! ### All the pairs of a TUNW (R15) -/

/-- Every pair names an item and gives it a value within its range. -/
def pairsWithin (range : Token → Option (Nat × Nat)) (l : List (Token × Int)) : Prop :=
  ∀ p ∈ l, ∃ lo hi : Nat, range p.1 = some (lo, hi) ∧ lo ≤ p.2 ∧ p.2 ≤ hi

/-- The value of one pair, where it lies within its item's range. -/
def valueWithin? (sc : TuneScope) (p : Token × Int) : Option (Token × Nat) :=
  match sc.range p.1 with
  | some (lo, hi) => (within? lo hi (.num p.2)).map fun v => (p.1, v)
  | none => none

theorem valueWithin?_of_within {sc : TuneScope} {p : Token × Int} {lo hi : Nat} (hr : sc.range p.1 = some (lo, hi))
    (h : (lo : Int) ≤ p.2 ∧ p.2 ≤ hi) : valueWithin? sc p = some (p.1, p.2.toNat) := by
  simp [valueWithin?, hr, within?, h]

theorem valueWithin?_eq_some {sc : TuneScope} {p : Token × Int} {q : Token × Nat} (h : valueWithin? sc p = some q) :
    ∃ lo hi : Nat, sc.range p.1 = some (lo, hi) ∧ lo ≤ p.2 ∧ p.2 ≤ hi := by
  unfold valueWithin? at h
  split at h
  · next lo hi hr =>
    obtain ⟨v, hv, -⟩ := Option.map_eq_some_iff.mp h
    exact ⟨lo, hi, hr, (Option.ite_none_right_eq_some.mp hv).1⟩
  · cases h

theorem valuesWithin?_eq (sc : TuneScope) (l : List (Token × Int)) : valuesWithin? sc l = l.mapM (valueWithin? sc) := rfl

theorem valuesWithin?_of_within {sc : TuneScope} {l : List (Token × Int)} (h : pairsWithin sc.range l) :
    valuesWithin? sc l = some (l.map fun p => (p.1, p.2.toNat)) := by
  rw [valuesWithin?_eq]
  induction l with
  | nil => rfl
  | cons p l ih =>
    obtain ⟨⟨lo, hi, hr, hv⟩, ht⟩ := List.forall_mem_cons.mp h
    rw [List.mapM_cons, valueWithin?_of_within hr hv, ih ht]
    rfl

theorem valuesWithin?_of_not_within {sc : TuneScope} {l : List (Token × Int)} (h : ¬ pairsWithin sc.range l) :
    valuesWithin? sc l = none := by
  refine Option.eq_none_iff_forall_ne_some.mpr fun vs he => h ?_
  clear h
  rw [valuesWithin?_eq] at he
  induction l generalizing vs with
  | nil => exact fun p hp => absurd hp List.not_mem_nil
  | cons p l ih =>
    rw [List.mapM_cons] at he
    obtain ⟨q, hq, he⟩ := Option.bind_eq_some_iff.mp he
    obtain ⟨qs, hqs, -⟩ := Option.bind_eq_some_iff.mp he
    exact List.forall_mem_cons.mpr ⟨valueWithin?_eq_some hq, ih qs hqs⟩

section
variable {y : Tuning} {l : List (Token × Int)}

theorem Tuning.writeAll_of_not_within {sc : TuneScope} (h : ¬ pairsWithin sc.range l) : y.writeAll sc l = none := by
  rw [Tuning.writeAll, valuesWithin?_of_not_within h]
  rfl

theorem Tuning.writeAll_chan (ch : Chan) (h : pairsWithin chanTuneRange l) :
    y.writeAll (.chan (.num (chanNum ch))) l =
      if (l.foldl (fun c p => c.write p.1 p.2.toNat) (y.chan.get ch)).pairsOk then
        some { y with chan := y.chan.set ch (l.foldl (fun c p => c.write p.1 p.2.toNat) (y.chan.get ch)) } else none := by
  rw [Tuning.writeAll, valuesWithin?_of_within (sc := .chan _) h]
  simp only [Option.bind_eq_bind, Option.bind_some, chan?_chanNum, List.foldl_map]

theorem Tuning.writeAll_unit (u : LiftUnit) (h : pairsWithin unitTuneRange l) :
    y.writeAll (.unit (.num (unitNum u))) l =
      some { y with unit := y.unit.set u (l.foldl (fun c p => c.write p.1 p.2.toNat) (y.unit.get u)) } := by
  rw [Tuning.writeAll, valuesWithin?_of_within (sc := .unit _) h]
  simp only [Option.bind_eq_bind, Option.bind_some, unit?_unitNum, List.foldl_map]

theorem Tuning.writeAll_device (h : pairsWithin devTuneRange l) : y.writeAll .device l =
    if (l.foldl (fun c p => c.write p.1 p.2.toNat) y.dev).pairsOk then
      some { y with dev := l.foldl (fun c p => c.write p.1 p.2.toNat) y.dev } else none := by
  rw [Tuning.writeAll, valuesWithin?_of_within (sc := .device) h]
  simp only [Option.bind_eq_bind, Option.bind_some, List.foldl_map]

theorem Tuning.writeAll_chan_beyond {n : Int} (h : n < 1 ∨ 4 < n) : y.writeAll (.chan (.num n)) l = none := by
  have hc : chan? (.num n) = none := chan?_of_beyond (by omega)
  rw [Tuning.writeAll]
  cases valuesWithin? (.chan (.num n)) l with
  | none => rfl
  | some vs => simp only [Option.bind_eq_bind, Option.bind_some, hc, Option.bind_none]

theorem Tuning.writeAll_unit_beyond {n : Int} (h : n < 1 ∨ 2 < n) : y.writeAll (.unit (.num n)) l = none := by
  have hc : unit? (.num n) = none := unit?_of_beyond (by omega)
  rw [Tuning.writeAll]
  cases valuesWithin? (.unit (.num n)) l with
  | none => rfl
  | some vs => simp only [Option.bind_eq_bind, Option.bind_some, hc, Option.bind_none]

end

/-- What a TUNW writes, and what keeps it from writing (checks 3 and 4 of R15). -/
theorem Tuning.writeAll_spec (y : Tuning) (ch : Chan) (u : LiftUnit) (l : List (Token × Int)) :
    let within (range : Token → Option (Nat × Nat)) : Prop :=
      ∀ p ∈ l, ∃ lo hi : Nat, range p.1 = some (lo, hi) ∧ lo ≤ p.2 ∧ p.2 ≤ hi
    let c := l.foldl (fun c p => c.write p.1 p.2.toNat) (y.chan.get ch)
    let v := l.foldl (fun v p => v.write p.1 p.2.toNat) (y.unit.get u)
    let d := l.foldl (fun d p => d.write p.1 p.2.toNat) y.dev
    (within chanTuneRange → y.writeAll (.chan (.num (chanNum ch))) l =
      if c.dmin ≤ c.dmax ∧ c.holdKpa ≤ c.releaseKpa then some { y with chan := y.chan.set ch c } else none) ∧
    (within unitTuneRange → y.writeAll (.unit (.num (unitNum u))) l = some { y with unit := y.unit.set u v }) ∧
    (within devTuneRange → y.writeAll .device l =
      if d.downRpm ≤ d.upRpm ∧ d.downLoad ≤ d.upLoad then some { y with dev := d } else none) ∧
    (∀ n : Int, ¬ within chanTuneRange ∨ n < 1 ∨ 4 < n → y.writeAll (.chan (.num n)) l = none) ∧
    (∀ n : Int, ¬ within unitTuneRange ∨ n < 1 ∨ 2 < n → y.writeAll (.unit (.num n)) l = none) ∧
    (¬ within devTuneRange → y.writeAll .device l = none) := by
  intro within c v d
  refine ⟨fun h => ?_, Tuning.writeAll_unit u, fun h => ?_, fun n h => ?_, fun n h => ?_,
    Tuning.writeAll_of_not_within (sc := .device)⟩
  · rw [Tuning.writeAll_chan ch h]
    simp only [ChanTune.pairsOk, decide_eq_true_iff, c]
  · rw [Tuning.writeAll_device h]
    simp only [DevTune.pairsOk, decide_eq_true_iff, d]
  · exact h.elim (Tuning.writeAll_of_not_within (sc := .chan _)) Tuning.writeAll_chan_beyond
  · exact h.elim (Tuning.writeAll_of_not_within (sc := .unit _)) Tuning.writeAll_unit_beyond

end Sys2Proof.Machine
end

section
/-! Proofs about LAYW (R4): what each item writes, within which ranges, and that nothing else is written. -/

namespace Sys2Proof.Machine

/-! ### Readers of fields, on the fields they read -/

theorem ite_some_bind {α β : Type} (p : Prop) [Decidable p] (x : α) (f : α → Option β) :
    (if p then some x else none).bind f = if p then f x else none := by
  split <;> rfl

theorem within?_num (lo hi : Nat) (v : Int) :
    within? lo hi (.num v) = if (lo : Int) ≤ v ∧ v ≤ hi then some v.toNat else none := rfl

theorem withinOr?_num (lo hi d : Nat) (v : Int) : withinOr? lo hi d (.num v) = within? lo hi (.num v) := if_neg nofun

theorem withinOr?_absent (lo hi d : Nat) : withinOr? lo hi d .absent = some d := if_pos rfl

theorem dir?_dirWord (d : Dir) : dir? (.word (dirWord d)) = some d := by cases d <;> rfl

theorem dir?_shape {f : Field} {d : Dir} (h : dir? f = some d) : f = .word (dirWord d) := by
  unfold dir? at h
  split at h <;> cases h <;> rfl

theorem pol?_polWord (p : Polarity) : pol? (.word (polWord p)) = some p := by cases p <;> rfl

theorem yesNo?_yesNo (b : Bool) : yesNo? (yesNo b) = some b := by cases b <;> rfl

theorem yesNo?_shape {f : Field} {b : Bool} (h : yesNo? f = some b) : f = yesNo b := by
  unfold yesNo? at h
  split at h <;> cases h <;> rfl

theorem abcdOr0?_orZero (a : Option LineABCD) : abcdOr0? (orZero abcdWord a) = some a := by
  cases a with
  | none => rfl
  | some x => cases x <;> rfl

theorem abOr0?_orZero (a : Option LineAB) : abOr0? (orZero abWord a) = some a := by
  cases a with
  | none => rfl
  | some x => cases x <;> rfl

theorem liftAngle?_elim (a : Option Int) : liftAngle? (a.elim .absent .num) =
    if 0 ≤ a.getD 0 ∧ a.getD 0 ≤ 11519 then some (a.map Int.toNat) else none := by
  cases a with
  | none => rfl
  | some v =>
    by_cases h : 0 ≤ v ∧ v ≤ 11519 <;> simp [liftAngle?, within?, h]

theorem edgePairs?_flatMap (es : List (Int × Polarity)) :
    edgePairs? (es.flatMap fun e => [.num e.1, .word (polWord e.2)]) =
      if ∀ e ∈ es, 0 ≤ e.1 ∧ e.1 ≤ 11519 then some (es.map fun e => ⟨e.1.toNat, e.2⟩) else none := by
  induction es with
  | nil => rfl
  | cons e es ih =>
    simp only [List.flatMap_cons, List.cons_append, List.nil_append, edgePairs?, ih, within?_num, pol?_polWord,
      Option.bind_eq_bind, Option.bind_some, ite_some_bind, List.forall_mem_cons, Nat.cast_ofNat, Nat.cast_zero]
    simp only [ite_and]
    rfl

theorem LiftItem.anglesOk_iff (i : LiftItem) : i.anglesOk = true ↔
    i.driver = none ∧ i.sense = none ∨ i.decision ≠ none ∧ i.windowOpen ≠ none ∧ i.windowClose ≠ none := by
  simp only [LiftItem.anglesOk, Bool.or_eq_true, Bool.and_eq_true, Option.isNone_iff_eq_none, Option.isSome_iff_ne_none,
    and_assoc]

/-! ### The seven items -/

section
variable (l : Layout) (ch : Chan)

theorem laywWrite_wheel (p m g f x : Int) : laywWrite l [.word .WHEEL, .num p, .num m, .num g, .num f, .num x] =
    if 12 ≤ p ∧ p ≤ 60 ∧ 1 ≤ m ∧ m ≤ 2 ∧ 12 ≤ g ∧ g ≤ 28 ∧ 0 ≤ f ∧ f ≤ 5759 ∧ 20 ≤ x ∧ x ≤ 1000 then
      some { l with wheel := some ⟨p.toNat, m.toNat, g.toNat, f.toNat, x.toNat⟩ } else none := by
  simp only [laywWrite, within?_num, withinOr?_num, Option.bind_eq_bind, ite_some_bind, Nat.cast_ofNat, Nat.cast_zero,
    Nat.cast_one]
  simp only [ite_and]
  rfl

theorem laywWrite_wheel_absent (p m g f : Int) : laywWrite l [.word .WHEEL, .num p, .num m, .num g, .num f, .absent] =
    laywWrite l [.word .WHEEL, .num p, .num m, .num g, .num f, .num 200] := by
  simp only [laywWrite, withinOr?_absent]
  rfl

theorem laywWrite_cyl (x : Int) : laywWrite l [.word .CYL, .num x] =
    if 0 ≤ x ∧ x ≤ 11519 then some { l with cyl := some x.toNat } else none := by
  simp only [laywWrite, within?_num, Option.bind_eq_bind, ite_some_bind, Nat.cast_ofNat, Nat.cast_zero]
  rfl

theorem laywWrite_cam (d : Dir) (r h : Int) (b : Bool) :
    laywWrite l [.word .CAM, .num (chanNum ch), .word (dirWord d), .num r, .num h, yesNo b] =
      if 0 ≤ r ∧ r ≤ 960 ∧ 16 ≤ h ∧ h ≤ 480 then
        some { l with cam := l.cam.set ch (some ⟨d, r.toNat, h.toNat, b⟩) } else none := by
  simp only [laywWrite, chan?_chanNum, dir?_dirWord, yesNo?_yesNo, within?_num, Option.bind_eq_bind, Option.bind_some,
    ite_some_bind, Nat.cast_ofNat, Nat.cast_zero]
  simp only [ite_and]
  rfl

theorem laywWrite_edge (es : List (Int × Polarity)) :
    laywWrite l (.word .EDGE :: .num (chanNum ch) :: .num es.length ::
        es.flatMap fun e => [.num e.1, .word (polWord e.2)]) =
      if 1 ≤ es.length ∧ es.length ≤ 6 ∧ ∀ e ∈ es, 0 ≤ e.1 ∧ e.1 ≤ 11519 then
        some { l with edges := l.edges.set ch (es.map fun e => ⟨e.1.toNat, e.2⟩) } else none := by
  simp only [laywWrite, chan?_chanNum, edgePairs?_flatMap, within?_num, Option.bind_eq_bind, Option.bind_some,
    ite_some_bind, Nat.cast_le]
  simp only [ite_and]
  rfl

theorem laywWrite_bind (b : BindItem) : laywWrite l (.word .BIND :: .num (chanNum ch) :: bindFields b) =
    some { l with bind := l.bind.set ch b } := by
  simp only [laywWrite, bindFields, chan?_chanNum, abcdOr0?_orZero, Option.bind_eq_bind, Option.bind_some]
  rfl

theorem laywWrite_lift (u : LiftUnit) (d n : Option LineAB) (a b e : Option Int) :
    laywWrite l [.word .LIFT, .num (unitNum u), orZero abWord d, orZero abWord n, a.elim .absent .num,
        b.elim .absent .num, e.elim .absent .num] =
      if (d = none ∧ n = none ∨ a ≠ none ∧ b ≠ none ∧ e ≠ none) ∧
          (∀ x ∈ [a, b, e], 0 ≤ x.getD 0 ∧ x.getD 0 ≤ 11519) then
        some { l with lift := l.lift.set u ⟨d, n, a.map Int.toNat, b.map Int.toNat, e.map Int.toNat⟩ } else none := by
  have hne (x : Option Int) : x.map Int.toNat ≠ none ↔ x ≠ none := not_congr Option.map_eq_none_iff
  simp only [laywWrite, unit?_unitNum, abOr0?_orZero, liftAngle?_elim, Option.bind_eq_bind, Option.bind_some,
    ite_some_bind, LiftItem.anglesOk_iff, hne]
  have hcond : (d = none ∧ n = none ∨ a ≠ none ∧ b ≠ none ∧ e ≠ none) ∧
      (∀ x ∈ [a, b, e], 0 ≤ x.getD 0 ∧ x.getD 0 ≤ 11519) ↔
        (0 ≤ a.getD 0 ∧ a.getD 0 ≤ 11519) ∧ (0 ≤ b.getD 0 ∧ b.getD 0 ≤ 11519) ∧ (0 ≤ e.getD 0 ∧ e.getD 0 ≤ 11519) ∧
          (d = none ∧ n = none ∨ a ≠ none ∧ b ≠ none ∧ e ≠ none) := by
    rw [and_comm]
    simp only [List.forall_mem_cons, List.not_mem_nil, false_implies, implies_true, and_true, and_assoc]
  simp only [hcond, ite_and]
  rfl

theorem laywWrite_pwm (o : LineABCD) (p : Int) : laywWrite l [.word .PWM, .word (abcdWord o), .num p] =
    if 2000 ≤ p ∧ p ≤ 10000 then some { l with pwm := l.pwm.set o p.toNat } else none := by
  simp only [laywWrite, abcd?_abcdWord, withinOr?_num, within?_num, Option.bind_eq_bind, Option.bind_some,
    ite_some_bind, Nat.cast_ofNat]
  rfl

theorem laywWrite_pwm_absent (o : LineABCD) : laywWrite l [.word .PWM, .word (abcdWord o), .absent] =
    some { l with pwm := l.pwm.set o 4000 } := by
  simp only [laywWrite, abcd?_abcdWord, withinOr?_absent, Option.bind_eq_bind, Option.bind_some]
  rfl

/-! ### Instances outside the item's range -/

theorem laywWrite_of_no_chan {k : Token} (hk : k ∈ [Token.CAM, .EDGE, .BIND]) {f : Field} (hf : chan? f = none)
    (rest : List Field) : laywWrite l (.word k :: f :: rest) = none := by
  unfold laywWrite
  split <;> simp_all

theorem laywWrite_of_no_unit {f : Field} (hf : unit? f = none) (rest : List Field) :
    laywWrite l (.word .LIFT :: f :: rest) = none := by
  unfold laywWrite
  split <;> simp_all

theorem laywWrite_of_no_out {f : Field} (hf : abcd? f = none) (rest : List Field) :
    laywWrite l (.word .PWM :: f :: rest) = none := by
  unfold laywWrite
  split <;> simp_all

end

/-! ### Nothing else is written -/

theorem laywWrite_shape {l l' : Layout} {fields : List Field} (hf : laywFormat fields = true)
    (h : laywWrite l fields = some l') :
    (∃ (p m g f : Int) (x : Option Int),
        fields = [.word .WHEEL, .num p, .num m, .num g, .num f, x.elim .absent .num]) ∨
      (∃ x : Int, fields = [.word .CYL, .num x]) ∨
      (∃ (ch : Chan) (d : Dir) (r h : Int) (b : Bool),
        fields = [.word .CAM, .num (chanNum ch), .word (dirWord d), .num r, .num h, yesNo b]) ∨
      (∃ (ch : Chan) (es : List (Int × Polarity)), fields =
        .word .EDGE :: .num (chanNum ch) :: .num es.length :: es.flatMap fun e => [.num e.1, .word (polWord e.2)]) ∨
      (∃ (ch : Chan) (b : BindItem), fields = .word .BIND :: .num (chanNum ch) :: bindFields b) ∨
      (∃ (u : LiftUnit) (d n : Option LineAB) (a b e : Option Int), fields = [.word .LIFT, .num (unitNum u),
        orZero abWord d, orZero abWord n, a.elim .absent .num, b.elim .absent .num, e.elim .absent .num]) ∨
      ∃ (o : LineABCD) (p : Option Int), fields = [.word .PWM, .word (abcdWord o), p.elim .absent .num] := by
  unfold laywWrite at h
  split at h
  case h_8 => cases h
  all_goals simp only [Option.bind_eq_bind, Option.bind_eq_some_iff] at h
  · obtain ⟨_, hp, _, hm, _, hg, _, hn, _, hx, -⟩ := h
    obtain ⟨p, rfl, -⟩ := within?_shape hp
    obtain ⟨m, rfl, -⟩ := within?_shape hm
    obtain ⟨g, rfl, -⟩ := within?_shape hg
    obtain ⟨n, rfl, -⟩ := within?_shape hn
    obtain ⟨x, rfl⟩ := withinOr?_shape hx
    exact .inl ⟨p, m, g, n, x, rfl⟩
  · obtain ⟨_, hx, -⟩ := h
    obtain ⟨x, rfl, -⟩ := within?_shape hx
    exact .inr (.inl ⟨x, rfl⟩)
  · obtain ⟨ch, hch, d, hd, _, hr, _, hh, b, hb, -⟩ := h
    obtain ⟨r, rfl, -⟩ := within?_shape hr
    obtain ⟨h, rfl, -⟩ := within?_shape hh
    obtain ⟨rfl, rfl, rfl⟩ : _ ∧ _ ∧ _ := ⟨chan?_shape hch, dir?_shape hd, yesNo?_shape hb⟩
    exact .inr (.inr (.inl ⟨ch, d, r, h, b, rfl⟩))
  · obtain ⟨ch, hch, _, hn, _, hes, -⟩ := h
    obtain ⟨n, rfl, -⟩ := within?_shape hn
    obtain ⟨es, rfl⟩ := edgePairs?_shape hes
    obtain rfl := chan?_shape hch
    obtain ⟨hlen, -⟩ := (laywFormat_edge _ _ _).mp hf
    have hcount : n = es.length := by
      simp only [List.length_flatMap, List.length_cons, List.length_nil, List.map_const', List.sum_replicate,
        smul_eq_mul] at hlen
      omega
    exact .inr (.inr (.inr (.inl ⟨ch, es, by rw [hcount]⟩)))
  · obtain ⟨ch, hch, c, hc, d, hd, -⟩ := h
    obtain ⟨rfl, rfl, rfl⟩ : _ ∧ _ ∧ _ := ⟨chan?_shape hch, abcdOr0?_shape hc, abcdOr0?_shape hd⟩
    exact .inr (.inr (.inr (.inr (.inl ⟨ch, ⟨c, d⟩, rfl⟩))))
  · obtain ⟨u, hu, d, hd, n, hn, _, ha, _, hb, _, hc, -⟩ := h
    obtain ⟨rfl, rfl, rfl⟩ : _ ∧ _ ∧ _ := ⟨unit?_shape hu, abOr0?_shape hd, abOr0?_shape hn⟩
    obtain ⟨a, rfl⟩ := liftAngle?_shape ha
    obtain ⟨b, rfl⟩ := liftAngle?_shape hb
    obtain ⟨c, rfl⟩ := liftAngle?_shape hc
    exact .inr (.inr (.inr (.inr (.inr (.inl ⟨u, d, n, a, b, c, rfl⟩)))))
  · obtain ⟨o, ho, _, hp, -⟩ := h
    obtain rfl := abcd?_shape ho
    obtain ⟨p, rfl⟩ := withinOr?_shape hp
    exact .inr (.inr (.inr (.inr (.inr (.inr ⟨o, p, rfl⟩)))))

end Sys2Proof.Machine
end

section
/-! Proofs about MAPW (R98, R99, R101): what each part writes, and when a write makes the map available. -/

namespace Sys2Proof.Machine

/-! ### Lists of values -/

theorem mapM_within? (lo hi : Nat) (vs : List Int) : allWithin? lo hi (vs.map .num) =
    if ∀ x ∈ vs, (lo : Int) ≤ x ∧ x ≤ hi then some (vs.map Int.toNat) else none := by
  rw [allWithin?]
  induction vs with
  | nil => rfl
  | cons v vs ih =>
    rw [List.map_cons, List.mapM_cons, ih, within?_num]
    simp only [Option.bind_eq_bind, ite_some_bind, List.forall_mem_cons]
    simp only [ite_and]
    rfl

theorem mapM_intWithin? (lo hi : Int) (vs : List Int) : (vs.map Field.num).mapM (intWithin? lo hi) =
    if ∀ x ∈ vs, lo ≤ x ∧ x ≤ hi then some vs else none := by
  induction vs with
  | nil => rfl
  | cons v vs ih =>
    rw [List.map_cons, List.mapM_cons, ih, intWithin?]
    simp only [Option.bind_eq_bind, ite_some_bind, List.forall_mem_cons]
    simp only [ite_and]
    rfl

theorem ascending_iff (l : List Int) : ascending l = true ↔ l.Pairwise (· < ·) := by
  induction l with
  | nil => simp [ascending]
  | cons a l ih =>
    cases l with
    | nil => simp [ascending]
    | cons b l =>
      rw [ascending, Bool.and_eq_true, decide_eq_true_iff, ih, List.pairwise_cons (a := a)]
      refine ⟨fun ⟨hab, hp⟩ => ⟨fun x hx => ?_, hp⟩, fun ⟨ha, hp⟩ => ⟨ha b List.mem_cons_self, hp⟩⟩
      rcases List.mem_cons.mp hx with rfl | hx
      · exact hab
      · exact lt_trans hab (List.rel_of_pairwise_cons hp hx)

/-- Values that are not negative come back as they were. -/
theorem map_toNat_ofNat {vs : List Int} (h : ∀ x ∈ vs, 0 ≤ x) : (vs.map Int.toNat).map Int.ofNat = vs := by
  rw [List.map_map]
  exact (List.map_congr_left fun x hx => Int.toNat_of_nonneg (h x hx)).trans (List.map_id vs)

theorem PhaseMap.settle_eq (m : PhaseMap) : m.settle = { m with available := m.available || decide (m.clearMarks = 0) } := by
  unfold PhaseMap.settle
  by_cases h : m.clearMarks = 0
  · rw [if_pos h, decide_eq_true h, Bool.or_true]
  · rw [if_neg h, decide_eq_false h, Bool.or_false]

/-! ### The parts of a map -/

section
variable (m : PhaseMap)

/-- The map with values written into a row from a column on, their marks set. -/
def PhaseMap.putRow (r c : Int) (vs : List Nat) : PhaseMap :=
  { m with
    data := { m.data with cells := m.data.cells.modify (r.toNat - 1) fun l => overwrite l (c.toNat - 1) vs }
    cellMarks := m.cellMarks.modify (r.toNat - 1) fun l => overwrite l (c.toNat - 1) (vs.map fun _ => true) }

theorem PhaseMap.writePart_row (r c : Int) (vs : List Int) :
    m.writePart (.word .ROW :: .num r :: .num c :: vs.map .num) =
      if 1 ≤ r ∧ r ≤ 16 ∧ 1 ≤ c ∧ c ≤ 12 ∧ c + vs.length ≤ 13 ∧ ∀ x ∈ vs, 0 ≤ x ∧ x ≤ 960 then
        some (m.putRow r c (vs.map Int.toNat)) else none := by
  have hcond : (1 ≤ r ∧ r ≤ 16 ∧ 1 ≤ c ∧ c ≤ 12 ∧ c + vs.length ≤ 13 ∧ ∀ x ∈ vs, 0 ≤ x ∧ x ≤ 960) ↔
      (1 ≤ r ∧ r ≤ 16) ∧ (1 ≤ c ∧ c ≤ 12) ∧ (∀ x ∈ vs, 0 ≤ x ∧ x ≤ 960) ∧
        ¬ 12 < c.toNat + (vs.map Int.toNat).length - 1 := by
    rw [List.length_map]
    constructor
    · rintro ⟨h1, h2, h3, h4, h5, h6⟩
      exact ⟨⟨h1, h2⟩, ⟨h3, h4⟩, h6, by omega⟩
    · rintro ⟨⟨h1, h2⟩, ⟨h3, h4⟩, h6, h5⟩
      exact ⟨h1, h2, h3, h4, by omega, h6⟩
  simp only [PhaseMap.writePart, within?_num, mapM_within?, Option.bind_eq_bind, ite_some_bind, Nat.cast_ofNat,
    Nat.cast_zero, Nat.cast_one, hcond]
  simp only [ite_and, ite_not]
  rfl

theorem PhaseMap.writePart_rpm (vs : List Int) : m.writePart (.word .RPM :: vs.map .num) =
    if (∀ x ∈ vs, 0 ≤ x ∧ x ≤ 18000) ∧ vs.Pairwise (· < ·) then
      some { m with data := { m.data with rpm := vs.map Int.toNat }, rpmMark := true } else none := by
  simp only [PhaseMap.writePart, mapM_within?, Option.bind_eq_bind, ite_some_bind, Nat.cast_ofNat, Nat.cast_zero,
    ascending_iff, ite_and]
  refine ite_congr rfl (fun h => ?_) fun _ => rfl
  simp only [map_toNat_ofNat fun x hx => (h x hx).1]

theorem PhaseMap.writePart_load (vs : List Int) : m.writePart (.word .LOAD :: vs.map .num) =
    if (∀ x ∈ vs, 0 ≤ x ∧ x ≤ 1000) ∧ vs.Pairwise (· < ·) then
      some { m with data := { m.data with load := vs.map Int.toNat }, loadMark := true } else none := by
  simp only [PhaseMap.writePart, mapM_within?, Option.bind_eq_bind, ite_some_bind, Nat.cast_ofNat, Nat.cast_zero,
    ascending_iff, ite_and]
  refine ite_congr rfl (fun h => ?_) fun _ => rfl
  simp only [map_toNat_ofNat fun x hx => (h x hx).1]

theorem PhaseMap.writePart_derate (ts fs : List Int) (h : ts.length = 8) :
    m.writePart (.word .DERATE :: (ts ++ fs).map .num) =
      if (∀ x ∈ ts, -40 ≤ x ∧ x ≤ 150) ∧ ts.Pairwise (· < ·) ∧ ∀ x ∈ fs, 0 ≤ x ∧ x ≤ 1000 then
        some { m with data := { m.data with temps := ts, factors := fs.map Int.toNat }, derateMark := true }
      else none := by
  have htake : ((ts ++ fs).map Field.num).take 8 = ts.map .num := by
    rw [← List.map_take, List.take_left' h]
  have hdrop : ((ts ++ fs).map Field.num).drop 8 = fs.map .num := by
    rw [← List.map_drop, List.drop_left' h]
  have hcond : (∀ x ∈ ts, -40 ≤ x ∧ x ≤ 150) ∧ ts.Pairwise (· < ·) ∧ (∀ x ∈ fs, 0 ≤ x ∧ x ≤ 1000) ↔
      (∀ x ∈ ts, -40 ≤ x ∧ x ≤ 150) ∧ (∀ x ∈ fs, 0 ≤ x ∧ x ≤ 1000) ∧ ts.Pairwise (· < ·) :=
    and_congr_right' and_comm
  simp only [PhaseMap.writePart, htake, hdrop, mapM_within?, mapM_intWithin?, Option.bind_eq_bind, ite_some_bind,
    Nat.cast_ofNat, Nat.cast_zero, ascending_iff, hcond]
  simp only [ite_and]

end

/-! ### The map of a channel -/

section
variable (b : Tbm) (ch : Chan)

/-- The maps with one channel's map replaced and judged for availability. -/
def Tbm.putMap (m : PhaseMap) : Tbm :=
  { b with maps := b.maps.set ch { m with available := m.available || decide (m.clearMarks = 0) } }

theorem Tbm.writeMap_chan (rest : List Field) : b.writeMap (.num (chanNum ch)) rest =
    ((b.maps.get ch).writePart rest).map (b.putMap ch) := by
  rw [Tbm.writeMap, chan?_chanNum]
  simp only [Option.bind_eq_bind, Option.bind_some, PhaseMap.settle_eq]
  cases (b.maps.get ch).writePart rest <;> rfl

theorem Tbm.writeMap_of_beyond {n : Int} (rest : List Field) (h : n < 1 ∨ 4 < n) : b.writeMap (.num n) rest = none := by
  rw [Tbm.writeMap, chan?_of_beyond (by omega)]
  rfl

end

theorem ite_some_map {α β : Type} (p : Prop) [Decidable p] (x : α) (f : α → β) :
    (if p then some x else none).map f = if p then some (f x) else none := by
  split <;> rfl

theorem State.savingMap_chan (s : State) (ch : Chan) :
    s.savingMap (.num (chanNum ch)) = s.saving (mapRegion ch) := by
  rw [State.savingMap, chan?_chanNum]

theorem State.savingMap_of_beyond (s : State) {n : Int} (h : n < 1 ∨ 4 < n) : s.savingMap (.num n) = false := by
  rw [State.savingMap, chan?_of_beyond (by omega)]

end Sys2Proof.Machine
end

section
/-! What LAYW, TUNW and MAPW write (R2, R4, R13 to R15, R98, R99, R101). -/

namespace Sys2Proof.Machine

/-! ### The requests -/

section
variable {s : State} {fields : List Field}

theorem State.doLayw_spec : (laywFormat fields = false → s.doLayw fields = s.answer .LAYW .format) ∧
    (laywFormat fields = true → s.smc.mode ≠ .standby → s.doLayw fields = s.answer .LAYW .mode) ∧
    (laywFormat fields = true → s.smc.mode = .standby → s.saving .layout = true →
      s.doLayw fields = s.answer .LAYW .busy) ∧
    (laywFormat fields = true → s.smc.mode = .standby → s.saving .layout = false →
      laywWrite s.tbm.layout fields = none → s.doLayw fields = s.answer .LAYW .range) ∧
    (∀ l, laywFormat fields = true → s.smc.mode = .standby → s.saving .layout = false →
      laywWrite s.tbm.layout fields = some l → s.doLayw fields =
        State.answer { s with tbm := { s.tbm with layout := l, layoutOrigin := .edited } } .LAYW .ok) := by
  refine ⟨fun hf => ?_, fun hf hm => ?_, fun hf hm hs => ?_, fun hf hm hs hw => ?_, fun l hf hm hs hw => ?_⟩ <;>
    simp [State.doLayw, *]

theorem State.doTunw_of_format (h : ∀ sc rest, readScope fields = some (sc, rest) → tunwPairs? sc rest = none) :
    s.doTunw fields = s.answer .TUNW .format := by
  have hnone : ((readScope fields).bind fun r => (tunwPairs? r.1 r.2).map fun l => (r.1, l)) = none := by
    cases hr : readScope fields with
    | none => rfl
    | some r => rw [Option.bind_some, h r.1 r.2 hr, Option.map_none]
  rw [State.doTunw, hnone]

theorem State.doTunw_of_pairs {sc : TuneScope} {rest : List Field} {l : List (Token × Int)}
    (hr : readScope fields = some (sc, rest)) (hl : tunwPairs? sc rest = some l) :
    (s.saving .tuning = true → s.doTunw fields = s.answer .TUNW .busy) ∧
    (s.saving .tuning = false → s.tbm.tuning.writeAll sc l = none → s.doTunw fields = s.answer .TUNW .range) ∧
    (∀ y, s.saving .tuning = false → s.tbm.tuning.writeAll sc l = some y → s.doTunw fields =
      State.answer { s with tbm := { s.tbm with tuning := y, tuningOrigin := .edited } } .TUNW .ok) := by
  refine ⟨fun hs => ?_, fun hs hw => ?_, fun y hs hw => ?_⟩ <;> simp [State.doTunw, *]

theorem State.doMapw_of_format (h : mapwFormat fields = false) : s.doMapw fields = s.answer .MAPW .format := by
  cases fields <;> simp [State.doMapw, h]

theorem State.doMapw_of_fields {ch : Field} {rest : List Field} (h : mapwFormat (ch :: rest) = true) :
    (s.savingMap ch = true → s.doMapw (ch :: rest) = s.answer .MAPW .busy) ∧
    (s.savingMap ch = false → s.tbm.writeMap ch rest = none → s.doMapw (ch :: rest) = s.answer .MAPW .range) ∧
    (∀ y, s.savingMap ch = false → s.tbm.writeMap ch rest = some y →
      s.doMapw (ch :: rest) = State.answer { s with tbm := y } .MAPW .ok) := by
  refine ⟨fun hs => ?_, fun hs hw => ?_, fun y hs hw => ?_⟩ <;> simp [State.doMapw, *]

end

/-! ### The obligation -/

/-- Settles O59: the requests by their checks, then the form each accepts, then what each writes. -/
theorem tableWritesReplaceWhatTheyName : Obligations.TableWritesReplaceWhatTheyName := by
  refine ⟨fun s t fields => ⟨fun hb => ?_, fun hb => ?_, fun hb => ?_⟩, fun fields => ?_, fun x lo hi f => ?_,
    fun l ch u o => ?_, fun l fields hf hshape => ?_, fun y ch u l => ?_, fun s n => ?_, fun b ch => ?_⟩
  · rw [exec_of_begins (c := .layw fields) (act := fun s => s.doLayw fields) rfl hb]
    simp only [Host.Outcome.next.injEq]
    exact State.doLayw_spec
  · rw [exec_of_begins (c := .tunw fields) (act := fun s => s.doTunw fields) rfl hb]
    simp only [Host.Outcome.next.injEq]
    exact ⟨State.doTunw_of_format, fun sc rest l hr hl => State.doTunw_of_pairs hr hl⟩
  · rw [exec_of_begins (c := .mapw fields) (act := fun s => s.doMapw fields) rfl hb]
    simp only [Host.Outcome.next.injEq]
    refine ⟨State.doMapw_of_format, ?_⟩
    rintro ch rest rfl hf
    exact State.doMapw_of_fields hf
  · exact ⟨laywFormat_iff fields, mapwFormat_iff fields, readScope_eq_some_iff fields,
      fun sc l => tunwPairs?_eq_some_iff sc fields l⟩
  · exact ⟨rfl, rfl, rfl, chanTuneRange_eq_some_iff x lo hi, unitTuneRange_eq_some_iff x lo hi,
      devTuneRange_eq_some_iff x lo hi⟩
  · refine ⟨laywWrite_wheel l, laywWrite_wheel_absent l, laywWrite_cyl l, laywWrite_cam l ch, laywWrite_edge l ch,
      laywWrite_bind l ch, laywWrite_lift l u, laywWrite_pwm l o, laywWrite_pwm_absent l o,
      fun n rest => ⟨fun hn => ?_, fun hn => ?_, laywWrite_of_no_out l rfl rest⟩⟩
    · have hc : chan? (.num n) = none := chan?_of_beyond (by omega)
      exact ⟨laywWrite_of_no_chan l (by simp) hc rest, laywWrite_of_no_chan l (by simp) hc rest,
        laywWrite_of_no_chan l (by simp) hc rest⟩
    · exact laywWrite_of_no_unit l (unit?_of_beyond (by omega)) rest
  · exact Option.eq_none_iff_forall_ne_some.mpr fun l' hw => hshape (laywWrite_shape hf hw)
  · obtain ⟨hchan, hunit, hdev, hchanNone, hunitNone, hdevNone⟩ := Tuning.writeAll_spec y ch u l
    exact ⟨hchan, hunit, hdev, hchanNone, hunitNone, hdevNone, fun x n a b e =>
      ⟨a.items_write x n, b.items_write x n, e.items_write x n⟩⟩
  · refine ⟨?_, s.savingMap_of_beyond⟩
    rintro ch rfl
    exact s.savingMap_chan ch
  · intro m write puts
    refine ⟨fun r c vs _ => ?_, fun vs => ?_, fun vs => ?_, fun ts fs h => ?_, fun n rest => b.writeMap_of_beyond rest⟩
    · refine (b.writeMap_chan ch _).trans ?_
      rw [PhaseMap.writePart_row, ite_some_map, PhaseMap.putRow, List.map_const']
      simp only [overwrite, List.length_replicate]
      rfl
    · refine (b.writeMap_chan ch _).trans ?_
      rw [PhaseMap.writePart_rpm, ite_some_map]
      rfl
    · refine (b.writeMap_chan ch _).trans ?_
      rw [PhaseMap.writePart_load, ite_some_map]
      rfl
    · refine (b.writeMap_chan ch _).trans ?_
      rw [PhaseMap.writePart_derate _ ts fs h, ite_some_map]
      rfl

end Sys2Proof.Machine
end

section
/-! Loops over the parts of the system, one part at a time: what a loop makes of one part, and what it sends. -/

namespace Sys2Proof.Machine

/-! ### What a loop makes of one part -/

/-- A part changed by its own turn of a loop alone stands after the loop as its turn left it. `P` is what the turns find:
each keeps it. -/
theorem forEach_at {ι α : Type} {f : State → ι → State} {get : State → α} {P : State → Prop} {R : α → α → Prop} {x : ι}
    (hkeep : ∀ q y, P q → P (f q y)) (hself : ∀ q, P q → R (get q) (get (f q x)))
    (hother : ∀ q y, y ≠ x → P q → get (f q y) = get q) {l : List ι} (hl : l.Nodup) (hx : x ∈ l) {s : State}
    (hs : P s) : R (get s) (get (forEach l f s)) := by
  have hrest (l : List ι) (hx : x ∉ l) (q : State) (hq : P q) : get (forEach l f q) = get q := by
    induction l generalizing q with
    | nil => rfl
    | cons y l ih =>
      rw [List.mem_cons, not_or] at hx
      have hstep : forEach (y :: l) f q = forEach l f (f q y) := rfl
      rw [hstep, ih hx.2 _ (hkeep q y hq), hother q y (Ne.symm hx.1) hq]
  induction l generalizing s with
  | nil => cases hx
  | cons y l ih =>
    rw [List.nodup_cons] at hl
    have hstep : forEach (y :: l) f s = forEach l f (f s y) := rfl
    rcases List.mem_cons.mp hx with rfl | hx
    · rw [hstep, hrest l hl.1 _ (hkeep s x hs)]
      exact hself s hs
    · have hne : y ≠ x := fun h => hl.1 (h ▸ hx)
      rw [hstep, ← hother s y hne hs]
      exact ih hl.2 hx (hkeep s y hs)

/-- What every turn of a loop keeps, the loop keeps. -/
theorem forEach_reads {ι α : Type} {f : State → ι → State} {get : State → α} (h : ∀ q y, get (f q y) = get q)
    (l : List ι) (s : State) : get (forEach l f s) = get s := by
  induction l generalizing s with
  | nil => rfl
  | cons y l ih => exact (ih (f s y)).trans (h s y)

theorem mem_allChans (ch : Chan) : ch ∈ allChans := by cases ch <;> simp [allChans]

theorem mem_allUnits (u : LiftUnit) : u ∈ allUnits := by cases u <;> simp [allUnits]

theorem mem_allABCD (o : LineABCD) : o ∈ allABCD := by cases o <;> simp [allABCD]

theorem mem_allAB (o : LineAB) : o ∈ allAB := by cases o <;> simp [allAB]

theorem allChans_nodup : allChans.Nodup := by decide

theorem allUnits_nodup : allUnits.Nodup := by decide

theorem allOuts_nodup : allOuts.Nodup := by decide

theorem allABCD_nodup : allABCD.Nodup := by decide

theorem allAB_nodup : allAB.Nodup := by decide

/-! ### What is sent -/

/-- Handovers are added to those on their way, each of a kind `p`, and none is taken. -/
def State.adds (p : Handover → Prop) (s t : State) : Prop := ∃ l, t.handovers = s.handovers ++ l ∧ ∀ h ∈ l, p h

section
variable {p : Handover → Prop} {s t q : State}

theorem State.adds_of_eq (h : t.handovers = s.handovers) : s.adds p t :=
  ⟨[], by rw [h, List.append_nil], fun _ hm => absurd hm List.not_mem_nil⟩

theorem State.adds.refl (s : State) : s.adds p s := State.adds_of_eq rfl

theorem State.adds.trans (h : s.adds p t) (h' : t.adds p q) : s.adds p q := by
  obtain ⟨l, hl, hp⟩ := h
  obtain ⟨m, hm, hp'⟩ := h'
  exact ⟨l ++ m, by rw [hm, hl, List.append_assoc], fun h hmem => (List.mem_append.mp hmem).elim (hp h) (hp' h)⟩

theorem State.adds_sends {l : List Handover} (h : ∀ x ∈ l, p x) : s.adds p (s.sends l) := ⟨l, rfl, h⟩

theorem State.adds_putChan {ch : Chan} {x : ChanRec} {l : List Handover} (h : ∀ x ∈ l, p x) :
    s.adds p (s.putChan ch x l) := ⟨l, rfl, h⟩

theorem State.adds_putUnit {u : LiftUnit} {x : UnitRec} {l : List Handover} (h : ∀ x ∈ l, p x) :
    s.adds p (s.putUnit u x l) := ⟨l, rfl, h⟩

theorem State.adds_putOcv {o : LineABCD} {x : OcvRec} {l : List Handover} (h : ∀ x ∈ l, p x) :
    s.adds p (s.putOcv o x l) := ⟨l, rfl, h⟩

theorem State.adds_putLs {o : LineAB} {x : LsRec} {l : List Handover} (h : ∀ x ∈ l, p x) :
    s.adds p (s.putLs o x l) := ⟨l, rfl, h⟩

theorem State.adds.mem (h : s.adds p t) {x : Handover} (hx : x ∈ s.handovers) : x ∈ t.handovers := by
  obtain ⟨l, hl, -⟩ := h
  rw [hl]
  exact List.mem_append_left _ hx

/-- What is on its way was before or is of the kind. -/
theorem State.adds.cases (h : s.adds p t) {x : Handover} (hx : x ∈ t.handovers) : x ∈ s.handovers ∨ p x := by
  obtain ⟨l, hl, hp⟩ := h
  rw [hl, List.mem_append] at hx
  exact hx.imp_right (hp x)

theorem State.adds.mono {p' : Handover → Prop} (hp : ∀ x, p x → p' x) (h : s.adds p t) : s.adds p' t := by
  obtain ⟨l, hl, hpl⟩ := h
  exact ⟨l, hl, fun x hx => hp x (hpl x hx)⟩

theorem State.forEach_adds {ι : Type} {f : State → ι → State} (h : ∀ q y, State.adds p q (f q y)) (l : List ι) (s : State) :
    s.adds p (forEach l f s) := by
  induction l generalizing s with
  | nil => exact State.adds.refl s
  | cons y l ih => exact (h s y).trans (ih (f s y))

end

end Sys2Proof.Machine
end

section
/-! Proofs about leaving RUN (R44, R72, R74, R104, R108, R121, R124, R175; log 23, 45): what each block makes of its record,
and that nothing of the ended lock stays on its way. -/

namespace Sys2Proof.Machine

/-- Not of a lock that has ended. -/
def Handover.free (h : Handover) : Prop := h.ofLock = false

theorem forall_free_nil : ∀ h ∈ ([] : List Handover), h.free := fun _ hm => absurd hm List.not_mem_nil

section
variable (s : State)

theorem State.dutyNews_free (ch : Chan) (duty : Nat) (immediate : Bool) : ∀ h ∈ s.dutyNews ch duty immediate, h.free := by
  intro h hm
  obtain ⟨o, -, rfl⟩ := List.mem_map.mp hm
  rfl

theorem State.chanNews_free (ch : Chan) (new old : ChanState) (cause : ChanCause) (holds : Option HoldCauses) :
    ∀ h ∈ s.chanNews ch new old cause holds, h.free := by
  have hlock : ∀ h ∈ (if (old = .lockout) ↔ (new = .lockout) then ([] : List Handover) else [.lockoutChange]), h.free := by
    split
    · exact forall_free_nil
    · rintro h hm
      rw [List.mem_singleton.mp hm]
      rfl
  intro h hm
  rcases List.mem_append.mp hm with hm | hm
  · rcases List.mem_append.mp hm with hm | hm
    · rw [List.mem_singleton.mp hm]
      rfl
    · obtain ⟨o, -, rfl⟩ := List.mem_map.mp hm
      rfl
  · exact hlock h hm

theorem State.solenoidNews_free (u : LiftUnit) (on : Bool) : ∀ h ∈ s.solenoidNews u on, h.free := by
  intro h hm
  obtain ⟨o, -, rfl⟩ := List.mem_map.mp hm
  rfl

theorem State.freedNews_free (u : LiftUnit) : ∀ h ∈ s.freedNews u, h.free := by
  intro h hm
  obtain ⟨-, hm⟩ := List.mem_ite_nil_right.mp hm
  rw [List.mem_singleton.mp hm]
  rfl

theorem State.liftNews_free (u : LiftUnit) (new old : LiftState) (cause : LiftCause) :
    ∀ h ∈ s.liftNews u new old cause, h.free := by
  intro h hm
  rcases List.mem_append.mp hm with hm | hm
  · obtain ⟨o, -, rfl⟩ := List.mem_map.mp hm
    rfl
  · obtain ⟨-, hm⟩ := List.mem_ite_nil_right.mp hm
    rw [List.mem_singleton.mp hm]
    rfl

end

/-! ### The channels (R74, R85, R93) -/

/-- A channel's record as the part leaves RUN, with `expiry` for the park timer. -/
def ChanRec.left (r : ChanRec) (expiry : Time) : ChanRec :=
  if r.state = .releasing ∨ r.state = .tracking ∨ r.state = .holding then
    { r with
      state := .parking, duty := 0, holds := .empty, stuck := { r.stuck with watching := false }, parkCount := 0
      timer := some (.park, expiry) }
  else if r.state = .driveTest then { r with state := .parked, duty := 0, timer := none }
  else r

section
variable (s : State)

theorem State.phcLeaveChan_eq (ch : Chan) : ∃ l, s.phcLeaveChan ch =
    s.putChan ch ((s.phc.chans.get ch).left (s.now + ms (s.tune ch).parkMs)) l ∧ ∀ h ∈ l, h.free := by
  unfold State.phcLeaveChan
  rw [State.parkIfDriving_eq]
  by_cases hd : (s.phc.chans.get ch).state = .releasing ∨ (s.phc.chans.get ch).state = .tracking ∨
      (s.phc.chans.get ch).state = .holding
  · rw [if_pos hd, State.park_eq, State.endTest_of_ne (by rw [State.putChan_get]; simp)]
    refine ⟨_, by rw [ChanRec.left, if_pos hd], fun h hm => ?_⟩
    exact (List.mem_append.mp hm).elim (s.dutyNews_free ch 0 true h) (s.chanNews_free ch _ _ _ _ h)
  · rw [if_neg hd]
    by_cases ht : (s.phc.chans.get ch).state = .driveTest
    · rw [State.endTest_of_driveTest ht]
      refine ⟨_, by rw [ChanRec.left, if_neg hd, if_pos ht], fun h hm => ?_⟩
      exact (List.mem_append.mp hm).elim (s.dutyNews_free ch 0 true h) (s.chanNews_free ch _ _ _ _ h)
    · rw [State.endTest_of_ne ht]
      refine ⟨[], ?_, forall_free_nil⟩
      rw [ChanRec.left, if_neg hd, if_neg ht, State.putChan, PerChan.set_get, State.sends_nil]

theorem State.phcLeaveRun_adds : s.adds Handover.free s.phcLeaveRun := by
  refine State.forEach_adds (fun q ch => ?_) allChans s
  obtain ⟨l, he, hl⟩ := q.phcLeaveChan_eq ch
  rw [he]
  exact State.adds_putChan hl

theorem State.phcLeaveRun_chan (ch : Chan) : s.phcLeaveRun.phc.chans.get ch =
    (s.phc.chans.get ch).left (s.now + ms (s.tbm.tuning.chan.get ch).parkMs) := by
  refine forEach_at (P := fun q => q.now = s.now ∧ q.tbm = s.tbm) (get := fun q => q.phc.chans.get ch)
    (R := fun a b => b = a.left (s.now + ms (s.tbm.tuning.chan.get ch).parkMs)) (fun q y hq => ?_) (fun q hq => ?_)
    (fun q y hy _ => ?_) allChans_nodup (mem_allChans ch) ⟨rfl, rfl⟩
  · obtain ⟨l, he, -⟩ := q.phcLeaveChan_eq y
    rw [he]
    exact hq
  · obtain ⟨l, he, -⟩ := q.phcLeaveChan_eq ch
    rw [he, State.putChan_get, State.tune, hq.1, hq.2]
  · obtain ⟨l, he, -⟩ := q.phcLeaveChan_eq y
    rw [he]
    exact (PerChan.get_set _ y ch _).trans (if_neg hy)

end

/-! ### The arbiter (R102, R108) -/

section
variable {s : State}

/-- Out of RUN every channel's source is PARK. -/
theorem State.arbitrate_of_standby (h : s.smc.mode ≠ .run) (ch : Chan) : s.arbitrate ch = s.chosen ch .park 0 ∨
    s.arbitrate ch = ((s.chosen ch .park 0).updChan ch fun p => { p with presented := 0 }).sends [.phcSource ch .park] := by
  have hc : s.choose ch = (.park, 0) := State.choose_of_closed fun ho => h ho.1
  by_cases hs : Source.park = (s.tga.chans.get ch).source
  · exact .inl (State.arbitrate_of_same hc hs)
  · exact .inr (State.arbitrate_of_park hc hs rfl)

/-- The states of the arbiter's leaving: every target withdrawn, no channel chosen yet. -/
def State.untargeted (s : State) : State := s.dropMapOutputs.zeroTargets

theorem State.tgaLeaveRun_eq (s : State) : s.tgaLeaveRun = forEach allChans State.arbitrate s.untargeted := rfl

theorem State.tgaLeaveRun_adds (h : s.smc.mode ≠ .run) : s.adds Handover.free s.tgaLeaveRun := by
  have hstep : s.untargeted.adds Handover.free s.tgaLeaveRun ∧ s.tgaLeaveRun.smc.mode ≠ .run := by
    rw [State.tgaLeaveRun_eq]
    refine forEach_inv (fun q => s.untargeted.adds Handover.free q ∧ q.smc.mode ≠ .run) allChans State.arbitrate
      (fun q ch hq => ?_) _ ⟨State.adds.refl _, h⟩
    rcases State.arbitrate_of_standby hq.2 ch with he | he
    · rw [he]
      exact ⟨hq.1.trans (State.adds_of_eq rfl), hq.2⟩
    · rw [he]
      refine ⟨hq.1.trans ⟨[.phcSource ch .park], rfl, fun x hx => ?_⟩, hq.2⟩
      rw [List.mem_singleton.mp hx]
      rfl
  exact State.adds.trans (State.adds_of_eq rfl) hstep.1

theorem State.tgaLeaveRun_chan (h : s.smc.mode ≠ .run) (ch : Chan) :
    s.tgaLeaveRun.phc.chans.get ch = { s.phc.chans.get ch with presented := 0 } ∧
    (s.tgaLeaveRun.tga.chans.get ch).source = .park ∧ (s.tgaLeaveRun.tga.chans.get ch).output = 0 ∧
    (s.tgaLeaveRun.tga.chans.get ch).mapOutput = none := by
  have hat := forEach_at (f := State.arbitrate) (x := ch) (P := fun q => q.smc.mode ≠ .run)
    (get := fun q => (q.phc.chans.get ch, q.tga.chans.get ch))
    (R := fun a b => (a.1.presented = 0 → b.1 = a.1) ∧ b.2 = { a.2 with source := .park, output := 0 })
    (fun q y hq => by
      rcases State.arbitrate_of_standby hq y with he | he <;> rw [he] <;> exact hq)
    (fun q hq => by
      rcases State.arbitrate_of_standby hq ch with he | he <;> rw [he]
      · exact ⟨fun _ => rfl, PerChan.get_set_same _ _ _⟩
      · refine ⟨fun hz => ?_, PerChan.get_set_same _ _ _⟩
        refine (PerChan.get_set_same _ ch _).trans ?_
        dsimp only [State.chosen]
        rw [← hz])
    (fun q y hy hq => by
      rcases State.arbitrate_of_standby hq y with he | he <;> rw [he]
      · exact Prod.ext rfl ((PerChan.get_set _ y ch _).trans (if_neg hy))
      · exact Prod.ext ((PerChan.get_set _ y ch _).trans (if_neg hy)) ((PerChan.get_set _ y ch _).trans (if_neg hy)))
    allChans_nodup (mem_allChans ch) (s := s.untargeted) h
  obtain ⟨hphc, htga⟩ := hat
  have hp : s.untargeted.phc.chans.get ch = { s.phc.chans.get ch with presented := 0 } := PerChan.get_map _ _ _
  have hm : s.untargeted.tga.chans.get ch = { s.tga.chans.get ch with mapOutput := none } := PerChan.get_map _ _ _
  dsimp only at hphc htga
  rw [hp] at hphc
  rw [hm] at htga
  rw [State.tgaLeaveRun_eq]
  exact ⟨hphc rfl, by rw [htga], by rw [htga], by rw [htga]⟩

end

/-! ### The units (R124, R135, R138) -/

/-- One unit's turn: its record becomes `x`, the mismatch may be withdrawn, what is sent is not of the ended lock. -/
def State.unitTurn (s : State) (u : LiftUnit) (x : UnitRec) (q : State) : Prop :=
  ∃ b pair l, q = State.sends
    { s with lfs := { s.lfs with units := s.lfs.units.set u x, mismatchReported := b, pair := pair } } l ∧
      ∀ h ∈ l, h.free

section
variable {s q r : State} {u : LiftUnit} {x y : UnitRec}

theorem State.unitTurn_putUnit {l : List Handover} (hl : ∀ h ∈ l, h.free) : s.unitTurn u x (s.putUnit u x l) :=
  ⟨_, _, l, rfl, hl⟩

theorem State.unitTurn_self (s : State) (u : LiftUnit) : s.unitTurn u (s.lfs.units.get u) s :=
  ⟨s.lfs.mismatchReported, s.lfs.pair, [], by rw [PerUnit.set_get, State.sends_nil], forall_free_nil⟩

theorem State.unitTurn.trans (h : s.unitTurn u x q) (h' : q.unitTurn u y r) : s.unitTurn u y r := by
  obtain ⟨b, pair, l, rfl, hl⟩ := h
  obtain ⟨b', pair', l', rfl, hl'⟩ := h'
  refine ⟨b', pair', l ++ l', ?_, fun h hm => (List.mem_append.mp hm).elim (hl h) (hl' h)⟩
  simp only [State.sends, PerUnit.set_set, List.append_assoc]

theorem State.unitTurn.get_self (h : s.unitTurn u x q) : q.lfs.units.get u = x := by
  obtain ⟨b, pair, l, rfl, -⟩ := h
  exact PerUnit.get_set_same _ _ _

theorem State.unitTurn.get_ne (h : s.unitTurn u x q) {v : LiftUnit} (hv : u ≠ v) :
    q.lfs.units.get v = s.lfs.units.get v := by
  obtain ⟨b, pair, l, rfl, -⟩ := h
  exact (PerUnit.get_set _ u v _).trans (if_neg hv)

theorem State.unitTurn.adds (h : s.unitTurn u x q) : s.adds Handover.free q := by
  obtain ⟨b, pair, l, rfl, hl⟩ := h
  exact ⟨l, rfl, hl⟩

theorem State.unitTurn.keeps (h : s.unitTurn u x q) : q.tbm = s.tbm ∧ q.lfs.senses = s.lfs.senses := by
  obtain ⟨b, pair, l, rfl, -⟩ := h
  exact ⟨rfl, rfl⟩

/-- A unit's record in the profile its sense shows. -/
def State.settled (s : State) (u : LiftUnit) : UnitRec :=
  { s.lfs.units.get u with state := settledAt (s.senseHigh u), posTally := 0 }

theorem State.settle_unitTurn (s : State) (u : LiftUnit) (cause : LiftCause) :
    s.unitTurn u (s.settled u) (s.settle u cause) := by
  have hshown : settledAt (s.senseHigh u) = .high ∨ settledAt (s.senseHigh u) = .low ∨
      settledAt (s.senseHigh u) = .stuck := by
    cases s.senseHigh u <;> simp [settledAt]
  have hrec : s.entered u (settledAt (s.senseHigh u)) cause = s.putUnit u (s.settled u)
      (s.liftNews u (settledAt (s.senseHigh u)) (s.lfs.units.get u).state cause) := by
    rw [State.entered, if_pos hshown]
    rfl
  have hfree := s.liftNews_free u (settledAt (s.senseHigh u)) (s.lfs.units.get u).state cause
  unfold State.settle
  by_cases h : s.agrees u (settledAt (s.senseHigh u))
  · rw [State.enterLift_of_agrees s u _ cause h, hrec]
    refine ⟨false, none, _ ++ [.report .lfs .liftMismatch .gone], by simp only [State.putUnit, State.sends,
      List.append_assoc], fun x hx => (List.mem_append.mp hx).elim (hfree x) fun hx => ?_⟩
    rw [List.mem_singleton.mp hx]
    rfl
  · rw [State.enterLift_of_not_agrees s u _ cause h, hrec]
    exact State.unitTurn_putUnit hfree

/-- What a unit's record becomes as the part leaves RUN (R124, R135, R138). -/
def UnitRec.leaves (r r' : UnitRec) (shown : LiftState) : Prop :=
  r'.test = none ∧
  (r.test = none → ¬ (r.state ≠ .high ∧ r.state ≠ .low ∧ r.state ≠ .stuck) → r' = r) ∧
  ((r.state ≠ .high ∧ r.state ≠ .low ∧ r.state ≠ .stuck) → r'.claim = false ∧ r'.attempts = 0 ∧ r'.travel = none) ∧
  (r.test ≠ none ∨ (r.state ≠ .high ∧ r.state ≠ .low ∧ r.state ≠ .stuck) → r'.state = shown)

/-- The record of a unit that has lost its lock, and of one whose test has ended. -/
theorem State.lfsLeaveUnit_turn (s : State) (u : LiftUnit) : ∃ x, s.unitTurn u x (s.lfsLeaveUnit u) ∧
    (s.lfs.units.get u).leaves x (settledAt (s.senseHigh u)) := by
  have hlost : ∃ x, s.unitTurn u x (s.liftLockLost u) ∧ x.test = (s.lfs.units.get u).test ∧
      (¬ ((s.lfs.units.get u).state ≠ .high ∧ (s.lfs.units.get u).state ≠ .low ∧ (s.lfs.units.get u).state ≠ .stuck) →
        x = s.lfs.units.get u) ∧
      ((s.lfs.units.get u).state ≠ .high ∧ (s.lfs.units.get u).state ≠ .low ∧ (s.lfs.units.get u).state ≠ .stuck →
        x.claim = false ∧ x.attempts = 0 ∧ x.travel = none ∧ x.state = settledAt (s.senseHigh u)) := by
    rw [State.liftLockLost_eq]
    split
    · next h => exact ⟨_, s.unitTurn_self u, rfl, fun _ => rfl, fun hm => absurd h (by tauto)⟩
    · next h =>
      refine ⟨_, (State.unitTurn_putUnit fun x hx => (List.mem_append.mp hx).elim (s.solenoidNews_free u false x)
        (s.freedNews_free u x)).trans (State.settle_unitTurn _ u .lock), ?_, fun hm => absurd hm (by tauto), fun _ => ?_⟩
      · rw [State.settled, State.putUnit_get]
      · rw [State.settled, State.putUnit_get]
        exact ⟨rfl, rfl, rfl, rfl⟩
  obtain ⟨x, hx, htest, hsame, hmoves⟩ := hlost
  have hsense : (s.liftLockLost u).senseHigh u = s.senseHigh u := by
    unfold State.senseHigh
    rw [hx.keeps.1, hx.keeps.2]
  unfold State.lfsLeaveUnit
  rw [State.endLiftTest_eq, hx.get_self]
  cases ht : (s.lfs.units.get u).test with
  | none =>
    rw [ht] at htest
    rw [htest, if_neg (by simp)]
    exact ⟨x, hx, htest, fun _ => hsame, fun hm => ⟨(hmoves hm).1, (hmoves hm).2.1, (hmoves hm).2.2.1⟩,
      fun hm => (hmoves (hm.resolve_left fun h => h ht)).2.2.2⟩
  | some y =>
    rw [ht] at htest
    rw [htest, if_pos (by simp)]
    have hend : (s.liftLockLost u).unitTurn u { x with test := none }
        (((s.liftLockLost u).updUnit u fun r => { r with test := none }).sends
          ((s.liftLockLost u).solenoidNews u false)) := by
      rw [State.updUnit_eq_putUnit, State.putUnit_sends, hx.get_self]
      exact State.unitTurn_putUnit ((s.liftLockLost u).solenoidNews_free u false)
    refine ⟨_, (hx.trans hend).trans (State.settle_unitTurn _ u .mode), ?_, fun h => absurd h (by simp [ht]), fun hm => ?_,
      fun _ => ?_⟩
    · rw [State.settled, hend.get_self]
    · rw [State.settled, hend.get_self]
      exact ⟨(hmoves hm).1, (hmoves hm).2.1, (hmoves hm).2.2.1⟩
    · rw [← hsense]
      rfl

theorem State.lfsLeaveRun_adds (s : State) : s.adds Handover.free s.lfsLeaveRun := by
  refine State.forEach_adds (fun q u => ?_) allUnits s
  obtain ⟨x, hx, -⟩ := q.lfsLeaveUnit_turn u
  exact hx.adds

theorem State.lfsLeaveRun_unit (s : State) (u : LiftUnit) :
    (s.lfs.units.get u).leaves (s.lfsLeaveRun.lfs.units.get u) (settledAt (s.senseHigh u)) := by
  refine forEach_at (P := fun q => q.tbm = s.tbm ∧ q.lfs.senses = s.lfs.senses) (get := fun q => q.lfs.units.get u)
    (R := fun a b => a.leaves b (settledAt (s.senseHigh u))) (fun q y hq => ?_) (fun q hq => ?_)
    (fun q y hy _ => ?_) allUnits_nodup (mem_allUnits u) ⟨rfl, rfl⟩
  · obtain ⟨x, hx, -⟩ := q.lfsLeaveUnit_turn y
    exact ⟨hx.keeps.1.trans hq.1, hx.keeps.2.trans hq.2⟩
  · obtain ⟨x, hx, hl⟩ := q.lfsLeaveUnit_turn u
    have hsense : q.senseHigh u = s.senseHigh u := by
      unfold State.senseHigh
      rw [hq.1, hq.2]
    rw [hx.get_self, ← hsense]
    exact hl
  · obtain ⟨x, hx, -⟩ := q.lfsLeaveUnit_turn y
    exact hx.get_ne hy

end

end Sys2Proof.Machine
end

section
/-! Proofs about the outputs as the part leaves RUN (R111, R121), and MODE STANDBY whole (R175). -/

namespace Sys2Proof.Machine

/-! ### The outputs -/

/-- A record that an output's leaving gives: disabled, and off with nothing reported where it was enabled. -/
def OcvRec.leaves (r r' : OcvRec) : Prop :=
  r'.enabled = false ∧ (r.enabled = true → r'.lineOn = false ∧ r'.openReported = false)

def LsRec.leaves (r r' : LsRec) : Prop :=
  r'.enabled = false ∧ (r.enabled = true → r'.lineOn = false ∧ r'.openReported = false)

section
variable {s : State}

theorem State.cutOcv_turn (s : State) (o : LineABCD) (current : Bool) :
    ∃ x l, s.cutOcv o current = s.putOcv o x l ∧ ∀ h ∈ l, h.free := by
  cases hl : (s.vdr.ocv.get o).lineOn with
  | false =>
    rw [State.cutOcv_of_off hl]
    exact ⟨_, [], (s.putOcv_self o).symm, forall_free_nil⟩
  | true =>
    rw [State.cutOcv_of_on hl, State.judgeOcv_putOcv]
    refine ⟨_, _, rfl, fun h hm => ?_⟩
    obtain ⟨v, -, rfl⟩ := List.mem_map.mp hm
    rfl

theorem State.cutLs_turn (s : State) (o : LineAB) (current : Bool) :
    ∃ x l, s.cutLs o current = s.putLs o x l ∧ ∀ h ∈ l, h.free := by
  cases hl : (s.vdr.ls.get o).lineOn with
  | false =>
    rw [State.cutLs_of_off hl]
    exact ⟨_, [], (s.putLs_self o).symm, forall_free_nil⟩
  | true =>
    rw [State.cutLs_of_on hl, State.judgeLs_putLs]
    refine ⟨_, _, rfl, fun h hm => ?_⟩
    obtain ⟨v, -, rfl⟩ := List.mem_map.mp hm
    rfl

theorem free_append_if {l : List Handover} {h : Handover} {p : Prop} [Decidable p] (hl : ∀ x ∈ l, x.free) (hh : h.free) :
    ∀ x ∈ l ++ (if p then [h] else []), x.free := by
  intro x hx
  rcases List.mem_append.mp hx with hx | hx
  · exact hl x hx
  · rw [List.mem_singleton.mp (List.mem_ite_nil_right.mp hx).2]
    exact hh

theorem State.evalOcv_of_standby (h : s.smc.mode ≠ .run) (o : LineABCD) (current : Bool) : ∃ x l,
    s.evalOcv o current = s.putOcv o x l ∧ (s.vdr.ocv.get o).leaves x ∧ ∀ h ∈ l, h.free := by
  have hmay : s.ocvMayRun o = false := Bool.eq_false_iff.mpr fun hm => h ((s.ocvMayRun_iff o).mp hm).1
  cases he : (s.vdr.ocv.get o).enabled with
  | false =>
    rw [State.evalOcv_of_same (hmay.trans he.symm)]
    exact ⟨_, [], (s.putOcv_self o).symm, ⟨he, fun ht => Bool.noConfusion (he.symm.trans ht)⟩, forall_free_nil⟩
  | true =>
    obtain ⟨x, l, hcut, hl⟩ := s.cutOcv_turn o current
    rw [State.evalOcv_of_disable hmay he, State.disableOcv_eq, hcut, State.putOcv_putOcv]
    exact ⟨_, _, rfl, ⟨rfl, fun _ => ⟨rfl, rfl⟩⟩, free_append_if hl rfl⟩

theorem State.evalLs_of_standby (h : s.smc.mode ≠ .run) (o : LineAB) (current : Bool) : ∃ x l,
    s.evalLs o current = s.putLs o x l ∧ (s.vdr.ls.get o).leaves x ∧ ∀ h ∈ l, h.free := by
  have hmay : s.lsMayRun o = false := Bool.eq_false_iff.mpr fun hm => h ((s.lsMayRun_iff o).mp hm).1
  cases he : (s.vdr.ls.get o).enabled with
  | false =>
    rw [State.evalLs_of_same (hmay.trans he.symm)]
    exact ⟨_, [], (s.putLs_self o).symm, ⟨he, fun ht => Bool.noConfusion (he.symm.trans ht)⟩, forall_free_nil⟩
  | true =>
    obtain ⟨x, l, hcut, hl⟩ := s.cutLs_turn o current
    rw [State.evalLs_of_disable hmay he, State.disableLs_eq, hcut, State.putLs_putLs]
    exact ⟨_, _, rfl, ⟨rfl, fun _ => ⟨rfl, rfl⟩⟩, free_append_if hl rfl⟩

variable {seen : LoadSeen}

theorem State.vdrLeaveRun_adds (h : s.smc.mode ≠ .run) : s.adds Handover.free (s.vdrLeaveRun seen) := by
  refine (forEach_inv (fun q => s.adds Handover.free q ∧ q.smc.mode ≠ .run) allOuts
    (fun s out => s.evalOut out (seenOn seen out)) (fun q out hq => ?_) s ⟨State.adds.refl s, h⟩).1
  cases out with
  | ocv o =>
    obtain ⟨x, l, he, -, hl⟩ := State.evalOcv_of_standby hq.2 o (seenOn seen (.ocv o))
    rw [State.evalOut, he]
    exact ⟨hq.1.trans (State.adds_putOcv hl), hq.2⟩
  | ls o =>
    obtain ⟨x, l, he, -, hl⟩ := State.evalLs_of_standby hq.2 o (seenOn seen (.ls o))
    rw [State.evalOut, he]
    exact ⟨hq.1.trans (State.adds_putLs hl), hq.2⟩

theorem State.vdrLeaveRun_ocv (h : s.smc.mode ≠ .run) (o : LineABCD) :
    (s.vdr.ocv.get o).leaves ((s.vdrLeaveRun seen).vdr.ocv.get o) := by
  refine forEach_at (P := fun q => q.smc.mode ≠ .run) (get := fun q => q.vdr.ocv.get o) (R := OcvRec.leaves)
    (x := Out.ocv o) (fun q out hq => ?_) (fun q hq => ?_) (fun q out hne hq => ?_) allOuts_nodup (mem_allOuts _) h
  · rw [(q.evalOut_keeps out _).2.2.1]
    exact hq
  · obtain ⟨x, l, he, hx, -⟩ := State.evalOcv_of_standby hq o (seenOn seen (.ocv o))
    rw [State.evalOut, he, State.putOcv_get]
    exact hx
  · cases out with
    | ocv o' =>
      obtain ⟨x, l, he, -⟩ := State.evalOcv_of_standby hq o' (seenOn seen (.ocv o'))
      rw [State.evalOut, he]
      exact (PerOcv.get_set _ o' o _).trans (if_neg fun heq => hne (congrArg Out.ocv heq))
    | ls o' =>
      obtain ⟨x, l, he, -⟩ := State.evalLs_of_standby hq o' (seenOn seen (.ls o'))
      rw [State.evalOut, he]
      rfl

theorem State.vdrLeaveRun_ls (h : s.smc.mode ≠ .run) (o : LineAB) :
    (s.vdr.ls.get o).leaves ((s.vdrLeaveRun seen).vdr.ls.get o) := by
  refine forEach_at (P := fun q => q.smc.mode ≠ .run) (get := fun q => q.vdr.ls.get o) (R := LsRec.leaves)
    (x := Out.ls o) (fun q out hq => ?_) (fun q hq => ?_) (fun q out hne hq => ?_) allOuts_nodup (mem_allOuts _) h
  · rw [(q.evalOut_keeps out _).2.2.1]
    exact hq
  · obtain ⟨x, l, he, hx, -⟩ := State.evalLs_of_standby hq o (seenOn seen (.ls o))
    rw [State.evalOut, he, State.putLs_get]
    exact hx
  · cases out with
    | ocv o' =>
      obtain ⟨x, l, he, -⟩ := State.evalOcv_of_standby hq o' (seenOn seen (.ocv o'))
      rw [State.evalOut, he]
      rfl
    | ls o' =>
      obtain ⟨x, l, he, -⟩ := State.evalLs_of_standby hq o' (seenOn seen (.ls o'))
      rw [State.evalOut, he]
      exact (PerLs.get_set _ o' o _).trans (if_neg fun heq => hne (congrArg Out.ls heq))

end

/-! ### RUN left -/

/-- RUN left by the mode alone: nothing of the lock on its way, the notice handed in. -/
def State.stood (s : State) : State :=
  State.sends { s with
    handovers := s.handovers.filter fun h => !h.ofLock
    smc := { s.smc with mode := .standby } } [.notice .smc (.mod .standby s.smc.mode s.ckt.cycles)]

/-- The schedule is empty. -/
def State.unscheduled (s : State) : State := { s with asc := ⟨[], []⟩ }

@[simp] theorem State.unscheduled_keeps (s : State) : s.unscheduled.handovers = s.handovers ∧
    s.unscheduled.smc = s.smc ∧ s.unscheduled.ceu = s.ceu ∧ s.unscheduled.phc = s.phc ∧ s.unscheduled.vdr = s.vdr ∧
    s.unscheduled.lfs = s.lfs := ⟨rfl, rfl, rfl, rfl, rfl, rfl⟩

theorem State.ceuLeaveRun_ceu (s : State) : s.ceuLeaveRun.ceu = { s.ceu with
    chans := s.ceu.chans.map fun _ => CeuChan.lockLost, matching := false, partialCycle := false, refSeen := false } := rfl

/-- The channels, the units and the capture unit have left, the schedule is empty. -/
def State.parted (s : State) : State := s.stood.phcLeaveRun.lfsLeaveRun.unscheduled.ceuLeaveRun

theorem State.leaveRun_eq (s : State) (seen : LoadSeen) : s.leaveRun seen = s.parted.tgaLeaveRun.vdrLeaveRun seen := rfl

section
variable (s : State) (seen : LoadSeen)

theorem State.stood_keeps : s.stood.smc = { s.smc with mode := .standby } ∧ s.stood.now = s.now ∧ s.stood.tbm = s.tbm ∧
    s.stood.ceu = s.ceu ∧ s.stood.phc = s.phc ∧ s.stood.vdr = s.vdr ∧ s.stood.lfs = s.lfs :=
  ⟨rfl, rfl, rfl, rfl, rfl, rfl, rfl⟩

theorem State.parted_keeps : s.parted.smc = s.stood.smc ∧ s.parted.asc = ⟨[], []⟩ ∧
    s.parted.phc = s.stood.phcLeaveRun.phc ∧ s.parted.vdr = s.stood.vdr ∧
    s.parted.lfs = s.stood.phcLeaveRun.lfsLeaveRun.lfs := by
  have hasc (q : State) : q.unscheduled.asc = ⟨[], []⟩ := rfl
  simp [State.parted, hasc]

theorem State.parted_mode_ne : s.parted.smc.mode ≠ .run := by
  rw [s.parted_keeps.1, s.stood_keeps.1]
  simp

theorem State.tgaLeft_mode_ne : s.parted.tgaLeaveRun.smc.mode ≠ .run := by
  rw [(State.tgaLeaveRun_keeps _).2.2.1]
  exact s.parted_mode_ne

theorem State.parted_adds : s.stood.adds Handover.free s.parted := by
  have hsame (q : State) : q.unscheduled.ceuLeaveRun.handovers = q.handovers := by simp
  exact (s.stood.phcLeaveRun_adds.trans s.stood.phcLeaveRun.lfsLeaveRun_adds).trans (State.adds_of_eq (hsame _))

theorem State.leaveRun_adds : s.stood.adds Handover.free (s.leaveRun seen) := by
  rw [State.leaveRun_eq]
  exact s.parted_adds.trans
    ((State.tgaLeaveRun_adds s.parted_mode_ne).trans (State.vdrLeaveRun_adds s.tgaLeft_mode_ne))

/-- Nothing of the ended lock is on its way once RUN is left. -/
theorem State.leaveRun_free : ∀ h ∈ (s.leaveRun seen).handovers, h.free := by
  intro h hm
  rcases (s.leaveRun_adds seen).cases hm with hm | hm
  · rcases List.mem_append.mp hm with hm | hm
    · exact Bool.not_eq_true' _ |>.mp (List.mem_filter.mp hm).2
    · rw [List.mem_singleton.mp hm]
      rfl
  · exact hm

theorem State.leaveRun_notice : .notice .smc (.mod .standby s.smc.mode s.ckt.cycles) ∈ (s.leaveRun seen).handovers :=
  (s.leaveRun_adds seen).mem (List.mem_append_right _ (List.mem_singleton.mpr rfl))

theorem State.leaveRun_smc : (s.leaveRun seen).smc = { s.smc with mode := .standby } := by
  simp only [State.leaveRun_eq, State.vdrLeaveRun_keeps, State.tgaLeaveRun_keeps, State.parted_keeps, State.stood_keeps]

theorem State.leaveRun_asc : (s.leaveRun seen).asc = ⟨[], []⟩ := by
  simp only [State.leaveRun_eq, State.vdrLeaveRun_keeps, State.tgaLeaveRun_keeps, State.parted_keeps]

theorem State.leaveRun_ceu : (s.leaveRun seen).ceu = { s.ceu with
    chans := s.ceu.chans.map fun _ => CeuChan.lockLost, matching := false, partialCycle := false, refSeen := false } := by
  simp only [State.leaveRun_eq, State.vdrLeaveRun_keeps, State.tgaLeaveRun_keeps, State.parted, State.ceuLeaveRun_ceu,
    State.unscheduled_keeps, State.lfsLeaveRun_keeps, State.phcLeaveRun_keeps, State.stood_keeps]

theorem State.leaveRun_ceuChan (ch : Chan) : (s.leaveRun seen).ceu.chans.get ch = { s.ceu.chans.get ch with
    valid := false, windows := List.replicate 6 ⟨false, false, none⟩, cycMatches := 0, cycStrays := 0
    noMatchRun := 0, strayRun := 0 } := by
  rw [State.leaveRun_ceu]
  exact PerChan.get_map _ _ _

theorem State.tgaLeft_vdr : s.parted.tgaLeaveRun.vdr = s.vdr := by
  simp only [State.tgaLeaveRun_keeps, State.parted_keeps, State.stood_keeps]

theorem State.leaveRun_ocv (o : LineABCD) : (s.vdr.ocv.get o).leaves ((s.leaveRun seen).vdr.ocv.get o) := by
  have h := State.vdrLeaveRun_ocv (seen := seen) s.tgaLeft_mode_ne o
  rwa [s.tgaLeft_vdr, ← State.leaveRun_eq] at h

theorem State.leaveRun_ls (o : LineAB) : (s.vdr.ls.get o).leaves ((s.leaveRun seen).vdr.ls.get o) := by
  have h := State.vdrLeaveRun_ls (seen := seen) s.tgaLeft_mode_ne o
  rwa [s.tgaLeft_vdr, ← State.leaveRun_eq] at h

theorem State.leaveRun_chan (ch : Chan) : (s.leaveRun seen).phc.chans.get ch =
    { (s.phc.chans.get ch).left (s.now + ms (s.tbm.tuning.chan.get ch).parkMs) with presented := 0 } := by
  have hphc : (s.leaveRun seen).phc = s.parted.tgaLeaveRun.phc := by
    simp only [State.leaveRun_eq, State.vdrLeaveRun_keeps]
  rw [hphc, (State.tgaLeaveRun_chan s.parted_mode_ne ch).1, s.parted_keeps.2.2.1, State.phcLeaveRun_chan]
  simp only [State.stood_keeps]

theorem State.leaveRun_tga (ch : Chan) : ((s.leaveRun seen).tga.chans.get ch).source = .park ∧
    ((s.leaveRun seen).tga.chans.get ch).output = 0 ∧ ((s.leaveRun seen).tga.chans.get ch).mapOutput = none := by
  have htga : (s.leaveRun seen).tga = s.parted.tgaLeaveRun.tga := by
    simp only [State.leaveRun_eq, State.vdrLeaveRun_keeps]
  rw [htga]
  exact (State.tgaLeaveRun_chan s.parted_mode_ne ch).2

theorem State.leaveRun_unit (u : LiftUnit) :
    (s.lfs.units.get u).leaves ((s.leaveRun seen).lfs.units.get u) (settledAt (s.senseHigh u)) := by
  have hlfs : (s.leaveRun seen).lfs = s.stood.phcLeaveRun.lfsLeaveRun.lfs := by
    simp only [State.leaveRun_eq, State.vdrLeaveRun_keeps, State.tgaLeaveRun_keeps, State.parted_keeps]
  have hbefore : s.stood.phcLeaveRun.lfs = s.lfs := by
    simp only [State.phcLeaveRun_keeps, State.stood_keeps]
  have hsense : s.stood.phcLeaveRun.senseHigh u = s.senseHigh u := by
    unfold State.senseHigh
    simp only [State.phcLeaveRun_keeps, State.stood_keeps]
  have h := s.stood.phcLeaveRun.lfsLeaveRun_unit u
  rwa [hsense, hbefore, ← hlfs] at h

end

/-! ### The obligation -/

/-- What a channel's leaving makes of its record, by the state it was in. -/
theorem ChanRec.left_spec (r : ChanRec) (expiry : Time) :
    let r' : ChanRec := { r.left expiry with presented := 0 }
    let drives := r.state = .releasing ∨ r.state = .tracking ∨ r.state = .holding
    r'.presented = 0 ∧
    (drives → r'.state = .parking ∧ r'.duty = 0 ∧ r'.holds = .empty ∧ r'.parkCount = 0 ∧
      r'.timer = some (.park, expiry)) ∧
    (r.state = .driveTest → r'.state = .parked ∧ r'.duty = 0 ∧ r'.timer = none) ∧
    (¬ drives → r.state ≠ .driveTest → r' = { r with presented := 0 }) := by
  intro r' drives
  refine ⟨rfl, fun hd => ?_, fun ht => ?_, fun hd ht => ?_⟩
  · have hleft : r.left expiry = _ := if_pos hd
    simp only [r', hleft, and_self]
  · have hd : ¬ drives := by simp [drives, ht]
    have hleft : r.left expiry = _ := (if_neg hd).trans (if_pos ht)
    simp only [r', hleft, and_self]
  · have hleft : r.left expiry = _ := (if_neg hd).trans (if_neg ht)
    simp only [r', hleft]

/-- MODE STANDBY spelled right, by the mode and the crank it finds. -/
theorem State.doModeStandby_word (s : State) (seen : LoadSeen) : s.doModeStandby [.word .STANDBY] seen =
    if s.smc.mode ≠ .run then s.dropValidation.answer .MODE .ok
    else if s.ckt.state ≠ .stopped then s.dropValidation.answer .MODE .state
    else (s.dropValidation.leaveRun seen).answer .MODE .ok := by
  have hrun : (!s.dropValidation.inRun) = true ↔ s.smc.mode ≠ .run := by
    rw [Bool.not_eq_true', Bool.eq_false_iff]
    exact not_congr (State.inRun_iff _)
  unfold State.doModeStandby
  simp only [hrun]
  exact if_neg (not_not_intro rfl)

/-- Settles O15: MODE STANDBY in STANDBY, with the crank turning, and with it stopped. -/
theorem modeStandbyLeavesRun : Obligations.ModeStandbyLeavesRun := by
  intro s t seen hb
  have he : exec (.modeStandby [.word .STANDBY] seen) s = .next (t.doModeStandby [.word .STANDBY] seen) :=
    exec_of_begins (act := fun s => s.doModeStandby [.word .STANDBY] seen) rfl hb
  obtain ⟨-, rfl⟩ := hb
  rw [State.doModeStandby_word] at he
  refine ⟨fun hm => ?_, fun hm hst => ?_, fun hm hst => ?_⟩
  · exact he.trans (congrArg _ (if_pos fun h => Mode.noConfusion (hm.symm.trans h)))
  · exact he.trans (congrArg _ ((if_neg (not_not_intro hm)).trans (if_pos hst)))
  · refine ⟨_, he.trans (congrArg _ ((if_neg (not_not_intro hm)).trans (if_neg (not_not_intro hst)))), ?_⟩
    generalize hd : (s.begun .MODE).dropValidation = d
    have hsmc := d.leaveRun_smc seen
    obtain ⟨-, hnow, hclp, htbm, hckt, hfmg, htrb, hcst, -⟩ := d.leaveRun_keeps seen
    have hasc := d.leaveRun_asc seen
    have hceu := d.leaveRun_ceu seen
    have hceuChan := d.leaveRun_ceuChan seen
    have hocv := d.leaveRun_ocv seen
    have hls := d.leaveRun_ls seen
    have hchan := d.leaveRun_chan seen
    have hunit := d.leaveRun_unit seen
    have htga := d.leaveRun_tga seen
    have hfree := d.leaveRun_free seen
    have hnotice := d.leaveRun_notice seen
    generalize d.leaveRun seen = q at *
    subst hd
    have hlock {h : Handover} (hl : h.ofLock = true) : h ∉ q.handovers := fun hm =>
      Bool.noConfusion ((hfree h hm).symm.trans hl)
    refine ⟨hsmc, hnow, hasc, hckt, htbm, hfmg, htrb, hcst, congrArg (fun c => c.answer (.kw .MODE) .ok []) hclp,
      congrArg Ceu.matching hceu, congrArg Ceu.partialCycle hceu, congrArg Ceu.refSeen hceu,
      hceu ▸ rfl, hceu ▸ rfl, hceuChan, hocv, hls, fun ch => ?_, fun u => ?_,
      fun b => ⟨hlock rfl, hlock rfl⟩, fun ch => hlock rfl, fun u => hlock rfl, fun k a c => hlock rfl,
      fun ch k a c => hlock rfl, fun a c => ⟨hlock rfl, hlock rfl⟩, htga, ?_⟩
    · intro r r' drives
      have hr' : r' = { r.left (s.now + ms (s.tbm.tuning.chan.get ch).parkMs) with presented := 0 } := hchan ch
      rw [hr']
      exact ChanRec.left_spec r _
    · intro r r' moves
      obtain ⟨htest, hsame, hmoves, hsettled⟩ := hunit u
      refine ⟨htest, hsame, hmoves, fun n h hn => ?_⟩
      refine (hsettled h).trans ?_
      have hsense : State.senseHigh (s.begun .MODE).dropValidation u = (s.lfs.senses.get n).high := by
        unfold State.senseHigh
        rw [show (s.begun .MODE).dropValidation.tbm.layout = s.tbm.layout from rfl, hn]
        rfl
      rw [hsense]
      rfl
    · rw [← hm]
      exact hnotice

end Sys2Proof.Machine
end

section
/-! Proofs about layout validation (R7 to R12): what each of the twelve checks finds. -/

namespace Sys2Proof.Machine

/-! ### The order of the checks (R7) -/

theorem findSome?_id_cons {α : Type} (a : Option α) (l : List (Option α)) :
    (a :: l).findSome? id = a.or (l.findSome? id) := by
  cases a <;> rfl

theorem validate_eq (o : Origin) (l : Layout) : validate o l =
    [checkOrigin o, checkWheel l, checkCyl l, checkPartial l, checkChannel l, checkReference l, checkOrder l,
      checkOverlap l, checkConflict l, checkIntake l, checkLead l, checkCapacity l].findSome? id := by
  simp only [findSome?_id_cons, List.findSome?_nil, Option.or_none]
  rfl

/-! ### Bindings (R8) -/

section
variable (l : Layout)

/-- A channel with both its lines. -/
def Layout.binds (ch : Chan) : Prop := (l.bind.get ch).cam ≠ none ∧ (l.bind.get ch).driver ≠ none

/-- A unit with both its lines. -/
def Layout.bindsUnit (u : LiftUnit) : Prop := (l.lift.get u).driver ≠ none ∧ (l.lift.get u).sense ≠ none

theorem Layout.bound_iff (ch : Chan) : (l.bind.get ch).bound = true ↔ l.binds ch := BindItem.bound_iff _

theorem Layout.unitBound_iff (u : LiftUnit) : (l.lift.get u).bound = true ↔ l.bindsUnit u := LiftItem.bound_iff _

/-- Two options of which one is there alone. -/
theorem isSome_bne_isSome {α β : Type} (a : Option α) (b : Option β) :
    (a.isSome != b.isSome) = true ↔ ¬ (a = none ↔ b = none) := by
  cases a <;> cases b <;> simp

/-- Searching the bound channels for an answer. -/
theorem Layout.findSome?_boundChans {β : Type} (f : Chan → Option β) (P : Chan → Prop)
    (h : ∀ ch, f ch ≠ none ↔ P ch) (b : β) :
    l.boundChans.findSome? f = some b ↔ ∃ ch, firstChan (fun c => l.binds c ∧ P c) ch ∧ f ch = some b := by
  have hfound (ch : Chan) : (if (l.bind.get ch).bound = true then f ch else none) ≠ none ↔ l.binds ch ∧ P ch := by
    rw [← l.bound_iff, ← h ch]
    by_cases hb : (l.bind.get ch).bound = true
    · simp [hb]
    · simp [hb]
  rw [Layout.boundChans, findSome_filter, findSome_chan_eq]
  simp only [hfound]
  refine exists_congr fun ch => and_congr_right fun hf => ?_
  rw [if_pos ((l.bound_iff ch).mpr hf.1.1)]

theorem Layout.findSome?_boundUnits {β : Type} (f : LiftUnit → Option β) (P : LiftUnit → Prop)
    (h : ∀ u, f u ≠ none ↔ P u) (b : β) :
    l.boundUnits.findSome? f = some b ↔ ∃ u, firstUnit (fun v => l.bindsUnit v ∧ P v) u ∧ f u = some b := by
  have hfound (u : LiftUnit) : (if (l.lift.get u).bound = true then f u else none) ≠ none ↔ l.bindsUnit u ∧ P u := by
    rw [← l.unitBound_iff, ← h u]
    by_cases hb : (l.lift.get u).bound = true
    · simp [hb]
    · simp [hb]
  rw [Layout.boundUnits, findSome_filter, findSome_unit_eq]
  simp only [hfound]
  refine exists_congr fun u => and_congr_right fun hf => ?_
  rw [if_pos ((l.unitBound_iff u).mpr hf.1.1)]

/-! ### PARTIAL, CHANNEL, INTAKE (R8, R11) -/

/-- A channel with one of its two lines. -/
def Layout.partly (ch : Chan) : Prop := ¬ ((l.bind.get ch).cam = none ↔ (l.bind.get ch).driver = none)

/-- A unit with one of its two lines. -/
def Layout.partlyUnit (u : LiftUnit) : Prop := ¬ ((l.lift.get u).driver = none ↔ (l.lift.get u).sense = none)

theorem checkPartial_iff (f : LayoutFailure) : checkPartial l = some f ↔
    (∃ ch, f = .partialChan ch ∧ firstChan l.partly ch) ∨
      ∃ u, f = .partialUnit u ∧ (∀ ch, ¬ l.partly ch) ∧ firstUnit l.partlyUnit u := by
  have hchan (ch : Chan) := find_chan_eq _ l.partly (fun c => isSome_bne_isSome (l.bind.get c).cam (l.bind.get c).driver) ch
  have hunit (u : LiftUnit) := find_unit_eq _ l.partlyUnit
    (fun c => isSome_bne_isSome (l.lift.get c).driver (l.lift.get c).sense) u
  unfold checkPartial
  cases hf : allChans.find? fun ch => (l.bind.get ch).cam.isSome != (l.bind.get ch).driver.isSome with
  | some ch =>
    have hfirst := (hchan ch).mp hf
    dsimp only
    constructor
    · rintro ⟨⟩
      exact .inl ⟨ch, rfl, hfirst⟩
    · rintro (⟨c, rfl, hc⟩ | ⟨u, -, hno, -⟩)
      · rw [Option.some.inj (((hchan c).mpr hc).symm.trans hf)]
      · exact absurd hfirst.1 (hno ch)
  | none =>
    have hno (ch : Chan) : ¬ l.partly ch := fun hp =>
      List.find?_eq_none.mp hf ch (mem_allChans ch) ((isSome_bne_isSome _ _).mpr hp)
    dsimp only
    constructor
    · intro h
      obtain ⟨u, hu, rfl⟩ := Option.map_eq_some_iff.mp h
      exact .inr ⟨u, rfl, hno, (hunit u).mp hu⟩
    · rintro (⟨c, -, hc⟩ | ⟨u, rfl, -, hu⟩)
      · exact absurd hc.1 (hno c)
      · exact Option.map_eq_some_iff.mpr ⟨u, (hunit u).mpr hu, rfl⟩

/-- A search of a filtered list is a search for both. -/
theorem find?_filter_some_iff {α : Type} (l : List α) (p q : α → Bool) (a : α) :
    (l.filter p).find? q = some a ↔ (l.find? fun x => p x && q x) = some a := by
  rw [List.find?_filter]
  simp only [← Bool.and_eq_true, Bool.decide_eq_true]

theorem checkChannel_iff (f : LayoutFailure) : checkChannel l = some f ↔ ∃ ch, f = .channel ch ∧
    firstChan (fun c => l.binds c ∧ (l.cam.get c = none ∨ l.edges.get c = [])) ch := by
  have hp (c : Chan) : ((l.bind.get c).bound && ((l.cam.get c).isNone || (l.edges.get c).isEmpty)) = true ↔
      l.binds c ∧ (l.cam.get c = none ∨ l.edges.get c = []) := by
    rw [Bool.and_eq_true, l.bound_iff, Bool.or_eq_true, Option.isNone_iff_eq_none, List.isEmpty_iff]
  have hfind (ch : Chan) := find_chan_eq _ _ hp ch
  rw [checkChannel, Layout.boundChans, Option.map_eq_some_iff]
  simp only [find?_filter_some_iff, hfind]
  exact exists_congr fun ch => ⟨fun ⟨h, e⟩ => ⟨e.symm, h⟩, fun ⟨e, h⟩ => ⟨h, e.symm⟩⟩

theorem checkIntake_iff (f : LayoutFailure) : checkIntake l = some f ↔ ∃ u, f = .intake u ∧
    firstUnit (fun v => l.bindsUnit v ∧ ¬ l.binds (intake v)) u := by
  have hp (u : LiftUnit) : ((l.lift.get u).bound && !(l.bind.get (intake u)).bound) = true ↔
      l.bindsUnit u ∧ ¬ l.binds (intake u) := by
    rw [Bool.and_eq_true, l.unitBound_iff, Bool.not_eq_true', Bool.eq_false_iff, Ne, l.bound_iff]
  have hfind (u : LiftUnit) := find_unit_eq _ _ hp u
  rw [checkIntake, Layout.boundUnits, Option.map_eq_some_iff]
  simp only [find?_filter_some_iff, hfind]
  exact exists_congr fun u => ⟨fun ⟨h, e⟩ => ⟨e.symm, h⟩, fun ⟨e, h⟩ => ⟨h, e.symm⟩⟩

/-! ### REFERENCE (R8) -/

/-- A channel whose CAM item carries reference YES. -/
def Layout.refers (ch : Chan) : Bool := (l.cam.get ch).any CamItem.reference

theorem Layout.references_eq : l.references = allChans.filter l.refers := by
  refine List.filter_congr fun ch _ => ?_
  unfold Layout.refers
  cases l.cam.get ch <;> rfl

theorem Layout.mem_references (ch : Chan) : ch ∈ l.references ↔ l.refers ch = true := by
  rw [l.references_eq, List.mem_filter]
  exact and_iff_right (mem_allChans ch)

theorem Layout.references_eq_singleton_iff (ch : Chan) : l.references = [ch] ↔ ∀ c, l.refers c = true ↔ c = ch := by
  constructor
  · intro h c
    rw [← l.mem_references, h, List.mem_singleton]
  · intro h
    have hnodup : l.references.Nodup := l.references_eq ▸ allChans_nodup.filter _
    have hmem (c : Chan) : c ∈ l.references ↔ c = ch := (l.mem_references c).trans (h c)
    exact (List.perm_singleton.mp ((List.perm_ext_iff_of_nodup hnodup (List.nodup_singleton ch)).mpr fun c => by
      rw [hmem, List.mem_singleton]))

theorem checkReference_of_one {ch : Chan} (h : l.references = [ch]) (f : LayoutFailure) : checkReference l = some f ↔
    f = .refUnbound ch ∧ ¬ l.binds ch ∨
      f = .refWide ch ∧ l.binds ch ∧ ∃ c, l.cam.get ch = some c ∧ 2880 ≤ c.range + 2 * c.halfWidth := by
  unfold checkReference
  rw [h]
  dsimp only
  by_cases hb : (l.bind.get ch).bound = true
  · have hbinds := (l.bound_iff ch).mp hb
    rw [hb]
    cases hc : l.cam.get ch with
    | none => simp [hbinds]
    | some c =>
      simp only [Bool.not_true, Bool.false_eq_true, if_false, hbinds, not_true_eq_false, and_false, false_or, true_and,
        Option.some.injEq, exists_eq_left']
      rw [Option.ite_none_right_eq_some, Option.some.injEq, and_comm, eq_comm]
      rfl
  · have hbinds : ¬ l.binds ch := mt (l.bound_iff ch).mpr hb
    rw [Bool.not_eq_true _ |>.mp hb]
    simp [hbinds, eq_comm]

theorem checkReference_of_not_one (h : l.references.length ≠ 1) :
    checkReference l = some (.refCount l.references.length) := by
  unfold checkReference
  split
  · next ch he => exact absurd (by rw [he]; rfl) h
  · rfl

theorem checkReference_iff (f : LayoutFailure) : checkReference l = some f ↔
    (∃ n, f = .refCount n ∧ n ≠ 1 ∧ n = (allChans.filter l.refers).length) ∨
      ∃ ch, (∀ c, l.refers c = true ↔ c = ch) ∧ (f = .refUnbound ch ∧ ¬ l.binds ch ∨
        f = .refWide ch ∧ l.binds ch ∧ ∃ c, l.cam.get ch = some c ∧ 2880 ≤ c.range + 2 * c.halfWidth) := by
  simp only [← l.references_eq_singleton_iff, ← l.references_eq]
  by_cases h : l.references.length = 1
  · obtain ⟨ch, hch⟩ := List.length_eq_one_iff.mp h
    rw [checkReference_of_one l hch]
    constructor
    · exact fun hf => .inr ⟨ch, hch, hf⟩
    · rintro (⟨n, -, hn, rfl⟩ | ⟨c, hc, hf⟩)
      · exact absurd h hn
      · obtain rfl : ch = c := List.singleton_inj.mp (hch.symm.trans hc)
        exact hf
  · rw [checkReference_of_not_one l h]
    constructor
    · rintro ⟨⟩
      exact .inl ⟨_, rfl, h, rfl⟩
    · rintro (⟨n, rfl, -, rfl⟩ | ⟨c, hc, -⟩)
      · rfl
      · exact absurd (by rw [hc]; rfl) h

/-! ### ORDER and OVERLAP (R9) -/

/-- Edge `k` of a channel is not later than the one before it. -/
def Layout.descends (ch : Chan) (k : Nat) : Prop := ∃ a b, 2 ≤ k ∧ (l.edges.get ch)[k - 2]? = some a ∧
  (l.edges.get ch)[k - 1]? = some b ∧ b.angle ≤ a.angle

/-- The window of edge `k` of a channel reaches the next edge's. -/
def Layout.overlaps (ch : Chan) (k : Nat) : Prop := ∃ c a b, l.cam.get ch = some c ∧ 1 ≤ k ∧
  (l.edges.get ch)[k - 1]? = some a ∧
  ((l.edges.get ch)[k]? = some b ∧ b.angle - a.angle < c.range + 2 * c.halfWidth + 1 ∨
    (l.edges.get ch)[k]? = none ∧ (l.edges.get ch)[0]? = some b ∧
      b.angle + 11520 - a.angle < c.range + 2 * c.halfWidth + 1)

theorem firstDescent_eq_some_iff (ch : Chan) (k : Nat) : firstDescent 1 (l.edges.get ch) = some k ↔
    l.descends ch k ∧ ∀ j < k, ¬ l.descends ch j := by
  rw [firstDescent_eq]
  rfl

/-- A number with the property gives a first one. -/
theorem exists_first {p : Nat → Prop} (h : ∃ k, p k) : ∃ k, p k ∧ ∀ j < k, ¬ p j := by
  classical
  exact ⟨Nat.find h, Nat.find_spec h, fun j hj => Nat.find_min h hj⟩

theorem firstDescent_ne_none_iff (ch : Chan) : firstDescent 1 (l.edges.get ch) ≠ none ↔ ∃ j, l.descends ch j := by
  rw [Option.ne_none_iff_exists']
  simp only [firstDescent_eq_some_iff]
  exact ⟨fun ⟨k, hk, _⟩ => ⟨k, hk⟩, exists_first⟩

theorem checkOrder_iff (f : LayoutFailure) : checkOrder l = some f ↔ ∃ ch k, f = .order ch k ∧
    firstChan (fun c => l.binds c ∧ ∃ j, l.descends c j) ch ∧ l.descends ch k ∧ ∀ j < k, ¬ l.descends ch j := by
  rw [checkOrder, l.findSome?_boundChans _ (fun ch => ∃ j, l.descends ch j)
    (fun ch => by rw [Ne, Option.map_eq_none_iff]; exact firstDescent_ne_none_iff l ch)]
  simp only [Option.map_eq_some_iff, firstDescent_eq_some_iff]
  constructor
  · rintro ⟨ch, hf, k, hk, rfl⟩
    exact ⟨ch, k, rfl, hf, hk⟩
  · rintro ⟨ch, k, rfl, hf, hk⟩
    exact ⟨ch, hf, k, hk, rfl⟩

/-- The edge whose window reaches the next edge's, where there is one. -/
def Layout.overlap? (ch : Chan) : Option Nat :=
  match l.cam.get ch, l.edges.get ch with
  | some c, e :: rest => ((spacings e.angle (e :: rest)).findIdx? fun d => d < c.width + 1).map fun i => i + 1
  | _, _ => none

theorem checkOverlap_eq : checkOverlap l =
    l.boundChans.findSome? fun ch => (l.overlap? ch).map fun k => .overlap ch k := by
  refine congrArg (fun g => l.boundChans.findSome? g) (funext fun ch => ?_)
  unfold Layout.overlap?
  cases l.cam.get ch with
  | none => rfl
  | some c =>
    cases l.edges.get ch with
    | nil => rfl
    | cons e rest =>
      dsimp only
      rw [Option.map_map]
      rfl

theorem Layout.overlaps_iff_spacing {ch : Chan} {c : CamItem} {e : EdgeItem} {rest : List EdgeItem}
    (hc : l.cam.get ch = some c) (he : l.edges.get ch = e :: rest) (i : Nat) :
    l.overlaps ch (i + 1) ↔ ∃ d, (spacings e.angle (e :: rest))[i]? = some d ∧ d < c.width + 1 := by
  simp only [spacings_get, Layout.overlaps, hc, he, Option.some.injEq, CamItem.width, cycleAu, Nat.add_sub_cancel]
  constructor
  · rintro ⟨_, a, b, rfl, -, ha, ⟨hb, hlt⟩ | ⟨hn, hb, hlt⟩⟩
    · exact ⟨_, ⟨a, ha, .inl ⟨b, hb, rfl⟩⟩, hlt⟩
    · obtain rfl : e = b := Option.some.inj hb
      exact ⟨_, ⟨a, ha, .inr ⟨hn, rfl⟩⟩, hlt⟩
  · rintro ⟨d, ⟨a, ha, ⟨b, hb, rfl⟩ | ⟨hn, rfl⟩⟩, hlt⟩
    · exact ⟨c, a, b, rfl, Nat.succ_pos i, ha, .inl ⟨hb, hlt⟩⟩
    · exact ⟨c, a, e, rfl, Nat.succ_pos i, ha, .inr ⟨hn, rfl, hlt⟩⟩

theorem Layout.overlap?_eq_some_iff (ch : Chan) (k : Nat) : l.overlap? ch = some k ↔
    l.overlaps ch k ∧ ∀ j < k, ¬ l.overlaps ch j := by
  have hnone (h : ∀ k, ¬ l.overlaps ch k) : none = some k ↔ l.overlaps ch k ∧ ∀ j < k, ¬ l.overlaps ch j :=
    ⟨nofun, fun hk => absurd hk.1 (h k)⟩
  unfold Layout.overlap?
  cases hc : l.cam.get ch with
  | none => exact hnone fun k ⟨c, a, b, h, _⟩ => by simp [hc] at h
  | some c =>
    cases he : l.edges.get ch with
    | nil => exact hnone fun k ⟨c, a, b, _, _, h, _⟩ => by simp [he] at h
    | cons e rest =>
      have hspace := l.overlaps_iff_spacing hc he
      have hzero : ¬ l.overlaps ch 0 := fun ⟨_, _, _, _, h, _⟩ => absurd h (by decide)
      dsimp only
      simp only [Option.map_eq_some_iff, findIdx_eq, decide_eq_true_iff, decide_eq_false_iff_not]
      constructor
      · rintro ⟨i, ⟨hd, hmin⟩, rfl⟩
        refine ⟨(hspace i).mpr hd, fun j hj ho => ?_⟩
        cases j with
        | zero => exact hzero ho
        | succ j =>
          obtain ⟨d, hd, hlt⟩ := (hspace j).mp ho
          exact hmin j (by omega) d hd hlt
      · rintro ⟨ho, hmin⟩
        cases k with
        | zero => exact absurd ho hzero
        | succ i =>
          exact ⟨i, ⟨(hspace i).mp ho, fun j hj d hd hlt => hmin (j + 1) (by omega) ((hspace j).mpr ⟨d, hd, hlt⟩)⟩, rfl⟩

theorem checkOverlap_iff (f : LayoutFailure) : checkOverlap l = some f ↔ ∃ ch k, f = .overlap ch k ∧
    firstChan (fun c => l.binds c ∧ ∃ j, l.overlaps c j) ch ∧ l.overlaps ch k ∧ ∀ j < k, ¬ l.overlaps ch j := by
  rw [checkOverlap_eq, l.findSome?_boundChans _ (fun ch => ∃ j, l.overlaps ch j) (fun ch => by
    rw [Ne, Option.map_eq_none_iff, ← Ne, Option.ne_none_iff_exists']
    simp only [l.overlap?_eq_some_iff]
    exact ⟨fun ⟨k, hk, _⟩ => ⟨k, hk⟩, exists_first⟩)]
  simp only [Option.map_eq_some_iff, l.overlap?_eq_some_iff]
  constructor
  · rintro ⟨ch, hf, k, hk, rfl⟩
    exact ⟨ch, k, rfl, hf, hk⟩
  · rintro ⟨ch, k, rfl, hf, hk⟩
    exact ⟨ch, hf, k, hk, rfl⟩

end

end Sys2Proof.Machine
end

section
/-! Proofs about the checks CONFLICT, LEAD and CAPACITY (R10 to R12), and the refusals of MODE RUN and RSET (R175, R176). -/

namespace Sys2Proof.Machine

/-! ### CONFLICT (R10) -/

section
variable (l : Layout)

/-- Owner `n` of a kind, a channel or a unit that is bound, has the line `x`. -/
def Layout.owns (kind : ConflictKind) (n : Nat) (x : LineABCD) : Prop :=
  match kind with
  | .camin => ∃ ch, l.binds ch ∧ n = chanNum ch ∧ (l.bind.get ch).cam = some x
  | .ocv => ∃ ch, l.binds ch ∧ n = chanNum ch ∧ (l.bind.get ch).driver = some x
  | .ls => ∃ u, l.bindsUnit u ∧ n = unitNum u ∧ (l.lift.get u).driver.map abOf = some x
  | .sense => ∃ u, l.bindsUnit u ∧ n = unitNum u ∧ (l.lift.get u).sense.map abOf = some x

/-- The owners of a kind with their lines. -/
def Layout.owners (kind : ConflictKind) : List (Nat × LineABCD) :=
  match kind with
  | .camin => l.chanOwners BindItem.cam
  | .ocv => l.chanOwners BindItem.driver
  | .ls => l.unitOwners LiftItem.driver
  | .sense => l.unitOwners LiftItem.sense

theorem Layout.mem_chanOwners (line : BindItem → Option LineABCD) (n : Nat) (x : LineABCD) :
    (n, x) ∈ l.chanOwners line ↔ ∃ ch, l.binds ch ∧ n = chanNum ch ∧ line (l.bind.get ch) = some x := by
  simp only [Layout.chanOwners, Layout.boundChans, List.mem_filterMap, List.mem_filter, mem_allChans, true_and,
    l.bound_iff, Option.map_eq_some_iff, Prod.mk.injEq]
  constructor
  · rintro ⟨ch, hb, y, hy, rfl, rfl⟩
    exact ⟨ch, hb, rfl, hy⟩
  · rintro ⟨ch, hb, rfl, hy⟩
    exact ⟨ch, hb, x, hy, rfl, rfl⟩

theorem Layout.mem_unitOwners (line : LiftItem → Option LineAB) (n : Nat) (x : LineABCD) :
    (n, x) ∈ l.unitOwners line ↔ ∃ u, l.bindsUnit u ∧ n = unitNum u ∧ (line (l.lift.get u)).map abOf = some x := by
  simp only [Layout.unitOwners, Layout.boundUnits, List.mem_filterMap, List.mem_filter, mem_allUnits, true_and,
    l.unitBound_iff, Option.map_eq_some_iff, Prod.mk.injEq]
  constructor
  · rintro ⟨u, hb, y, hy, rfl, rfl⟩
    exact ⟨u, hb, rfl, y, hy, rfl⟩
  · rintro ⟨u, hb, rfl, y, hy, rfl⟩
    exact ⟨u, hb, y, hy, rfl, rfl⟩

theorem Layout.mem_owners (kind : ConflictKind) (n : Nat) (x : LineABCD) : (n, x) ∈ l.owners kind ↔ l.owns kind n x := by
  cases kind with
  | camin => exact l.mem_chanOwners BindItem.cam n x
  | ocv => exact l.mem_chanOwners BindItem.driver n x
  | ls => exact l.mem_unitOwners LiftItem.driver n x
  | sense => exact l.mem_unitOwners LiftItem.sense n x

theorem Layout.chanOwners_ascend (line : BindItem → Option LineABCD) :
    (l.chanOwners line).Pairwise fun a b => a.1 < b.1 := by
  have hall : allChans.Pairwise fun a b => chanNum a < chanNum b := by decide
  refine List.Pairwise.filterMap _ (fun a b hab p hp q hq => ?_) (hall.filter _)
  obtain ⟨x, -, rfl⟩ := Option.map_eq_some_iff.mp hp
  obtain ⟨y, -, rfl⟩ := Option.map_eq_some_iff.mp hq
  exact hab

theorem Layout.unitOwners_ascend (line : LiftItem → Option LineAB) :
    (l.unitOwners line).Pairwise fun a b => a.1 < b.1 := by
  have hall : allUnits.Pairwise fun a b => unitNum a < unitNum b := by decide
  refine List.Pairwise.filterMap _ (fun a b hab p hp q hq => ?_) (hall.filter _)
  obtain ⟨x, -, rfl⟩ := Option.map_eq_some_iff.mp hp
  obtain ⟨y, -, rfl⟩ := Option.map_eq_some_iff.mp hq
  exact hab

theorem Layout.owners_ascend (kind : ConflictKind) : (l.owners kind).Pairwise fun a b => a.1 < b.1 := by
  cases kind with
  | camin | ocv => exact l.chanOwners_ascend _
  | ls | sense => exact l.unitOwners_ascend _

/-- The first two owners `a` and `b` of one line of a kind. -/
def Layout.clashes (kind : ConflictKind) (x : LineABCD) (a b : Nat) : Prop :=
  a < b ∧ l.owns kind a x ∧ l.owns kind b x ∧ (∀ c, a < c → c < b → ¬ l.owns kind c x) ∧
    ∀ y c d, c < a → c < d → l.owns kind c y → ¬ l.owns kind d y

theorem Layout.firstClash_owners (kind : ConflictKind) (x : LineABCD) (a b : Nat) :
    firstClash (l.owners kind) = some (x, a, b) ↔ l.clashes kind x a b := by
  rw [firstClash_eq _ (l.owners_ascend kind)]
  simp only [l.mem_owners]
  rfl

/-- No two owners of a kind have one line. -/
theorem Layout.firstClash_eq_none_iff (kind : ConflictKind) :
    firstClash (l.owners kind) = none ↔ ∀ x a b, ¬ l.clashes kind x a b := by
  rw [Option.eq_none_iff_forall_ne_some]
  exact ⟨fun h x a b hc => h (x, a, b) ((l.firstClash_owners kind x a b).mpr hc),
    fun h p hp => h p.1 p.2.1 p.2.2 ((l.firstClash_owners kind p.1 p.2.1 p.2.2).mp hp)⟩

/-- The clash of a kind as the failure it is. -/
def Layout.conflict? (kind : ConflictKind) : Option LayoutFailure :=
  (firstClash (l.owners kind)).map fun c => .conflict kind c.1 c.2.1 c.2.2

theorem Layout.conflict?_eq_some_iff (kind : ConflictKind) (f : LayoutFailure) :
    l.conflict? kind = some f ↔ ∃ x a b, f = .conflict kind x a b ∧ l.clashes kind x a b := by
  simp only [Layout.conflict?, Option.map_eq_some_iff, Prod.exists, l.firstClash_owners]
  exact exists_congr fun x => exists_congr fun a => exists_congr fun b =>
    ⟨fun ⟨h, e⟩ => ⟨e.symm, h⟩, fun ⟨e, h⟩ => ⟨h, e.symm⟩⟩

theorem Layout.conflict?_eq_none_iff (kind : ConflictKind) :
    l.conflict? kind = none ↔ ∀ x a b, ¬ l.clashes kind x a b := by
  rw [Layout.conflict?, Option.map_eq_none_iff, l.firstClash_eq_none_iff]

theorem findSome?_cons_or {α β : Type} (f : α → Option β) (a : α) (m : List α) :
    (a :: m).findSome? f = (f a).or (m.findSome? f) := by
  cases h : f a <;> simp [h]

theorem checkConflict_eq : checkConflict l =
    (l.conflict? .camin).or ((l.conflict? .ocv).or ((l.conflict? .ls).or (l.conflict? .sense))) := by
  unfold checkConflict
  simp only [findSome?_cons_or, List.findSome?_nil, Option.or_none]
  rfl

theorem checkConflict_iff (f : LayoutFailure) : checkConflict l = some f ↔ ∃ kind x a b, f = .conflict kind x a b ∧
    l.clashes kind x a b ∧ (kind ≠ .camin → ∀ x a b, ¬ l.clashes .camin x a b) ∧
    (kind = .ls ∨ kind = .sense → ∀ x a b, ¬ l.clashes .ocv x a b) ∧
    (kind = .sense → ∀ x a b, ¬ l.clashes .ls x a b) := by
  rw [checkConflict_eq]
  simp only [Option.or_eq_some_iff, l.conflict?_eq_some_iff, l.conflict?_eq_none_iff]
  constructor
  · rintro (⟨x, a, b, rfl, h⟩ | ⟨h1, ⟨x, a, b, rfl, h⟩ | ⟨h2, ⟨x, a, b, rfl, h⟩ | ⟨h3, x, a, b, rfl, h⟩⟩⟩)
    · exact ⟨.camin, x, a, b, rfl, h, fun hne => absurd rfl hne, nofun, nofun⟩
    · exact ⟨.ocv, x, a, b, rfl, h, fun _ => h1, nofun, nofun⟩
    · exact ⟨.ls, x, a, b, rfl, h, fun _ => h1, fun _ => h2, nofun⟩
    · exact ⟨.sense, x, a, b, rfl, h, fun _ => h1, fun _ => h2, fun _ => h3⟩
  · rintro ⟨kind, x, a, b, rfl, h, h1, h2, h3⟩
    cases kind with
    | camin => exact .inl ⟨x, a, b, rfl, h⟩
    | ocv => exact .inr ⟨h1 nofun, .inl ⟨x, a, b, rfl, h⟩⟩
    | ls => exact .inr ⟨h1 nofun, .inr ⟨h2 (.inl rfl), .inl ⟨x, a, b, rfl, h⟩⟩⟩
    | sense => exact .inr ⟨h1 nofun, .inr ⟨h2 (.inr rfl), .inr ⟨h3 rfl, x, a, b, rfl, h⟩⟩⟩

/-! ### LEAD (R11) -/

/-- How far a lift angle lies after the decision angle with the intake channel at phase `p`. -/
def Layout.ahead (u : LiftUnit) (c : CamItem) (a : Option Nat) (p : Nat) : Int :=
  match c.dir with
  | .adv => ((a.getD 0 : Int) - (l.lift.get u).decision.getD 0 - p) % 11520
  | .ret => ((a.getD 0 : Int) - (l.lift.get u).decision.getD 0 + p) % 11520

/-- The distance in au does not depend on where the cylinder's cycle begins. -/
theorem Layout.forward_moveBy (u : LiftUnit) (c : CamItem) (a : Option Nat) (p : Nat) :
    (forward cycleAu (l.liftCycleAngle u ((l.lift.get u).decision.getD 0))
      (moveBy c.dir (l.liftCycleAngle u (a.getD 0)) p) : Int) = l.ahead u c a p := by
  unfold Layout.ahead
  generalize (l.lift.get u).decision.getD 0 = x
  generalize a.getD 0 = y
  cases c.dir <;> cases u <;> simp only [forward, moveBy, earlier, later, Layout.liftCycleAngle, cycleAu] <;> omega

theorem Layout.leads_fst (u : LiftUnit) (c : CamItem) (p : Nat) :
    ((l.leads u c.dir p).1 : Int) = l.ahead u c (l.lift.get u).windowOpen p := l.forward_moveBy u c _ p

theorem Layout.leads_snd (u : LiftUnit) (c : CamItem) (p : Nat) :
    ((l.leads u c.dir p).2 : Int) = l.ahead u c (l.lift.get u).windowClose p := l.forward_moveBy u c _ p

/-- At one of the ends of its intake channel's range, a unit's window opens too soon after the decision or too late. -/
def Layout.mistimed (u : LiftUnit) : Prop := ∃ c p, l.cam.get (intake u) = some c ∧ (p = 0 ∨ p = c.range) ∧
  (l.ahead u c (l.lift.get u).windowClose p ≤ l.ahead u c (l.lift.get u).windowOpen p ∨
    l.ahead u c (l.lift.get u).windowOpen p < 320)

/-- The lead of a unit that is mistimed. -/
def Layout.shortLead? (u : LiftUnit) : Option LayoutFailure :=
  match l.cam.get (intake u) with
  | some c =>
    if (l.leads u c.dir 0).1 < (l.leads u c.dir 0).2 ∧ 320 ≤ (l.leads u c.dir 0).1 ∧
      (l.leads u c.dir c.range).1 < (l.leads u c.dir c.range).2 ∧ 320 ≤ (l.leads u c.dir c.range).1 then none
    else some (.lead u (min (l.leads u c.dir 0).1 (l.leads u c.dir c.range).1))
  | none => none

theorem checkLead_eq : checkLead l = l.boundUnits.findSome? l.shortLead? := by
  refine congrArg (fun g => l.boundUnits.findSome? g) (funext fun u => ?_)
  unfold Layout.shortLead?
  cases l.cam.get (intake u) <;> rfl

theorem Layout.mistimed_iff {u : LiftUnit} {c : CamItem} (hc : l.cam.get (intake u) = some c) : l.mistimed u ↔
    ¬ ((l.leads u c.dir 0).1 < (l.leads u c.dir 0).2 ∧ 320 ≤ (l.leads u c.dir 0).1 ∧
      (l.leads u c.dir c.range).1 < (l.leads u c.dir c.range).2 ∧ 320 ≤ (l.leads u c.dir c.range).1) := by
  have hopen := l.leads_fst u c
  have hclose := l.leads_snd u c
  constructor
  · rintro ⟨c', p, hc', rfl | rfl, hp⟩ ⟨h1, h2, h3, h4⟩
    · obtain rfl : c = c' := Option.some.inj (hc.symm.trans hc')
      rw [← hopen, ← hclose] at hp
      omega
    · obtain rfl : c = c' := Option.some.inj (hc.symm.trans hc')
      rw [← hopen, ← hclose] at hp
      omega
  · intro h
    by_cases h0 : (l.leads u c.dir 0).1 < (l.leads u c.dir 0).2 ∧ 320 ≤ (l.leads u c.dir 0).1
    · refine ⟨c, c.range, hc, .inr rfl, ?_⟩
      rw [← hopen, ← hclose]
      omega
    · refine ⟨c, 0, hc, .inl rfl, ?_⟩
      rw [← hopen, ← hclose]
      omega

theorem Layout.shortLead?_eq_some_iff (u : LiftUnit) (f : LayoutFailure) : l.shortLead? u = some f ↔
    l.mistimed u ∧ ∃ c n, f = .lead u n ∧ l.cam.get (intake u) = some c ∧
      (n : Int) = min (l.ahead u c (l.lift.get u).windowOpen 0) (l.ahead u c (l.lift.get u).windowOpen c.range) := by
  unfold Layout.shortLead?
  cases hc : l.cam.get (intake u) with
  | none =>
    refine ⟨nofun, fun ⟨_, c, n, _, h, _⟩ => by simp at h⟩
  | some c =>
    dsimp only
    rw [Option.ite_none_left_eq_some, ← l.mistimed_iff hc, Option.some.injEq]
    refine and_congr_right fun _ => ⟨?_, ?_⟩
    · rintro rfl
      refine ⟨c, _, rfl, rfl, ?_⟩
      rw [← l.leads_fst, ← l.leads_fst, Nat.cast_min]
    · rintro ⟨c', n, rfl, hc', hn⟩
      obtain rfl := Option.some.inj hc'
      rw [← l.leads_fst, ← l.leads_fst, ← Nat.cast_min] at hn
      rw [Int.ofNat.inj hn]

theorem Layout.shortLead?_ne_none_iff (u : LiftUnit) : l.shortLead? u ≠ none ↔ l.mistimed u := by
  constructor
  · intro h
    obtain ⟨f, hf⟩ := Option.ne_none_iff_exists'.mp h
    exact ((l.shortLead?_eq_some_iff u f).mp hf).1
  · rintro hm
    obtain ⟨c, p, hc, -⟩ := id hm
    unfold Layout.shortLead?
    rw [hc]
    dsimp only
    rw [if_neg ((l.mistimed_iff hc).mp hm)]
    exact Option.some_ne_none _

theorem checkLead_iff (f : LayoutFailure) : checkLead l = some f ↔ ∃ u c n, f = .lead u n ∧
    firstUnit (fun v => l.bindsUnit v ∧ l.mistimed v) u ∧ l.cam.get (intake u) = some c ∧
    (n : Int) = min (l.ahead u c (l.lift.get u).windowOpen 0) (l.ahead u c (l.lift.get u).windowOpen c.range) := by
  rw [checkLead_eq, l.findSome?_boundUnits _ l.mistimed l.shortLead?_ne_none_iff]
  simp only [l.shortLead?_eq_some_iff]
  constructor
  · rintro ⟨u, hu, -, c, n, rfl, hc, hn⟩
    exact ⟨u, c, n, rfl, hu, hc, hn⟩
  · rintro ⟨u, c, n, rfl, hu, hc, hn⟩
    exact ⟨u, hu, hu.1.2, c, n, rfl, hc, hn⟩

end

/-! ### MODE RUN and RSET refused (R175, R176) -/

section
variable {s : State} {fields : List Field}

theorem State.doModeRun_of_malformed (h : fields ≠ [.word .RUN]) :
    s.doModeRun fields = s.dropValidation.answer .MODE .format := if_pos h

theorem State.doModeRun_word (s : State) : s.doModeRun [.word .RUN] =
    if s.smc.mode = .run then s.dropValidation.answer .MODE .mode
    else
      match validate s.tbm.layoutOrigin s.tbm.layout with
      | some f => State.answer { s with tbm := { s.tbm with validation := some f } } .MODE .layout (failureFields f)
      | none => s.dropValidation.enterRun.answer .MODE .ok := by
  have hrun : s.dropValidation.inRun = true ↔ s.smc.mode = .run := State.inRun_iff _
  unfold State.doModeRun
  simp only [hrun]
  exact if_neg (not_not_intro rfl)

theorem State.doModeRun_of_run (h : s.smc.mode = .run) :
    s.doModeRun [.word .RUN] = s.dropValidation.answer .MODE .mode := by
  rw [State.doModeRun_word, if_pos h]

theorem State.doModeRun_of_invalid (h : s.smc.mode = .standby) {f : LayoutFailure}
    (hf : validate s.tbm.layoutOrigin s.tbm.layout = some f) : s.doModeRun [.word .RUN] =
      State.answer { s with tbm := { s.tbm with validation := some f } } .MODE .layout (failureFields f) := by
  rw [State.doModeRun_word, if_neg (by simp [h]), hf]

theorem State.doModeRun_of_valid (h : s.smc.mode = .standby)
    (hf : validate s.tbm.layoutOrigin s.tbm.layout = none) :
    s.doModeRun [.word .RUN] = s.dropValidation.enterRun.answer .MODE .ok := by
  rw [State.doModeRun_word, if_neg (by simp [h]), hf]

theorem exec_modeRun_of_begins {t : State} (hb : s.begins .MODE fields t) (h : fields ≠ [.word .STANDBY]) :
    exec (.modeRun fields) s = .next (t.doModeRun fields) := by
  have he : exec (.modeRun fields) s = execModeRun fields s := rfl
  rw [he, execModeRun, if_neg h, State.request_of_begins _ hb]

theorem exec_rset_of_begins {t : State} (hb : s.begins .RSET fields t) :
    exec (.rset fields) s = .next (t.disarm.doRset fields (t.armed .reset)) :=
  exec_of_begins (act := fun s => s.disarm.doRset fields (s.armed .reset)) rfl hb

end

/-! ### The obligation -/

/-- Settles O14: the refusals, the twelve checks each by its own lemma, and the fields each failure is answered with. -/
theorem modeRunAndRsetRefusals : Obligations.ModeRunAndRsetRefusals := by
  refine ⟨fun s t fields hb hf => ?_, fun s t fields hb => ?_, fun o l => ?_, fun ch u k n a b kind x => ?_⟩
  · have he := exec_modeRun_of_begins hb hf
    obtain ⟨-, rfl⟩ := hb
    refine ⟨fun hr => ?_, ?_, ?_⟩
    · rw [he, State.doModeRun_of_malformed hr]
      rfl
    · rintro rfl hm
      exact he.trans (congrArg Host.Outcome.next (State.doModeRun_of_run (s := s.begun .MODE) hm))
    · rintro f rfl hm hv
      exact he.trans (congrArg Host.Outcome.next (State.doModeRun_of_invalid (s := s.begun .MODE) hm hv))
  · intro t'
    have he := exec_rset_of_begins hb
    have harmed : t.armed .reset = s.armed .reset := by
      unfold State.armed
      obtain ⟨-, rfl⟩ := hb
      rfl
    rw [harmed] at he
    refine ⟨fun hn => ?_, ?_, ?_⟩
    · rw [he, State.doRset, if_pos hn]
      rfl
    · rintro rfl hno
      have hfalse : s.armed .reset = false := Bool.eq_false_iff.mpr fun h =>
        (State.armed_iff s .reset).mp h |>.elim hno
      rw [he, hfalse]
      rfl
    · rintro x rfl hx
      rw [he, (State.armed_iff s .reset).mpr ⟨x, hx⟩]
      rfl
  · intro first firstU bound boundUnit partly partlyUnit references descent tight owns clash free ahead open_ late count
    have hahead (u : LiftUnit) (c : CamItem) (a : Option Nat) (p : Nat) : ahead u c a p = l.ahead u c a p := by
      cases hd : c.dir <;> simp only [ahead, Layout.ahead, hd]
    have hclash (kind : ConflictKind) (x : LineABCD) (a b : Nat) : clash kind x a b ↔ l.clashes kind x a b := by
      cases kind <;> exact Iff.rfl
    refine ⟨validate_eq o l, rfl, fun h => ?_, fun w h => ?_, ?_, checkPartial_iff l, checkChannel_iff l,
      checkReference_iff l, checkOrder_iff l, checkOverlap_iff l, fun f => ?_, checkIntake_iff l, fun f => ?_, rfl⟩
    · unfold checkWheel
      rw [h]
    · unfold checkWheel
      rw [h]
      rfl
    · unfold checkCyl
      cases l.cyl <;> rfl
    · simp only [free, hclash]
      exact checkConflict_iff l f
    · simp only [late, open_, hahead]
      exact checkLead_iff l f
  · exact ⟨rfl, rfl, rfl, rfl, rfl, rfl, rfl, rfl, rfl, rfl, rfl, rfl, rfl, rfl, rfl, rfl⟩

end Sys2Proof.Machine
end

section
/-! Proofs about spelled lines (R178; log 18, 19): every field and every request line reads back as what it spells. -/

namespace Sys2Proof.Machine

/-! ### Words -/

/-- The list of the words holds each at its own place. -/
theorem allTokens_get (t : Token) : allTokens[t.ctorIdx]? = some t := by
  cases t <;> rfl

/-- No two words are spelled alike. -/
theorem tokenCodes_nodup : (allTokens.map tokenCodes).Nodup := by decide +kernel

theorem find_token_self (t : Token) : allTokens.find? (fun x => tokenCodes x == tokenCodes t) = some t := by
  have hmem : t ∈ allTokens := List.mem_of_getElem? (allTokens_get t)
  obtain ⟨x, hx⟩ := Option.isSome_iff_exists.mp
    (List.find?_isSome (p := fun x => tokenCodes x == tokenCodes t).mpr ⟨t, hmem, beq_self_eq_true _⟩)
  have hspelled : tokenCodes x = tokenCodes t := by
    have hp := List.find?_some hx
    exact beq_iff_eq.mp hp
  rw [hx, List.inj_on_of_nodup_map tokenCodes_nodup (List.mem_of_find?_eq_some hx) hmem hspelled]

/-- A word begins with a letter. -/
theorem tokenCodes_head (t : Token) : ((tokenCodes t).head?.any fun c => c != 0x2D#8 && digit? c == none) = true := by
  cases t <;> rfl

theorem tokenCodes_ne_dash (t : Token) : (tokenCodes t == [0x2D#8]) = false := by
  cases t <;> rfl

theorem tokenCodes_no_space (t : Token) : (tokenCodes t).all (· != 0x20#8) = true := by
  cases t <;> rfl

/-- One more digit of a decimal value. -/
def readDigit (acc : Option Nat) (c : Byte) : Option Nat := do
  let n ← acc
  let d ← digit? c
  pure (10 * n + d)

theorem readNat?_eq_foldl {l : List Byte} (h : l ≠ []) : readNat? l = l.foldl readDigit (some 0) := by
  cases l with
  | nil => exact absurd rfl h
  | cons c l => rfl

/-- A run of characters that begins with no digit and no minus sign is no decimal value. -/
theorem readInt?_of_head {c : Byte} {l : List Byte} (hc : c ≠ 0x2D#8) (hd : digit? c = none) : readInt? (c :: l) = none := by
  have hnone (l : List Byte) : l.foldl readDigit none = none := by
    induction l with
    | nil => rfl
    | cons c l ih => exact ih
  have hfirst : readDigit (some 0) c = none := by simp [readDigit, hd]
  rw [readInt?, if_neg hc, readNat?_eq_foldl (List.cons_ne_nil c l), List.foldl_cons, hfirst, hnone]
  rfl

theorem readInt?_tokenCodes (t : Token) : readInt? (tokenCodes t) = none := by
  obtain ⟨c, hc, hletter⟩ := (Option.any_eq_true _ _).mp (tokenCodes_head t)
  obtain ⟨l, hl⟩ := List.head?_eq_some_iff.mp hc
  rw [Bool.and_eq_true, bne_iff_ne, beq_iff_eq] at hletter
  rw [hl, readInt?_of_head hletter.1 hletter.2]

theorem readField_tokenCodes (t : Token) : readField (tokenCodes t) = .word t := by
  unfold readField
  rw [if_neg (beq_eq_false_iff_ne.mp (tokenCodes_ne_dash t)), readInt?_tokenCodes]
  dsimp only
  rw [find_token_self]

/-! ### Decimal values (log 19) -/

/-- The character of a digit. -/
def digitCode (d : Nat) : Byte := BitVec.ofNat 8 (48 + d)

theorem digitCode_spelled {d : Nat} (h : d < 10) :
    digit? (digitCode d) = some d ∧ digitCode d ≠ 0x20#8 ∧ digitCode d ≠ 0x2D#8 := by
  interval_cases d <;> decide

theorem digitChar_code {d : Nat} (h : d < 10) : BitVec.ofNat 8 d.digitChar.toNat = digitCode d := by
  interval_cases d <;> rfl

theorem natCodes_eq (n : Nat) :
    natCodes n = if n < 10 then [digitCode n] else natCodes (n / 10) ++ [digitCode (n % 10)] := by
  unfold natCodes
  rw [Nat.toDigits_eq_if (by decide)]
  split
  · next h => rw [List.map_singleton, digitChar_code h]
  · rw [List.map_append, List.map_singleton, digitChar_code (Nat.mod_lt n (by decide))]

theorem natCodes_ne_nil (n : Nat) : natCodes n ≠ [] := by
  unfold natCodes
  simp [Nat.toDigits_ne_nil]

/-- Digits are neither spaces nor minus signs. -/
theorem mem_natCodes (n : Nat) : ∀ c ∈ natCodes n, c ≠ 0x20#8 ∧ c ≠ 0x2D#8 := by
  induction n using Nat.strong_induction_on with
  | _ n ih =>
    intro c hc
    rw [natCodes_eq] at hc
    split at hc
    · next h =>
      rw [List.mem_singleton.mp hc]
      exact (digitCode_spelled h).2
    · next h =>
      rcases List.mem_append.mp hc with hc | hc
      · exact ih (n / 10) (Nat.div_lt_self (by omega) (by decide)) c hc
      · rw [List.mem_singleton.mp hc]
        exact (digitCode_spelled (Nat.mod_lt n (by decide))).2

theorem readDigit_digitCode (n : Nat) {d : Nat} (h : d < 10) : readDigit (some n) (digitCode d) = some (10 * n + d) := by
  simp [readDigit, (digitCode_spelled h).1]

theorem foldl_readDigit_natCodes (n : Nat) : (natCodes n).foldl readDigit (some 0) = some n := by
  induction n using Nat.strong_induction_on with
  | _ n ih =>
    rw [natCodes_eq]
    split
    · next h => rw [List.foldl_cons, readDigit_digitCode 0 h, List.foldl_nil, Nat.mul_zero, Nat.zero_add]
    · next h =>
      rw [List.foldl_append, ih (n / 10) (Nat.div_lt_self (by omega) (by decide)), List.foldl_cons, List.foldl_nil,
        readDigit_digitCode _ (Nat.mod_lt n (by decide)), Nat.div_add_mod]

theorem readNat?_natCodes (n : Nat) : readNat? (natCodes n) = some n := by
  rw [readNat?_eq_foldl (natCodes_ne_nil n), foldl_readDigit_natCodes]

theorem readInt?_intCodes (v : Int) : readInt? (intCodes v) = some v := by
  cases v with
  | ofNat n =>
    obtain ⟨c, l, hl⟩ := List.exists_cons_of_ne_nil (natCodes_ne_nil n)
    have hc : c ≠ 0x2D#8 := (mem_natCodes n c (by rw [hl]; exact List.mem_cons_self)).2
    rw [intCodes, hl, readInt?, if_neg hc, ← hl, readNat?_natCodes]
    rfl
  | negSucc n =>
    rw [intCodes, readInt?, if_pos rfl, readNat?_natCodes]
    rfl

theorem intCodes_ne_dash (v : Int) : intCodes v ≠ [0x2D#8] := by
  intro h
  have hv := readInt?_intCodes v
  rw [h] at hv
  cases hv

theorem readField_intCodes (v : Int) : readField (intCodes v) = .num v := by
  unfold readField
  rw [if_neg (intCodes_ne_dash v), readInt?_intCodes]

theorem mem_intCodes (v : Int) : ∀ c ∈ intCodes v, c ≠ 0x20#8 := by
  cases v with
  | ofNat n => exact fun c hc => (mem_natCodes n c hc).1
  | negSucc n =>
    intro c hc
    rcases List.mem_cons.mp hc with rfl | hc
    · decide
    · exact (mem_natCodes (n + 1) c hc).1

/-! ### Fields -/

/-- A field that a request is made of: a decimal value, a word, or "-". -/
def plainField (f : Field) : Prop := f = .absent ∨ (∃ v, f = .num v) ∨ ∃ t, f = .word t

theorem readField_fieldCodes {f : Field} (h : plainField f) : readField (fieldCodes f) = f := by
  rcases h with rfl | ⟨v, rfl⟩ | ⟨t, rfl⟩
  · rfl
  · exact readField_intCodes v
  · exact readField_tokenCodes t

theorem mem_fieldCodes {f : Field} (h : plainField f) : ∀ c ∈ fieldCodes f, c ≠ 0x20#8 := by
  rcases h with rfl | ⟨v, rfl⟩ | ⟨t, rfl⟩
  · intro c hc
    rw [List.mem_singleton.mp hc]
    decide
  · exact mem_intCodes v
  · exact fun c hc => by simpa using List.all_eq_true.mp (tokenCodes_no_space t) c hc

/-! ### Lines -/

theorem splitSpaces_space (l : List Byte) : splitSpaces (0x20#8 :: l) = [] :: splitSpaces l := rfl

theorem splitSpaces_cons {c : Byte} (hc : c ≠ 0x20#8) {l h : List Byte} {t : List (List Byte)}
    (hl : splitSpaces l = h :: t) : splitSpaces (c :: l) = (c :: h) :: t := by
  have hstep : splitSpaces (c :: l) = if c = 0x20#8 then [] :: splitSpaces l else
      match splitSpaces l with
      | [] => [[c]]
      | h :: t => (c :: h) :: t := rfl
  rw [hstep, if_neg hc, hl]

/-- A run of characters without a space joins what follows it up to the next one. -/
theorem splitSpaces_append {k l h : List Byte} {t : List (List Byte)} (hk : ∀ c ∈ k, c ≠ 0x20#8)
    (hl : splitSpaces l = h :: t) : splitSpaces (k ++ l) = (k ++ h) :: t := by
  induction k with
  | nil => exact hl
  | cons c k ih =>
    obtain ⟨hc, hk⟩ := List.forall_mem_cons.mp hk
    exact splitSpaces_cons hc (ih hk)

theorem splitSpaces_words (k : List Byte) (ws : List (List Byte)) (hk : ∀ c ∈ k, c ≠ 0x20#8)
    (hw : ∀ w ∈ ws, ∀ c ∈ w, c ≠ 0x20#8) : splitSpaces (k ++ ws.flatMap fun w => 0x20#8 :: w) = k :: ws := by
  induction ws generalizing k with
  | nil =>
    have hend : splitSpaces [] = [[]] := rfl
    rw [List.flatMap_nil, splitSpaces_append hk hend, List.append_nil]
  | cons w ws ih =>
    obtain ⟨hw, hws⟩ := List.forall_mem_cons.mp hw
    have hrest := ih w hw hws
    have hspace : splitSpaces ((w :: ws).flatMap fun w => 0x20#8 :: w) = [] :: w :: ws := by
      rw [List.flatMap_cons, List.cons_append, splitSpaces_space, hrest]
    rw [splitSpaces_append hk hspace, List.append_nil]

theorem hexDigit?_hexDigit {n : Nat} (h : n < 16) : hexDigit? (hexDigit n) = some n := by
  interval_cases n <;> rfl

theorem splitLine_codes (k : LineKey) (fields : List Field) : splitLine (Line.mk .request k fields).codes =
    some ((Line.mk .request k fields).body, checksum (Line.mk .request k fields).body) := by
  generalize hl : Line.mk .request k fields = l
  have hlead : leadCode l.lead = 0x3E#8 := by
    rw [← hl]
    rfl
  rw [splitLine_eq_some_iff_parts]
  refine ⟨hexDigit ((checksum l.body).toNat / 16), hexDigit ((checksum l.body).toNat % 16), _, _,
    hexDigit?_hexDigit ?_, hexDigit?_hexDigit (Nat.mod_lt _ (by decide)), ?_, (Nat.div_add_mod _ _).symm⟩
  · have := (checksum l.body).isLt
    omega
  · rw [Line.codes, hlead]
    rfl

/-- No keyword has a space in it. -/
theorem mem_keywordCodes (k : Keyword) : ∀ c ∈ keywordCodes k, c ≠ 0x20#8 := by
  intro c hc h
  have hall := List.all_eq_true.mp (keywordCodes_capital k) c hc
  rw [h] at hall
  exact absurd hall (by decide)

/-- Settles O6: the line splits at its end and its spaces, and each part reads back. -/
theorem requestLinesReadBack : Obligations.RequestLinesReadBack := by
  intro k fields hf
  have hplain : ∀ f ∈ fields, plainField f := hf
  have hbody : (Line.mk .request (.kw k) fields).body =
      keywordCodes k ++ (fields.map fieldCodes).flatMap fun w => 0x20#8 :: w := by
    rw [List.flatMap_map]
    rfl
  have hsplit : splitSpaces (Line.mk .request (.kw k) fields).body = keywordCodes k :: fields.map fieldCodes := by
    rw [hbody]
    refine splitSpaces_words _ _ (mem_keywordCodes k) fun w hw => ?_
    obtain ⟨f, hfm, rfl⟩ := List.mem_map.mp hw
    exact mem_fieldCodes (hplain f hfm)
  have hread : (fields.map fieldCodes).map readField = fields := by
    rw [List.map_map]
    exact (List.map_congr_left fun f hfm => readField_fieldCodes (hplain f hfm)).trans (List.map_id fields)
  rw [checkLine_of_keyword rfl rfl (splitLine_codes (.kw k) fields) rfl hsplit rfl, hread]

end Sys2Proof.Machine
end

section
/-! Proofs about the schedule plan at RUN entry (R42, R44): its entries, and that no kind comes twice. -/

namespace Sys2Proof.Machine

section
variable (l : Layout)

theorem Layout.mem_boundChans (ch : Chan) : ch ∈ l.boundChans ↔ (l.bind.get ch).bound = true := by
  rw [Layout.boundChans, List.mem_filter]
  exact and_iff_right (mem_allChans ch)

theorem Layout.mem_boundUnits (u : LiftUnit) : u ∈ l.boundUnits ↔ (l.lift.get u).bound = true := by
  rw [Layout.boundUnits, List.mem_filter]
  exact and_iff_right (mem_allUnits u)

theorem Layout.mem_chanPlan (ch : Chan) (p : PlanEntry) : p ∈ l.chanPlan ch ↔ ∃ c k e, l.cam.get ch = some c ∧
    (l.edges.get ch)[k]? = some e ∧ p = ⟨c.windowEnd e.angle, .edgeClose ch (k + 1), none⟩ := by
  unfold Layout.chanPlan
  cases hc : l.cam.get ch with
  | none => simp
  | some c =>
    simp only [List.mem_mapIdx, Option.some.injEq]
    constructor
    · rintro ⟨i, hi, rfl⟩
      exact ⟨c, i, _, rfl, List.getElem?_eq_getElem hi, rfl⟩
    · rintro ⟨_, k, e, rfl, he, rfl⟩
      obtain ⟨hk, rfl⟩ := List.getElem?_eq_some_iff.mp he
      exact ⟨k, hk, rfl⟩

theorem Layout.mem_plan (p : PlanEntry) : p ∈ l.plan ↔ p = ⟨0, .cycleStart, none⟩ ∨
    (∃ ch, (l.bind.get ch).bound = true ∧ p ∈ l.chanPlan ch) ∨
    ∃ u, (l.lift.get u).bound = true ∧ p ∈ l.unitPlan u := by
  simp only [Layout.plan, List.cons_append, List.mem_cons, List.mem_append, List.mem_flatMap, l.mem_boundChans,
    l.mem_boundUnits]

/-! ### No kind twice -/

theorem Layout.mem_chanPlan_kinds {ch : Chan} {k : EntryKind} (h : k ∈ (l.chanPlan ch).map PlanEntry.kind) :
    ∃ i, k = .edgeClose ch i := by
  obtain ⟨p, hp, rfl⟩ := List.mem_map.mp h
  obtain ⟨c, k, e, -, -, rfl⟩ := (l.mem_chanPlan ch p).mp hp
  exact ⟨k + 1, rfl⟩

theorem Layout.unitPlan_kinds (u : LiftUnit) :
    (l.unitPlan u).map PlanEntry.kind = [.liftDecide u, .liftOpen u, .liftClose u] := rfl

theorem Layout.chanPlan_nodup (ch : Chan) : ((l.chanPlan ch).map PlanEntry.kind).Nodup := by
  unfold Layout.chanPlan
  cases l.cam.get ch with
  | none => exact List.nodup_nil
  | some c =>
    dsimp only
    rw [List.Nodup, List.pairwise_iff_getElem]
    intro i j hi hj hij h
    simp only [List.getElem_map, List.getElem_mapIdx, EntryKind.edgeClose.injEq, true_and] at h
    omega

theorem Layout.plan_kinds_nodup : (l.plan.map PlanEntry.kind).Nodup := by
  have hchans : ((l.boundChans.flatMap l.chanPlan).map PlanEntry.kind).Nodup := by
    rw [List.map_flatMap, List.nodup_flatMap]
    refine ⟨fun ch _ => l.chanPlan_nodup ch, (allChans_nodup.filter _).imp fun hne k ha hb => ?_⟩
    obtain ⟨i, rfl⟩ := l.mem_chanPlan_kinds ha
    obtain ⟨j, hj⟩ := l.mem_chanPlan_kinds hb
    cases hj
    exact hne rfl
  have hunits : ((l.boundUnits.flatMap l.unitPlan).map PlanEntry.kind).Nodup := by
    rw [List.map_flatMap, List.nodup_flatMap]
    refine ⟨fun u _ => by simp [l.unitPlan_kinds], (allUnits_nodup.filter _).imp fun hne k ha hb => ?_⟩
    simp only [l.unitPlan_kinds, List.mem_cons, List.not_mem_nil, or_false] at ha hb
    rcases ha with rfl | rfl | rfl <;> simp_all
  have hchan {k : EntryKind} (h : k ∈ (l.boundChans.flatMap l.chanPlan).map PlanEntry.kind) :
      ∃ ch i, k = .edgeClose ch i := by
    rw [List.map_flatMap] at h
    obtain ⟨ch, -, hk⟩ := List.mem_flatMap.mp h
    exact ⟨ch, l.mem_chanPlan_kinds hk⟩
  have hunit {k : EntryKind} (h : k ∈ (l.boundUnits.flatMap l.unitPlan).map PlanEntry.kind) :
      ∃ u, k = .liftDecide u ∨ k = .liftOpen u ∨ k = .liftClose u := by
    rw [List.map_flatMap] at h
    obtain ⟨u, -, hk⟩ := List.mem_flatMap.mp h
    rw [l.unitPlan_kinds] at hk
    simp only [List.mem_cons, List.not_mem_nil, or_false] at hk
    exact ⟨u, hk⟩
  rw [Layout.plan, List.cons_append, List.map_cons, List.map_append, List.nodup_cons, List.nodup_append]
  refine ⟨fun hm => ?_, hchans, hunits, fun a ha b hb hab => ?_⟩
  · rcases List.mem_append.mp hm with hm | hm
    · obtain ⟨ch, i, he⟩ := hchan hm
      cases he
    · obtain ⟨u, he | he | he⟩ := hunit hm <;> cases he
  · obtain ⟨ch, i, rfl⟩ := hchan ha
    obtain ⟨u, rfl | rfl | rfl⟩ := hunit hb <;> cases hab

end

end Sys2Proof.Machine
end

section
/-! Proofs about the channels at RUN entry (R74): what each becomes, and what it sends. -/

namespace Sys2Proof.Machine

section
variable (s : State) (ch : Chan)

/-- The state a channel takes at RUN entry, before the records of its output are looked at. -/
def State.entryState : ChanState :=
  if (s.phc.chans.get ch).state = .lockout then .lockout else if s.chanBound ch then .parked else .unused

/-- A driver record of the channel's output is held. -/
def State.heldAtEntry : Bool := (s.chanDriver ch).any s.outFaulted

theorem State.heldAtEntry_iff : s.heldAtEntry ch = true ↔ s.driverHeld ch := by
  unfold State.heldAtEntry State.driverHeld
  rw [Option.any_eq_true]
  simp only [s.outFaulted_iff]

/-- The channel's record at RUN entry in the state `st`. -/
def State.entryRec (st : ChanState) : ChanRec :=
  { s.phc.chans.get ch with
    state := st, holds := .empty, duty := 0, integral := 0, learned := (s.tune ch).hold0
    stuck := { (s.phc.chans.get ch).stuck with watching := false, reference := 0 }
    timer := none, inBand := 0, parkCount := 0 }

/-- The state a channel is in after RUN entry. -/
def State.enteredState : ChanState :=
  if s.entryState ch = .parked ∧ s.heldAtEntry ch = true then .faulted else s.entryState ch

/-- What a channel's RUN entry sends. -/
def State.entryNews : List Handover :=
  (if s.entryState ch = (s.phc.chans.get ch).state then []
    else s.chanNews ch (s.entryState ch) (s.phc.chans.get ch).state .run none) ++
  if s.entryState ch = .parked ∧ s.heldAtEntry ch = true then
    s.dutyNews ch 0 true ++ s.chanNews ch .faulted .parked .driver none
  else []

theorem State.entryState_ne_holding : s.entryState ch ≠ .holding := by
  unfold State.entryState
  split_ifs <;> simp

theorem State.faultIfHeld_putChan (st : ChanState) (l : List Handover) :
    (s.putChan ch (s.entryRec ch st) l).faultIfHeld ch =
      if st = .parked ∧ s.heldAtEntry ch = true then
        s.putChan ch (s.entryRec ch .faulted) (l ++ (s.dutyNews ch 0 true ++ s.chanNews ch .faulted .parked .driver none))
      else s.putChan ch (s.entryRec ch st) l := by
  have hheld : (s.putChan ch (s.entryRec ch st) l).driverHeld ch ↔ s.driverHeld ch := Iff.rfl
  by_cases hp : st = .parked
  · subst hp
    by_cases hh : s.driverHeld ch
    · rw [if_pos ⟨rfl, (s.heldAtEntry_iff ch).mpr hh⟩,
        State.faultIfHeld_of_held (by rw [State.putChan_get]; rfl) (hheld.mpr hh), State.faulted_eq, State.putChan_get,
        State.putChan_putChan]
      rfl
    · rw [if_neg fun h => hh ((s.heldAtEntry_iff ch).mp h.2), State.faultIfHeld_of_not_held (mt hheld.mp hh)]
  · rw [if_neg fun h => hp h.1]
    unfold State.faultIfHeld
    rw [State.putChan_get]
    split
    · next h _ => exact absurd h hp
    · rfl

theorem State.phcEnterChan_eq :
    s.phcEnterChan ch = s.putChan ch (s.entryRec ch (s.enteredState ch)) (s.entryNews ch) := by
  have hbody : s.phcEnterChan ch = State.faultIfHeld
      (if s.entryState ch = (s.phc.chans.get ch).state then s.putChan ch (s.entryRec ch (s.entryState ch)) []
        else (s.putChan ch (s.entryRec ch (s.entryState ch)) []).afterChange ch (s.phc.chans.get ch).state .run) ch := by
    rw [← State.setChan_eq_putChan]
    rfl
  have hholding : (if s.entryState ch = .holding then some (s.entryRec ch (s.entryState ch)).holds else none) = none :=
    if_neg (s.entryState_ne_holding ch)
  have hafter : (if s.entryState ch = (s.phc.chans.get ch).state then s.putChan ch (s.entryRec ch (s.entryState ch)) []
      else (s.putChan ch (s.entryRec ch (s.entryState ch)) []).afterChange ch (s.phc.chans.get ch).state .run) =
      s.putChan ch (s.entryRec ch (s.entryState ch)) (if s.entryState ch = (s.phc.chans.get ch).state then []
        else s.chanNews ch (s.entryState ch) (s.phc.chans.get ch).state .run none) := by
    split
    · rfl
    · rw [State.afterChange_eq, State.putChan_get, State.putChan_sends, List.nil_append, State.putChan_chanNews]
      exact congrArg (fun x => s.putChan ch _ (s.chanNews ch (s.entryState ch) (s.phc.chans.get ch).state .run x)) hholding
  rw [hbody, hafter, State.faultIfHeld_putChan]
  unfold State.enteredState State.entryNews
  split
  · rfl
  · rw [List.append_nil]

end

/-- A loop over the channels whose turns each set their own channel's record, by what the other turns leave alone. -/
theorem forEach_putChan {f : State → Chan → State} {F : State → Chan → ChanRec} {N : State → Chan → List Handover}
    (hf : ∀ q ch, f q ch = q.putChan ch (F q ch) (N q ch))
    (hF : ∀ q c x l ch, c ≠ ch → F (State.putChan q c x l) ch = F q ch)
    (hN : ∀ q c x l ch, c ≠ ch → N (State.putChan q c x l) ch = N q ch) (s : State) :
    forEach allChans f s = State.sends
      { s with phc := { s.phc with chans := s.phc.chans.map fun ch _ => F s ch } } (allChans.flatMap (N s)) := by
  have hflat : allChans.flatMap (N s) = N s .IN1 ++ (N s .EX1 ++ (N s .IN2 ++ N s .EX2)) := by simp [allChans]
  have hall : forEach allChans f s = f (f (f (f s .IN1) .EX1) .IN2) .EX2 := rfl
  rw [hall, hflat]
  simp only [hf, hF, hN, ne_eq, reduceCtorEq, not_false_eq_true]
  simp only [State.putChan, State.sends, List.append_assoc]
  rfl

section
variable (q : State) {c ch : Chan} (x : ChanRec) (l : List Handover) (h : c ≠ ch)
include h

theorem State.putChan_get_ne : (q.putChan c x l).phc.chans.get ch = q.phc.chans.get ch :=
  (PerChan.get_set _ c ch _).trans (if_neg h)

theorem State.putChan_entryState : (q.putChan c x l).entryState ch = q.entryState ch := by
  unfold State.entryState
  rw [State.putChan_get_ne q x l h]
  rfl

theorem State.putChan_enteredState : (q.putChan c x l).enteredState ch = q.enteredState ch := by
  have hheld : (q.putChan c x l).heldAtEntry ch = q.heldAtEntry ch := rfl
  unfold State.enteredState
  rw [State.putChan_entryState q x l h, hheld]

theorem State.putChan_entryRec (st : ChanState) : (q.putChan c x l).entryRec ch st = q.entryRec ch st := by
  unfold State.entryRec
  rw [State.putChan_get_ne q x l h]
  rfl

theorem State.putChan_entryNews : (q.putChan c x l).entryNews ch = q.entryNews ch := by
  have hheld : (q.putChan c x l).heldAtEntry ch = q.heldAtEntry ch := rfl
  unfold State.entryNews
  rw [State.putChan_entryState q x l h, hheld, State.putChan_get_ne q x l h]
  rfl

end

/-- Every channel's RUN entry goes by the state as the entries begin. -/
theorem forEach_phcEnterChan (s : State) : forEach allChans State.phcEnterChan s = State.sends
    { s with phc := { s.phc with chans := s.phc.chans.map fun ch _ => s.entryRec ch (s.enteredState ch) } }
    (allChans.flatMap s.entryNews) :=
  forEach_putChan State.phcEnterChan_eq
    (fun q c x l ch h => by rw [State.putChan_enteredState q x l h, State.putChan_entryRec q x l h])
    (fun q c x l ch h => State.putChan_entryNews q x l h) s

theorem State.phcEnterRun_eq (s : State) : s.phcEnterRun = State.sends
    { s with phc := { s.phc with
      lowOilRun := 0, chans := s.phc.chans.map fun ch _ => s.entryRec ch (s.enteredState ch) } }
    (allChans.flatMap s.entryNews) := forEach_phcEnterChan { s with phc := { s.phc with lowOilRun := 0 } }

/-! ### What the news tell -/

/-- Neither a drive of an output nor a channel's change of state. -/
def Handover.quiet : Handover → Bool
  | .dutyWrite _ _ _ => false
  | .solenoid _ _ => false
  | .notice _ (.chs _ _ _ _ _ _) => false
  | _ => true

section
variable {s : State} {ch : Chan}

theorem State.mem_chanNews {new old : ChanState} {cause : ChanCause} {holds : Option HoldCauses} {h : Handover}
    (hm : h ∈ s.chanNews ch new old cause holds) : h = .notice .phc (.chs ch new old cause holds s.ckt.cycles) ∨
      (∃ o, h = .enableEvaluation (.ocv o)) ∨ h = .lockoutChange := by
  rcases List.mem_append.mp hm with hm | hm
  · rcases List.mem_append.mp hm with hm | hm
    · exact .inl (List.mem_singleton.mp hm)
    · obtain ⟨o, -, rfl⟩ := List.mem_map.mp hm
      exact .inr (.inl ⟨o, rfl⟩)
  · split at hm
    · exact absurd hm List.not_mem_nil
    · exact .inr (.inr (List.mem_singleton.mp hm))

/-- A channel's RUN entry writes a duty only as it enters FAULTED: 0, immediate. -/
theorem State.dutyWrite_mem_entryNews {o : LineABCD} {d : Nat} {i : Bool} (h : .dutyWrite o d i ∈ s.entryNews ch) :
    d = 0 ∧ i = true ∧ s.chanDriver ch = some o ∧ s.enteredState ch = .faulted := by
  have hnone {new old : ChanState} {cause : ChanCause} : .dutyWrite o d i ∉ s.chanNews ch new old cause none := by
    intro hm
    rcases State.mem_chanNews hm with h | ⟨_, h⟩ | h <;> cases h
  rcases List.mem_append.mp h with h | h
  · split at h
    · exact absurd h List.not_mem_nil
    · exact absurd h hnone
  · split at h
    · next hf =>
      rcases List.mem_append.mp h with h | h
      · obtain ⟨o', ho', he⟩ := List.mem_map.mp h
        obtain ⟨rfl, rfl, rfl⟩ : o' = o ∧ 0 = d ∧ true = i := by simpa using he
        exact ⟨rfl, rfl, Option.mem_toList.mp ho', if_pos hf⟩
      · exact absurd h hnone
    · exact absurd h List.not_mem_nil

theorem State.solenoid_not_mem_entryNews (o : LineAB) (on : Bool) : .solenoid o on ∉ s.entryNews ch := by
  have hnone {new old : ChanState} {cause : ChanCause} : .solenoid o on ∉ s.chanNews ch new old cause none := by
    intro hm
    rcases State.mem_chanNews hm with h | ⟨_, h⟩ | h <;> cases h
  intro h
  rcases List.mem_append.mp h with h | h
  · split at h
    · exact absurd h List.not_mem_nil
    · exact absurd h hnone
  · split at h
    · rcases List.mem_append.mp h with h | h
      · obtain ⟨o', -, he⟩ := List.mem_map.mp h
        cases he
      · exact absurd h hnone
    · exact absurd h List.not_mem_nil

/-- A notice of a change of state with cause RUN is of the channel's own change. -/
theorem State.chs_mem_entryNews {c : Chan} {a b : ChanState} {holds : Option HoldCauses} {n : Word32}
    (h : .notice .phc (.chs c a b .run holds n) ∈ s.entryNews ch) :
    c = ch ∧ s.entryState ch ≠ (s.phc.chans.get ch).state := by
  rcases List.mem_append.mp h with h | h
  · split at h
    · exact absurd h List.not_mem_nil
    · next hne =>
      rcases State.mem_chanNews h with h | ⟨_, h⟩ | h
      · cases h
        exact ⟨rfl, hne⟩
      · cases h
      · cases h
  · split at h
    · rcases List.mem_append.mp h with h | h
      · obtain ⟨o', -, he⟩ := List.mem_map.mp h
        cases he
      · rcases State.mem_chanNews h with h | ⟨_, h⟩ | h <;> cases h
    · exact absurd h List.not_mem_nil

end

end Sys2Proof.Machine
end

section
/-! Proofs about the lift units at RUN entry (R124, R125, R134): what each becomes, and what it sends. -/

namespace Sys2Proof.Machine

section
variable (s : State) (u : LiftUnit)

/-- The confirmation record of the unit is held. -/
def State.noConfirmHeld : Bool := (s.fmg.table.liftNoConfirm.get u).held

/-- The unit's record at RUN entry in the state `st`. -/
def State.unitEntryRec (st : LiftState) (reported : Bool) : UnitRec :=
  { s.lfs.units.get u with
    state := st, attempts := 0, claim := false, travel := none, test := none, posTally := 0, posReported := reported }

/-- The state a bound unit takes at RUN entry. -/
def State.unitEntryState : LiftState :=
  if s.noConfirmHeld u = true ∨ s.lsFaulted u = true then .stuck else settledAt (s.senseHigh u)

/-- The unit's record after RUN entry. -/
def State.enteredUnit : UnitRec :=
  if s.unitBound u = true then s.unitEntryRec u (s.unitEntryState u) (s.lfs.units.get u).posReported
  else s.unitEntryRec u .low false

/-- What a unit's RUN entry sends. -/
def State.unitEntryNews : List Handover :=
  if s.unitBound u = true then
    s.liftNews u (settledAt (s.senseHigh u)) (s.lfs.units.get u).state .run ++
      if s.noConfirmHeld u = true then s.liftNews u .stuck (settledAt (s.senseHigh u)) .noConfirm
      else if s.lsFaulted u = true then s.liftNews u .stuck (settledAt (s.senseHigh u)) .driver
      else []
  else if (s.lfs.units.get u).posReported = true then [.report .lfs (.liftPosition u) .gone]
  else []

theorem State.setLift_putUnit_of_shown {new : LiftState} (hn : new = .high ∨ new = .low ∨ new = .stuck)
    (cause : LiftCause) (x : UnitRec) (l : List Handover) : (s.putUnit u x l).setLift u new cause =
      s.putUnit u { x with state := new, posTally := 0 } (l ++ s.liftNews u new x.state cause) := by
  rw [State.setLift_eq, State.entered, State.putUnit_putUnit, State.putUnit_get, State.putUnit_liftNews, if_pos hn]

theorem settledAt_shown (high : Bool) : settledAt high = .high ∨ settledAt high = .low ∨ settledAt high = .stuck := by
  cases high <;> simp [settledAt]

theorem State.lfsEnterUnit_eq : s.lfsEnterUnit u = s.putUnit u (s.enteredUnit u) (s.unitEntryNews u) := by
  have hbound (x : UnitRec) : (s.putUnit u x []).unitBound u = s.unitBound u := rfl
  have hsense (x : UnitRec) : (s.putUnit u x []).senseHigh u = s.senseHigh u := rfl
  have hheld (x : UnitRec) (l : List Handover) :
      ((s.putUnit u x l).fmg.table.liftNoConfirm.get u).held = s.noConfirmHeld u := rfl
  have hfaulted (x : UnitRec) (l : List Handover) : (s.putUnit u x l).lsFaulted u = s.lsFaulted u := rfl
  unfold State.lfsEnterUnit State.enteredUnit State.unitEntryNews State.unitEntryState
  dsimp only
  rw [State.updUnit_eq_putUnit, hbound]
  by_cases hb : s.unitBound u = true
  · rw [if_pos hb, if_pos hb, if_pos hb, hsense, State.setLift_putUnit_of_shown s u (settledAt_shown _), hheld, hfaulted,
      State.setLift_putUnit_of_shown s u (.inr (.inr rfl)), State.setLift_putUnit_of_shown s u (.inr (.inr rfl))]
    by_cases hn : s.noConfirmHeld u = true
    · rw [if_pos hn, if_pos hn, if_pos (.inl hn)]
      rfl
    · rw [if_neg hn, if_neg hn]
      by_cases hf : s.lsFaulted u = true
      · rw [if_pos hf, if_pos hf, if_pos (.inr hf)]
        rfl
      · rw [if_neg hf, if_neg hf, if_neg (by tauto), List.append_nil]
        rfl
  · rw [if_neg hb, if_neg hb, if_neg hb, State.updUnit_eq_putUnit, State.putUnit_get, State.putUnit_putUnit]
    by_cases hr : (s.lfs.units.get u).posReported = true
    · rw [if_pos hr, if_pos hr, State.report_eq_sends, State.putUnit_sends]
      rfl
    · rw [if_neg hr, if_neg hr]
      rfl

theorem State.liftNews_quiet (new old : LiftState) (cause : LiftCause) :
    ∀ h ∈ s.liftNews u new old cause, h.quiet = true := by
  intro h hm
  rcases List.mem_append.mp hm with hm | hm
  · obtain ⟨o, -, rfl⟩ := List.mem_map.mp hm
    rfl
  · obtain ⟨-, hm⟩ := List.mem_ite_nil_right.mp hm
    rw [List.mem_singleton.mp hm]
    rfl

theorem State.unitEntryNews_quiet : ∀ h ∈ s.unitEntryNews u, h.quiet = true := by
  intro h hm
  unfold State.unitEntryNews at hm
  split_ifs at hm with hb hn hf hr
  · exact (List.mem_append.mp hm).elim (s.liftNews_quiet u _ _ _ h) (s.liftNews_quiet u _ _ _ h)
  · exact (List.mem_append.mp hm).elim (s.liftNews_quiet u _ _ _ h) (s.liftNews_quiet u _ _ _ h)
  · rw [List.append_nil] at hm
    exact s.liftNews_quiet u _ _ _ h hm
  · rw [List.mem_singleton.mp hm]
    rfl
  · exact absurd hm List.not_mem_nil

end

/-- A loop over the units whose turns each set their own unit's record, by what the other turns leave alone. -/
theorem forEach_putUnit {f : State → LiftUnit → State} {F : State → LiftUnit → UnitRec}
    {N : State → LiftUnit → List Handover} (hf : ∀ q u, f q u = q.putUnit u (F q u) (N q u))
    (hF : ∀ q v x l u, v ≠ u → F (State.putUnit q v x l) u = F q u)
    (hN : ∀ q v x l u, v ≠ u → N (State.putUnit q v x l) u = N q u) (s : State) :
    forEach allUnits f s = State.sends
      { s with lfs := { s.lfs with units := s.lfs.units.map fun u _ => F s u } } (allUnits.flatMap (N s)) := by
  have hflat : allUnits.flatMap (N s) = N s .L1 ++ N s .L2 := by simp [allUnits]
  have hall : forEach allUnits f s = f (f s .L1) .L2 := rfl
  rw [hall, hflat]
  simp only [hf, hF, hN, ne_eq, reduceCtorEq, not_false_eq_true]
  simp only [State.putUnit, State.sends, List.append_assoc]
  rfl

section
variable (q : State) {v u : LiftUnit} (x : UnitRec) (l : List Handover) (h : v ≠ u)
include h

theorem State.putUnit_get_ne : (q.putUnit v x l).lfs.units.get u = q.lfs.units.get u :=
  (PerUnit.get_set _ v u _).trans (if_neg h)

theorem State.putUnit_enteredUnit : (q.putUnit v x l).enteredUnit u = q.enteredUnit u := by
  unfold State.enteredUnit State.unitEntryRec
  rw [State.putUnit_get_ne q x l h]
  rfl

theorem State.putUnit_unitEntryNews : (q.putUnit v x l).unitEntryNews u = q.unitEntryNews u := by
  unfold State.unitEntryNews
  rw [State.putUnit_get_ne q x l h]
  rfl

end

/-- The units entered, before the agreement check. -/
def State.unitsEntered (s : State) : State := State.sends
  { s with lfs := { s.lfs with
    request := false, pair := none, units := s.lfs.units.map fun u _ => s.enteredUnit u } }
  (allUnits.flatMap s.unitEntryNews)

theorem State.lfsEnterRun_eq (s : State) : s.lfsEnterRun = s.unitsEntered.agreement :=
  congrArg State.agreement (forEach_putUnit State.lfsEnterUnit_eq
    (fun q _ x l _ h => State.putUnit_enteredUnit q x l h) (fun q _ x l _ h => State.putUnit_unitEntryNews q x l h)
    { s with lfs := { s.lfs with request := false, pair := none } })

/-! ### The agreement check (R134) -/

/-- A mismatch was reported, and both units show one profile. -/
def State.agreeing (s : State) : Prop := s.lfs.mismatchReported = true ∧
  (s.lfs.units.get .L1).state = (s.lfs.units.get .L2).state ∧
    ((s.lfs.units.get .L1).state = .high ∨ (s.lfs.units.get .L1).state = .low)

section
variable {s : State}

theorem State.agreement_iff : (s.lfs.mismatchReported && (s.liftState .L1).shows.isSome &&
    (s.liftState .L1).shows == (s.liftState .L2).shows) = true ↔ s.agreeing := by
  rw [Bool.and_assoc, Bool.and_eq_true, LiftState.shows_agree_iff]
  exact Iff.rfl

theorem State.agreement_of_agreeing (h : s.agreeing) : s.agreement = State.sends
    { s with lfs := { s.lfs with mismatchReported := false, pair := none } } [.report .lfs .liftMismatch .gone] := by
  rw [State.agreement, if_pos (State.agreement_iff.mpr h), State.report_eq_sends]

theorem State.agreement_of_not_agreeing (h : ¬ s.agreeing) : s.agreement = s :=
  if_neg (mt State.agreement_iff.mp h)

variable (s)

theorem State.lfsEnterRun_unit (u : LiftUnit) : s.lfsEnterRun.lfs.units.get u = s.enteredUnit u := by
  have hget : s.unitsEntered.lfs.units.get u = s.enteredUnit u := PerUnit.get_map _ _ _
  rw [State.lfsEnterRun_eq, ← hget]
  by_cases h : s.unitsEntered.agreeing
  · rw [State.agreement_of_agreeing h]
    rfl
  · rw [State.agreement_of_not_agreeing h]

theorem State.lfsEnterRun_rest : s.lfsEnterRun.lfs.request = false ∧ s.lfsEnterRun.lfs.pair = none ∧
    s.lfsEnterRun.lfs.senses = s.lfs.senses := by
  rw [State.lfsEnterRun_eq]
  by_cases h : s.unitsEntered.agreeing
  · rw [State.agreement_of_agreeing h]
    exact ⟨rfl, rfl, rfl⟩
  · rw [State.agreement_of_not_agreeing h]
    exact ⟨rfl, rfl, rfl⟩

theorem State.lfsEnterRun_adds : s.adds (fun h => h.quiet = true) s.lfsEnterRun := by
  have hunits : s.adds (fun h => h.quiet = true) s.unitsEntered := by
    refine State.adds.trans (State.adds_of_eq rfl) (State.adds_sends fun h hm => ?_)
    obtain ⟨u, -, hu⟩ := List.mem_flatMap.mp hm
    exact s.unitEntryNews_quiet u h hu
  rw [State.lfsEnterRun_eq]
  by_cases h : s.unitsEntered.agreeing
  · rw [State.agreement_of_agreeing h]
    refine hunits.trans (State.adds.trans (State.adds_of_eq rfl) (State.adds_sends fun x hm => ?_))
    rw [List.mem_singleton.mp hm]
    rfl
  · rw [State.agreement_of_not_agreeing h]
    exact hunits

theorem State.lfsEnterRun_sends {u : LiftUnit} {h : Handover} (hm : h ∈ s.unitEntryNews u) :
    h ∈ s.lfsEnterRun.handovers := by
  have hunits : h ∈ s.unitsEntered.handovers :=
    List.mem_append_right _ (List.mem_flatMap.mpr ⟨u, mem_allUnits u, hm⟩)
  rw [State.lfsEnterRun_eq]
  by_cases hg : s.unitsEntered.agreeing
  · rw [State.agreement_of_agreeing hg]
    exact List.mem_append_left _ hunits
  · rwa [State.agreement_of_not_agreeing hg]

/-- The mismatch after RUN entry, by the states that the units have entered. -/
theorem State.lfsEnterRun_mismatch :
    let agree := s.lfs.mismatchReported = true ∧ (s.enteredUnit .L1).state = (s.enteredUnit .L2).state ∧
      ((s.enteredUnit .L1).state = .high ∨ (s.enteredUnit .L1).state = .low)
    (agree → s.lfsEnterRun.lfs.mismatchReported = false ∧
      .report .lfs .liftMismatch .gone ∈ s.lfsEnterRun.handovers) ∧
    (¬ agree → s.lfsEnterRun.lfs.mismatchReported = s.lfs.mismatchReported) := by
  intro agree
  have hagree : s.unitsEntered.agreeing ↔ agree := Iff.rfl
  rw [State.lfsEnterRun_eq]
  refine ⟨fun h => ?_, fun h => ?_⟩
  · rw [State.agreement_of_agreeing (hagree.mpr h)]
    exact ⟨rfl, List.mem_append_right _ (List.mem_singleton.mpr rfl)⟩
  · rw [State.agreement_of_not_agreeing (mt hagree.mp h)]
    rfl

end

end Sys2Proof.Machine
end

section
/-! Proofs about the outputs at RUN entry (R111, R121): what each record becomes, and what is on its way afterwards. -/

namespace Sys2Proof.Machine

/-! ### One output -/

/-- An OCV output's record at RUN entry, with its owner, its period, whether it may run and the time base. -/
def OcvRec.enters (owner : Option Chan) (period : Nat) (may : Prop) (now : Word32) (r r' : OcvRec) : Prop :=
  r'.binding = owner ∧ r'.period = period ∧ r'.active = 0 ∧ r'.pending = 0 ∧ r'.openTally = 0 ∧ r'.tripped = r.tripped ∧
  (r'.enabled = true ↔ may) ∧
  (r.enabled = false → r'.openReported = r.openReported ∧
    (r'.enabled = true → r'.periodStart = some now ∧ r'.lineOn = false))

/-- An LS output's record at RUN entry, with its owner and whether it may run. -/
def LsRec.enters (owner : Option LiftUnit) (may : Prop) (r r' : LsRec) : Prop :=
  r'.binding = owner ∧ r'.openTally = 0 ∧ r'.tripped = r.tripped ∧ (r'.enabled = true ↔ may) ∧
  (r.enabled = false → r'.openReported = r.openReported ∧ r'.lineOn = r.lineOn)

section
variable (s : State)

/-- The line's going OFF leaves all but the line and the judgement. -/
theorem State.cutOcv_rec (o : LineABCD) (current : Bool) : ∃ x l, s.cutOcv o current = s.putOcv o x l ∧
    (∀ h ∈ l, h.quiet = true) ∧ x.binding = (s.vdr.ocv.get o).binding ∧ x.period = (s.vdr.ocv.get o).period ∧
    x.tripped = (s.vdr.ocv.get o).tripped := by
  cases hl : (s.vdr.ocv.get o).lineOn with
  | false =>
    rw [State.cutOcv_of_off hl]
    exact ⟨_, [], (s.putOcv_self o).symm, fun _ hm => absurd hm List.not_mem_nil, rfl, rfl, rfl⟩
  | true =>
    rw [State.cutOcv_of_on hl, State.judgeOcv_putOcv]
    refine ⟨_, _, rfl, fun h hm => ?_, rfl, rfl, rfl⟩
    obtain ⟨v, -, rfl⟩ := List.mem_map.mp hm
    rfl

theorem State.cutLs_rec (o : LineAB) (current : Bool) : ∃ x l, s.cutLs o current = s.putLs o x l ∧
    (∀ h ∈ l, h.quiet = true) ∧ x.binding = (s.vdr.ls.get o).binding ∧ x.tripped = (s.vdr.ls.get o).tripped := by
  cases hl : (s.vdr.ls.get o).lineOn with
  | false =>
    rw [State.cutLs_of_off hl]
    exact ⟨_, [], (s.putLs_self o).symm, fun _ hm => absurd hm List.not_mem_nil, rfl, rfl⟩
  | true =>
    rw [State.cutLs_of_on hl, State.judgeLs_putLs]
    refine ⟨_, _, rfl, fun h hm => ?_, rfl, rfl⟩
    obtain ⟨v, -, rfl⟩ := List.mem_map.mp hm
    rfl

theorem quiet_append_if {l : List Handover} {h : Handover} {p : Prop} [Decidable p] (hl : ∀ x ∈ l, x.quiet = true)
    (hh : h.quiet = true) : ∀ x ∈ l ++ (if p then [h] else []), x.quiet = true := by
  intro x hx
  rcases List.mem_append.mp hx with hx | hx
  · exact hl x hx
  · rw [List.mem_singleton.mp (List.mem_ite_nil_right.mp hx).2]
    exact hh

/-- The channel that binds the output may drive it (R111). -/
def State.ocvReady (o : LineABCD) : Prop := ∃ ch, s.ownerOcv o = some ch ∧ (s.phc.chans.get ch).state ≠ .faulted ∧
  (s.phc.chans.get ch).state ≠ .lockout

/-- The unit that binds the output may ask for it (R111). -/
def State.lsReady (o : LineAB) : Prop := ∃ u, s.ownerLs o = some u ∧ (s.lfs.units.get u).state ≠ .stuck

variable {s}

theorem State.vdrEnterOcv_turn (h : s.smc.mode = .run) (o : LineABCD) : ∃ x l, s.vdrEnterOcv o = s.putOcv o x l ∧
    (∀ h ∈ l, h.quiet = true) ∧
    (s.vdr.ocv.get o).enters (s.ownerOcv o) (s.tbm.inForce.pwm.get o) (s.ocvReady o) s.timeBase x := by
  have hstart : s.vdrEnterOcv o = State.evalOcv (s.putOcv o { s.vdr.ocv.get o with
      binding := s.ownerOcv o, period := s.tbm.inForce.pwm.get o, active := 0, pending := 0, openTally := 0 } []) o
      false := congrArg (fun q => State.evalOcv q o false) (State.updOcv_eq_putOcv _ _ _)
  generalize hr : ({ s.vdr.ocv.get o with
    binding := s.ownerOcv o, period := s.tbm.inForce.pwm.get o, active := 0, pending := 0, openTally := 0 } : OcvRec) =
    r at hstart
  have hmay : (s.putOcv o r []).ocvMayRun o = true ↔ s.ocvReady o := by
    have hb : r.binding = s.ownerOcv o := by rw [← hr]
    rw [State.ocvMayRun_iff, State.putOcv_get, hb]
    exact and_iff_right h
  have henabled : r.enabled = (s.vdr.ocv.get o).enabled := by rw [← hr]
  rw [hstart]
  cases hm : (s.putOcv o r []).ocvMayRun o with
  | true =>
    have hready : s.ocvReady o := hmay.mp hm
    cases he : r.enabled with
    | true =>
      rw [State.evalOcv_of_same (by rw [hm, State.putOcv_get, he])]
      refine ⟨r, [], rfl, fun _ hm => absurd hm List.not_mem_nil, ?_⟩
      rw [henabled] at he
      subst hr
      exact ⟨rfl, rfl, rfl, rfl, rfl, rfl, iff_of_true he hready, fun hf => Bool.noConfusion (he.symm.trans hf)⟩
    | false =>
      rw [State.evalOcv_of_enable hm (by rw [State.putOcv_get, he]), State.putOcv_get, State.putOcv_putOcv]
      refine ⟨_, [], rfl, fun _ hm => absurd hm List.not_mem_nil, ?_⟩
      subst hr
      exact ⟨rfl, rfl, rfl, rfl, rfl, rfl, iff_of_true rfl hready, fun _ => ⟨rfl, fun _ => ⟨rfl, rfl⟩⟩⟩
  | false =>
    have hready : ¬ s.ocvReady o := fun hr => Bool.noConfusion (hm.symm.trans (hmay.mpr hr))
    cases he : r.enabled with
    | true =>
      obtain ⟨x, l, hcut, hl, hb, hp, ht⟩ := (s.putOcv o r []).cutOcv_rec o false
      rw [State.putOcv_get] at hb hp ht
      rw [State.evalOcv_of_disable hm (by rw [State.putOcv_get, he]), State.disableOcv_eq, hcut, State.putOcv_get,
        State.putOcv_putOcv, State.putOcv_putOcv, List.nil_append]
      refine ⟨_, _, rfl, quiet_append_if hl rfl, ?_⟩
      rw [henabled] at he
      subst hr
      exact ⟨hb, hp, rfl, rfl, rfl, ht, iff_of_false Bool.false_ne_true hready,
        fun hf => Bool.noConfusion (he.symm.trans hf)⟩
    | false =>
      rw [State.evalOcv_of_same (by rw [hm, State.putOcv_get, he])]
      refine ⟨r, [], rfl, fun _ hm => absurd hm List.not_mem_nil, ?_⟩
      rw [henabled] at he
      subst hr
      exact ⟨rfl, rfl, rfl, rfl, rfl, rfl, iff_of_false (fun ht => Bool.noConfusion (he.symm.trans ht)) hready,
        fun _ => ⟨rfl, fun ht => Bool.noConfusion (he.symm.trans ht)⟩⟩

theorem State.vdrEnterLs_turn (h : s.smc.mode = .run) (o : LineAB) : ∃ x l, s.vdrEnterLs o = s.putLs o x l ∧
    (∀ h ∈ l, h.quiet = true) ∧ (s.vdr.ls.get o).enters (s.ownerLs o) (s.lsReady o) x := by
  have hstart : s.vdrEnterLs o = State.evalLs (s.putLs o { s.vdr.ls.get o with
      binding := s.ownerLs o, openTally := 0 } []) o false :=
    congrArg (fun q => State.evalLs q o false) (State.updLs_eq_putLs _ _ _)
  generalize hr : ({ s.vdr.ls.get o with binding := s.ownerLs o, openTally := 0 } : LsRec) = r at hstart
  have hmay : (s.putLs o r []).lsMayRun o = true ↔ s.lsReady o := by
    have hb : r.binding = s.ownerLs o := by rw [← hr]
    rw [State.lsMayRun_iff, State.putLs_get, hb]
    exact and_iff_right h
  have henabled : r.enabled = (s.vdr.ls.get o).enabled := by rw [← hr]
  rw [hstart]
  cases hm : (s.putLs o r []).lsMayRun o with
  | true =>
    have hready : s.lsReady o := hmay.mp hm
    cases he : r.enabled with
    | true =>
      rw [State.evalLs_of_same (by rw [hm, State.putLs_get, he])]
      refine ⟨r, [], rfl, fun _ hm => absurd hm List.not_mem_nil, ?_⟩
      rw [henabled] at he
      subst hr
      exact ⟨rfl, rfl, rfl, iff_of_true he hready, fun hf => Bool.noConfusion (he.symm.trans hf)⟩
    | false =>
      rw [State.evalLs_of_enable hm (by rw [State.putLs_get, he]), State.putLs_get, State.putLs_putLs]
      refine ⟨_, [], rfl, fun _ hm => absurd hm List.not_mem_nil, ?_⟩
      subst hr
      exact ⟨rfl, rfl, rfl, iff_of_true rfl hready, fun _ => ⟨rfl, rfl⟩⟩
  | false =>
    have hready : ¬ s.lsReady o := fun hr => Bool.noConfusion (hm.symm.trans (hmay.mpr hr))
    cases he : r.enabled with
    | true =>
      obtain ⟨x, l, hcut, hl, hb, ht⟩ := (s.putLs o r []).cutLs_rec o false
      rw [State.putLs_get] at hb ht
      rw [State.evalLs_of_disable hm (by rw [State.putLs_get, he]), State.disableLs_eq, hcut, State.putLs_get,
        State.putLs_putLs, State.putLs_putLs, List.nil_append]
      refine ⟨_, _, rfl, quiet_append_if hl rfl, ?_⟩
      rw [henabled] at he
      subst hr
      exact ⟨hb, rfl, ht, iff_of_false Bool.false_ne_true hready, fun hf => Bool.noConfusion (he.symm.trans hf)⟩
    | false =>
      rw [State.evalLs_of_same (by rw [hm, State.putLs_get, he])]
      refine ⟨r, [], rfl, fun _ hm => absurd hm List.not_mem_nil, ?_⟩
      rw [henabled] at he
      subst hr
      exact ⟨rfl, rfl, rfl, iff_of_false (fun ht => Bool.noConfusion (he.symm.trans ht)) hready, fun _ => ⟨rfl, rfl⟩⟩

end

/-! ### All outputs -/

/-- The OCV outputs entered. -/
def State.ocvEntered (s : State) : State := forEach allABCD State.vdrEnterOcv s.dropDrives

theorem State.vdrEnterRun_eq (s : State) : s.vdrEnterRun = forEach allAB State.vdrEnterLs s.ocvEntered := rfl

section
variable {s q : State} (htbm : q.tbm = s.tbm)
include htbm

theorem State.chanDriver_congr : q.chanDriver = s.chanDriver := by
  funext ch
  unfold State.chanDriver State.chanBound
  rw [htbm]

theorem State.unitDriver_congr : q.unitDriver = s.unitDriver := by
  funext u
  unfold State.unitDriver State.unitBound
  rw [htbm]

theorem State.ownerOcv_congr : q.ownerOcv = s.ownerOcv := by
  unfold State.ownerOcv
  rw [State.chanDriver_congr htbm]

theorem State.ownerLs_congr : q.ownerLs = s.ownerLs := by
  unfold State.ownerLs
  rw [State.unitDriver_congr htbm]

end

/-- What the turns of the outputs find and keep. -/
def State.likeOutside (s q : State) : Prop := q.smc = s.smc ∧ q.tbm = s.tbm ∧ q.now = s.now ∧ q.phc = s.phc ∧ q.lfs = s.lfs

section
variable {s q : State} (h : s.likeOutside q)
include h

theorem State.likeOutside.putOcv (o : LineABCD) (x : OcvRec) (l : List Handover) : s.likeOutside (q.putOcv o x l) := h

theorem State.likeOutside.putLs (o : LineAB) (x : LsRec) (l : List Handover) : s.likeOutside (q.putLs o x l) := h

theorem State.likeOutside.owners : q.ownerOcv = s.ownerOcv ∧ q.ownerLs = s.ownerLs :=
  ⟨State.ownerOcv_congr h.2.1, State.ownerLs_congr h.2.1⟩

theorem State.likeOutside.ready : q.ocvReady = s.ocvReady ∧ q.lsReady = s.lsReady := by
  obtain ⟨hocv, hls⟩ := h.owners
  obtain ⟨-, -, -, hphc, hlfs⟩ := h
  unfold State.ocvReady State.lsReady
  rw [hocv, hls, hphc, hlfs]
  exact ⟨rfl, rfl⟩

end

section
variable {s : State} (h : s.smc.mode = .run)
include h

theorem State.ocvEntered_inv : s.likeOutside s.ocvEntered ∧ s.ocvEntered.vdr.ls = s.vdr.ls ∧
    s.dropDrives.adds (fun h => h.quiet = true) s.ocvEntered := by
  refine forEach_inv (fun q => s.likeOutside q ∧ q.vdr.ls = s.vdr.ls ∧ s.dropDrives.adds (fun h => h.quiet = true) q)
    allABCD State.vdrEnterOcv (fun q o hq => ?_) s.dropDrives ⟨⟨rfl, rfl, rfl, rfl, rfl⟩, rfl, State.adds.refl _⟩
  obtain ⟨hlike, hls, hadds⟩ := hq
  obtain ⟨x, l, he, hl, -⟩ := State.vdrEnterOcv_turn (hlike.1 ▸ h : q.smc.mode = .run) o
  rw [he]
  exact ⟨hlike.putOcv o x l, hls, hadds.trans (State.adds_putOcv hl)⟩

theorem State.vdrEnterRun_adds : s.dropDrives.adds (fun h => h.quiet = true) s.vdrEnterRun := by
  obtain ⟨hlike, -, hadds⟩ := State.ocvEntered_inv h
  rw [State.vdrEnterRun_eq]
  refine (forEach_inv (fun q => s.likeOutside q ∧ s.dropDrives.adds (fun h => h.quiet = true) q)
    allAB State.vdrEnterLs (fun q o hq => ?_) s.ocvEntered ⟨hlike, hadds⟩).2
  obtain ⟨hlike, hadds⟩ := hq
  obtain ⟨x, l, he, hl, -⟩ := State.vdrEnterLs_turn (hlike.1 ▸ h : q.smc.mode = .run) o
  rw [he]
  exact ⟨hlike.putLs o x l, hadds.trans (State.adds_putLs hl)⟩

theorem State.vdrEnterRun_ocv (o : LineABCD) : (s.vdr.ocv.get o).enters (s.ownerOcv o) (s.tbm.inForce.pwm.get o)
    (s.ocvReady o) s.timeBase (s.vdrEnterRun.vdr.ocv.get o) := by
  have hocv : (s.vdr.ocv.get o).enters (s.ownerOcv o) (s.tbm.inForce.pwm.get o) (s.ocvReady o) s.timeBase
      (s.ocvEntered.vdr.ocv.get o) := by
    refine forEach_at (P := s.likeOutside) (get := fun q => q.vdr.ocv.get o)
      (R := OcvRec.enters (s.ownerOcv o) (s.tbm.inForce.pwm.get o) (s.ocvReady o) s.timeBase) (x := o)
      (fun q y hq => ?_) (fun q hq => ?_) (fun q y hy hq => ?_) allABCD_nodup (mem_allABCD o)
      (s := s.dropDrives) ⟨rfl, rfl, rfl, rfl, rfl⟩
    · obtain ⟨x, l, he, -⟩ := State.vdrEnterOcv_turn (hq.1 ▸ h : q.smc.mode = .run) y
      rw [he]
      exact hq.putOcv y x l
    · obtain ⟨x, l, he, -, hx⟩ := State.vdrEnterOcv_turn (hq.1 ▸ h : q.smc.mode = .run) o
      rw [he, State.putOcv_get]
      rw [hq.owners.1, hq.ready.1, hq.2.1, State.timeBase, hq.2.2.1] at hx
      exact hx
    · obtain ⟨x, l, he, -⟩ := State.vdrEnterOcv_turn (hq.1 ▸ h : q.smc.mode = .run) y
      rw [he]
      exact (PerOcv.get_set _ y o _).trans (if_neg hy)
  have hrest : s.vdrEnterRun.vdr.ocv = s.ocvEntered.vdr.ocv := by
    rw [State.vdrEnterRun_eq]
    refine (forEach_inv (fun q => s.likeOutside q ∧ q.vdr.ocv = s.ocvEntered.vdr.ocv) allAB State.vdrEnterLs
      (fun q y hq => ?_) s.ocvEntered ⟨(State.ocvEntered_inv h).1, rfl⟩).2
    obtain ⟨x, l, he, -⟩ := State.vdrEnterLs_turn (hq.1.1 ▸ h : q.smc.mode = .run) y
    rw [he]
    exact ⟨hq.1.putLs y x l, hq.2⟩
  rw [hrest]
  exact hocv

theorem State.vdrEnterRun_ls (o : LineAB) : (s.vdr.ls.get o).enters (s.ownerLs o) (s.lsReady o)
    (s.vdrEnterRun.vdr.ls.get o) := by
  obtain ⟨hlike, hsame, -⟩ := State.ocvEntered_inv h
  rw [← hsame, State.vdrEnterRun_eq]
  refine forEach_at (P := s.likeOutside) (get := fun q => q.vdr.ls.get o)
    (R := LsRec.enters (s.ownerLs o) (s.lsReady o)) (x := o)
    (fun q y hq => ?_) (fun q hq => ?_) (fun q y hy hq => ?_) allAB_nodup (mem_allAB o) hlike
  · obtain ⟨x, l, he, -⟩ := State.vdrEnterLs_turn (hq.1 ▸ h : q.smc.mode = .run) y
    rw [he]
    exact hq.putLs y x l
  · obtain ⟨x, l, he, -, hx⟩ := State.vdrEnterLs_turn (hq.1 ▸ h : q.smc.mode = .run) o
    rw [he, State.putLs_get]
    rw [hq.owners.2, hq.ready.2] at hx
    exact hx
  · obtain ⟨x, l, he, -⟩ := State.vdrEnterLs_turn (hq.1 ▸ h : q.smc.mode = .run) y
    rw [he]
    exact (PerLs.get_set _ y o _).trans (if_neg hy)

end

/-! ### What was on its way to the outputs -/

theorem State.drive_not_mem_dropDrives {s : State} {h : Handover} {out : Out} (hd : h.drives out = true) :
    h ∉ s.dropDrives.handovers := by
  intro hm
  have hnone := (List.mem_filter.mp hm).2
  rw [Bool.not_eq_true', List.any_eq_false] at hnone
  exact hnone out (mem_allOuts out) hd

theorem State.mem_dropDrives {s : State} {h : Handover} (hm : h ∈ s.dropDrives.handovers) : h ∈ s.handovers :=
  (List.mem_filter.mp hm).1

theorem State.mem_dropDrives_of {s : State} {h : Handover} (hm : h ∈ s.handovers)
    (hd : ∀ out, h.drives out = false) : h ∈ s.dropDrives.handovers := by
  refine List.mem_filter.mpr ⟨hm, ?_⟩
  rw [Bool.not_eq_true', List.any_eq_false]
  exact fun out _ ht => Bool.noConfusion ((hd out).symm.trans ht)

end Sys2Proof.Machine
end

section
/-! Proofs about the capture unit and the arbiter at RUN entry (R58, R72, R108), and the responses recomputed (R147). -/

namespace Sys2Proof.Machine

/-! ### The responses -/

theorem State.responseNews_quiet (s : State) : ∀ h ∈ s.responseNews, h.quiet = true := by
  intro h hm
  rcases List.mem_append.mp hm with hm | hm
  · obtain ⟨ch, -, hm⟩ := List.mem_flatMap.mp hm
    split at hm
    · exact absurd hm List.not_mem_nil
    · simp only [List.mem_cons, List.not_mem_nil, or_false] at hm
      rcases hm with rfl | rfl <;> rfl
  · obtain ⟨u, -, hm⟩ := List.mem_flatMap.mp hm
    split at hm
    · exact absurd hm List.not_mem_nil
    · rw [List.mem_singleton.mp hm]
      rfl

theorem State.recompute_adds (s : State) : s.adds (fun h => h.quiet = true) s.recompute := by
  rw [State.recompute_eq]
  exact ⟨s.responseNews, rfl, s.responseNews_quiet⟩

theorem State.recompute_fmg (s : State) : s.recompute.fmg.table = s.fmg.table ∧
    ∀ ch, s.recompute.fmg.chanResponse.get ch = s.chanResponseNow ch := by
  rw [State.recompute_eq]
  exact ⟨rfl, fun ch => PerChan.get_map _ _ _⟩

/-- A channel's response goes by the response table, the records and the outputs' owners. -/
theorem State.chanResponseNow_congr {s q : State} (htbm : q.tbm = s.tbm) (htable : q.fmg.table = s.fmg.table)
    (hvdr : q.vdr = s.vdr) : q.chanResponseNow = s.chanResponseNow := by
  have hown : q.ownCoversChan = s.ownCoversChan := by
    funext id ch
    unfold State.ownCoversChan
    rw [hvdr]
  have hrec : q.responseRec = s.responseRec := by
    funext id
    unfold State.responseRec
    rw [htbm]
  funext ch
  unfold State.chanResponseNow State.coversChan State.fault
  rw [hown, hrec, htable]

/-! ### The capture unit (R58, R72) -/

section
variable (s : State) (ch : Chan)

/-- A channel's record in the capture unit at RUN entry. -/
def State.ceuEntryRec : CeuChan :=
  if s.chanBound ch = true then { CeuChan.reset with
    phase := (s.ceu.chans.get ch).phase, valid := (s.ceu.chans.get ch).valid
    missingReported := (s.ceu.chans.get ch).missingReported, patternReported := (s.ceu.chans.get ch).patternReported }
  else { CeuChan.reset with phase := (s.ceu.chans.get ch).phase }

/-- What is withdrawn of an unbound channel at RUN entry. -/
def State.ceuEntryNews : List Handover :=
  if s.chanBound ch = true then [] else
    (if (s.ceu.chans.get ch).missingReported = true then [.report .ceu (.camMissing ch) .gone] else []) ++
      if (s.ceu.chans.get ch).patternReported = true then [.report .ceu (.camPattern ch) .gone] else []

theorem State.ceuEnterChan_eq :
    s.ceuEnterChan ch = (s.setCeu ch (s.ceuEntryRec ch)).sends (s.ceuEntryNews ch) := by
  unfold State.ceuEnterChan State.ceuEntryRec State.ceuEntryNews
  dsimp only
  by_cases hb : s.chanBound ch = true
  · rw [if_pos hb, if_pos hb, if_pos hb, State.sends_nil]
  · rw [if_neg hb, if_neg hb, if_neg hb]
    cases (s.ceu.chans.get ch).missingReported <;> cases (s.ceu.chans.get ch).patternReported <;>
      simp [State.report_eq_sends]

theorem State.ceuEntryNews_quiet : ∀ h ∈ s.ceuEntryNews ch, h.quiet = true := by
  intro h hm
  unfold State.ceuEntryNews at hm
  split at hm
  · exact absurd hm List.not_mem_nil
  · rcases List.mem_append.mp hm with hm | hm <;> obtain ⟨-, hm⟩ := List.mem_ite_nil_right.mp hm <;>
      rw [List.mem_singleton.mp hm] <;> rfl

end

/-- Every channel's RUN entry in the capture unit goes by its own record. -/
theorem forEach_ceuEnterChan (s : State) : forEach allChans State.ceuEnterChan s = State.sends
    { s with ceu := { s.ceu with chans := s.ceu.chans.map fun ch _ => s.ceuEntryRec ch } }
    (allChans.flatMap s.ceuEntryNews) := by
  calc forEach allChans State.ceuEnterChan s
      = (((s.ceuEnterChan .IN1).ceuEnterChan .EX1).ceuEnterChan .IN2).ceuEnterChan .EX2 := rfl
    _ = State.sends
        { s with ceu := { s.ceu with chans := s.ceu.chans.map fun ch _ => s.ceuEntryRec ch } }
        (s.ceuEntryNews .IN1 ++ (s.ceuEntryNews .EX1 ++ (s.ceuEntryNews .IN2 ++ s.ceuEntryNews .EX2))) := by
      simp only [State.ceuEnterChan_eq]
      simp only [State.setCeu, State.sends, List.append_assoc]
      rfl
    _ = _ := by simp [allChans]

section
variable (s : State)

theorem State.ceuEnterRun_eq : s.ceuEnterRun = State.sends
    { s with ceu := { s.ceu with
      chans := s.ceu.chans.map fun ch _ => s.ceuEntryRec ch
      matching := false, partialCycle := false, refSeen := false, reportSent := false } }
    (allChans.flatMap s.ceuEntryNews) := by
  have hlast : s.ceuEnterRun = { forEach allChans State.ceuEnterChan s with
    ceu := { (forEach allChans State.ceuEnterChan s).ceu with
      matching := false, partialCycle := false, refSeen := false, reportSent := false } } := rfl
  rw [hlast, forEach_ceuEnterChan]
  rfl

theorem State.ceuEnterRun_adds : s.adds (fun h => h.quiet = true) s.ceuEnterRun := by
  rw [State.ceuEnterRun_eq]
  refine ⟨_, rfl, fun h hm => ?_⟩
  obtain ⟨ch, -, hm⟩ := List.mem_flatMap.mp hm
  exact s.ceuEntryNews_quiet ch h hm

theorem State.ceuEnterRun_chan (ch : Chan) : s.ceuEnterRun.ceu.chans.get ch = s.ceuEntryRec ch ∧
    ∀ h ∈ s.ceuEntryNews ch, h ∈ s.ceuEnterRun.handovers := by
  rw [State.ceuEnterRun_eq]
  exact ⟨PerChan.get_map _ _ _,
    fun h hm => List.mem_append_right _ (List.mem_flatMap.mpr ⟨ch, mem_allChans ch, hm⟩)⟩

theorem State.ceuEnterRun_rest : s.ceuEnterRun.ceu.matching = false ∧ s.ceuEnterRun.ceu.partialCycle = false ∧
    s.ceuEnterRun.ceu.refSeen = false ∧ s.ceuEnterRun.ceu.reportSent = false := by
  rw [State.ceuEnterRun_eq]
  exact ⟨rfl, rfl, rfl, rfl⟩

end

/-! ### The arbiter (R108) -/

/-- A change of source handed to the channel. -/
def Handover.sources (ch : Chan) : Handover → Bool
  | .phcSource c _ => c == ch
  | _ => false

section
variable (s : State) (ch : Chan)

/-- What an arbitration changes. -/
theorem State.arbitrate_turn :
    (s.arbitrate ch).tga = { s.tga with
      chans := s.tga.chans.set ch
        { s.tga.chans.get ch with source := (s.choose ch).1, output := (s.choose ch).2 } } ∧
    (s.arbitrate ch).handovers = s.handovers ++
      (if (s.choose ch).1 = (s.tga.chans.get ch).source then [] else [.phcSource ch (s.choose ch).1]) ∧
    ((s.arbitrate ch).phc = s.phc ∨ (s.arbitrate ch).phc =
      { s.phc with chans := s.phc.chans.set ch { s.phc.chans.get ch with presented := 0 } }) := by
  by_cases hs : (s.choose ch).1 = (s.tga.chans.get ch).source
  · rw [State.arbitrate_of_same rfl hs, if_pos hs, List.append_nil]
    exact ⟨rfl, rfl, .inl rfl⟩
  · rw [if_neg hs]
    by_cases hp : (s.choose ch).1 = .park
    · rw [State.arbitrate_of_park rfl hs hp]
      exact ⟨rfl, rfl, .inr rfl⟩
    · rw [State.arbitrate_of_drive rfl hs hp]
      exact ⟨rfl, rfl, .inl rfl⟩

/-- The choice goes by the mode, the layout in force, the operating point and the channel's own record. -/
theorem State.choose_congr {q : State} (hsmc : q.smc = s.smc) (htbm : q.tbm = s.tbm)
    (hpoint : q.tga.fresh = s.tga.fresh ∧ q.tga.record = s.tga.record) (hrec : q.tga.chans.get ch = s.tga.chans.get ch) :
    q.choose ch = s.choose ch := by
  unfold State.choose State.inRun State.chanBound State.hostTarget State.chanRange
  rw [hsmc, htbm, hpoint.1, hpoint.2, hrec]

/-- The arbiter's RUN entry before any channel is arbitrated. -/
def State.unsourced : State := State.zeroTargets { s with tga := { s.tga with
  chans := s.tga.chans.map fun _ r => { r with source := .park, output := 0, mapOutput := none } } }

end

section
variable (s : State)

theorem State.tgaEnterRun_eq : s.tgaEnterRun =
    forEach allChans (fun q ch => if s.chanBound ch = true then q.arbitrate ch else q) s.unsourced := by
  have hloop : s.tgaEnterRun = (allChans.filter s.chanBound).foldl State.arbitrate s.unsourced := rfl
  rw [hloop, List.foldl_filter]
  rfl

theorem State.unsourced_rec (ch : Chan) : s.unsourced.tga.chans.get ch =
    { s.tga.chans.get ch with source := .park, output := 0, mapOutput := none } := PerChan.get_map _ _ _

/-- What the arbiter chooses for a channel at RUN entry. -/
def State.entryChoice (ch : Chan) : Source × Nat := s.unsourced.choose ch

theorem State.entryChoice_of_closed {ch : Chan} (h : ¬ s.targetOpen ch) : s.entryChoice ch = (.park, 0) := by
  refine State.choose_of_closed fun ho => h ?_
  obtain ⟨hm, hb, hr, hf⟩ := ho
  rw [State.unsourced_rec] at hr
  exact ⟨hm, hb, hr, hf⟩

theorem State.unsourced_open {ch : Chan} (h : s.targetOpen ch) : s.unsourced.targetOpen ch := by
  obtain ⟨hm, hb, hr, hf⟩ := h
  refine ⟨hm, hb, ?_, hf⟩
  rw [State.unsourced_rec]
  exact hr

theorem State.entryChoice_of_host {ch : Chan} (h : s.targetOpen ch) {n : Nat} (hn : s.hostTarget ch = some n) :
    s.entryChoice ch = (.host, min n (s.chanRange ch)) := State.choose_of_host (s.unsourced_open h) hn

theorem State.entryChoice_of_nothing {ch : Chan} (h : s.targetOpen ch) (hn : s.hostTarget ch = none) :
    s.entryChoice ch = (.park, 0) :=
  State.choose_of_nothing (s.unsourced_open h) hn (by rw [State.unsourced_rec])

/-- What the turns of the arbiter's RUN entry find and keep. -/
def State.arbitrable (q : State) : Prop := q.smc = s.smc ∧ q.tbm = s.tbm ∧
  (q.tga.fresh = s.tga.fresh ∧ q.tga.record = s.tga.record) ∧ q.phc = s.zeroTargets.phc

variable {s} in
theorem State.arbitrable.turn {q : State} (h : s.arbitrable q) (ch : Chan) : s.arbitrable (q.arbitrate ch) := by
  obtain ⟨hsmc, htbm, hpoint, hphc⟩ := h
  obtain ⟨htga, -, hturn⟩ := q.arbitrate_turn ch
  obtain ⟨-, -, hsmc', -, htbm', -⟩ := q.arbitrate_keeps ch
  refine ⟨hsmc'.trans hsmc, htbm'.trans htbm, ?_, ?_⟩
  · rw [htga]
    exact hpoint
  · rcases hturn with he | he
    · exact he.trans hphc
    · have hzero : ({ q.phc.chans.get ch with presented := 0 } : ChanRec) = q.phc.chans.get ch := by
        have hget : s.zeroTargets.phc.chans.get ch = { s.phc.chans.get ch with presented := 0 } := PerChan.get_map _ _ _
        rw [hphc, hget]
      rw [he, hzero, PerChan.set_get]
      exact hphc

/-- The arbiter's record of a channel and the changes of its source on their way, before and after. -/
def State.sourced (ch : Chan) (a b : TgaChan × List Handover) : Prop :=
  a.1 = s.unsourced.tga.chans.get ch →
    b.1 = { a.1 with source := (s.entryChoice ch).1, output := (s.entryChoice ch).2 } ∧
    b.2 = a.2 ++ if (s.entryChoice ch).1 = .park then [] else [.phcSource ch (s.entryChoice ch).1]

theorem State.tgaEnterRun_sourced (ch : Chan) : s.sourced ch
    (s.unsourced.tga.chans.get ch, s.unsourced.handovers.filter (Handover.sources ch))
    (s.tgaEnterRun.tga.chans.get ch, s.tgaEnterRun.handovers.filter (Handover.sources ch)) := by
  rw [State.tgaEnterRun_eq]
  refine forEach_at (P := s.arbitrable)
    (get := fun q => (q.tga.chans.get ch, q.handovers.filter (Handover.sources ch))) (R := s.sourced ch) (x := ch)
    (fun q y hq => ?_) (fun q hq => ?_) (fun q y hy _ => ?_) allChans_nodup (mem_allChans ch)
    ⟨rfl, rfl, ⟨rfl, rfl⟩, rfl⟩
  · split
    · exact hq.turn y
    · exact hq
  · intro ha
    obtain ⟨hsmc, htbm, hpoint, -⟩ := hq
    have hsource : (q.tga.chans.get ch).source = .park := by
      rw [show q.tga.chans.get ch = _ from ha, State.unsourced_rec]
    split
    · obtain ⟨htga, hsent, -⟩ := q.arbitrate_turn ch
      have hchoice : q.choose ch = s.entryChoice ch := s.unsourced.choose_congr ch hsmc htbm hpoint ha
      rw [hchoice] at htga hsent
      rw [hsource] at hsent
      refine ⟨?_, ?_⟩
      · dsimp only
        rw [htga]
        exact PerChan.get_set_same _ _ _
      · dsimp only
        rw [hsent, List.filter_append]
        refine congrArg _ ?_
        split
        · rfl
        · exact List.filter_cons_of_pos (beq_self_eq_true ch)
    · next hb =>
      rw [s.entryChoice_of_closed fun ho => hb ho.2.1]
      refine ⟨?_, (List.append_nil _).symm⟩
      rw [show q.tga.chans.get ch = _ from ha, State.unsourced_rec]
  · split
    · obtain ⟨htga, hsent, -⟩ := q.arbitrate_turn y
      refine Prod.ext ?_ ?_
      · dsimp only
        rw [htga]
        exact (PerChan.get_set _ y ch _).trans (if_neg hy)
      · dsimp only
        rw [hsent, List.filter_append]
        split
        · exact List.append_nil _
        · rw [List.filter_cons_of_neg (by simpa [Handover.sources] using hy)]
          exact List.append_nil _
    · rfl

theorem State.tgaEnterRun_adds : s.adds (fun h => h.quiet = true) s.tgaEnterRun := by
  have hsame : s.adds (fun h => h.quiet = true) s.unsourced := State.adds_of_eq rfl
  rw [State.tgaEnterRun_eq]
  refine hsame.trans (State.forEach_adds (fun q ch => ?_) allChans s.unsourced)
  split
  · refine ⟨_, (q.arbitrate_turn ch).2.1, fun h hm => ?_⟩
    split at hm
    · exact absurd hm List.not_mem_nil
    · rw [List.mem_singleton.mp hm]
      rfl
  · exact State.adds.refl q

theorem State.tgaEnterRun_phc : s.tgaEnterRun.phc = s.zeroTargets.phc := by
  rw [State.tgaEnterRun_eq]
  refine (forEach_inv s.arbitrable allChans _ (fun q ch hq => ?_) s.unsourced ⟨rfl, rfl, ⟨rfl, rfl⟩, rfl⟩).2.2.2
  split
  · exact hq.turn ch
  · exact hq

theorem State.tgaEnterRun_rest : s.tgaEnterRun.tga = { s.tga with chans := s.tgaEnterRun.tga.chans } := by
  rw [State.tgaEnterRun_eq]
  refine forEach_inv (fun q => q.tga = { s.tga with chans := q.tga.chans }) allChans _ (fun q ch hq => ?_)
    s.unsourced rfl
  split
  · rw [(q.arbitrate_turn ch).1, hq]
  · exact hq

theorem State.tgaEnterRun_chan (ch : Chan) : s.tgaEnterRun.tga.chans.get ch =
    { s.tga.chans.get ch with source := (s.entryChoice ch).1, output := (s.entryChoice ch).2, mapOutput := none } := by
  have h := (s.tgaEnterRun_sourced ch rfl).1
  rwa [State.unsourced_rec] at h

theorem State.tgaEnterRun_source {ch : Chan} (h : (s.entryChoice ch).1 ≠ .park) :
    .phcSource ch (s.entryChoice ch).1 ∈ s.tgaEnterRun.handovers := by
  have hsent := (s.tgaEnterRun_sourced ch rfl).2
  rw [if_neg h] at hsent
  dsimp only at hsent
  have hm : Handover.phcSource ch (s.entryChoice ch).1 ∈ s.tgaEnterRun.handovers.filter (Handover.sources ch) := by
    rw [hsent]
    exact List.mem_append_right _ (List.mem_singleton.mpr rfl)
  exact (List.mem_filter.mp hm).1

end

end Sys2Proof.Machine
end

section
/-! Proofs about RUN entry whole (R175; log 23, 33): what the blocks' entries together make of the state, and MODE RUN. -/

namespace Sys2Proof.Machine

/-! ### What the news go by -/

section
variable {s q : State} (htbm : q.tbm = s.tbm) (hcycles : q.ckt.cycles = s.ckt.cycles)
include htbm

theorem State.dutyNews_congr : q.dutyNews = s.dutyNews := by
  funext ch duty immediate
  unfold State.dutyNews
  rw [State.chanDriver_congr htbm]

include hcycles

theorem State.chanNews_congr : q.chanNews = s.chanNews := by
  funext ch new old cause holds
  unfold State.chanNews
  rw [State.chanDriver_congr htbm, hcycles]

theorem State.liftNews_congr : q.liftNews = s.liftNews := by
  funext u new old cause
  unfold State.liftNews
  rw [State.unitDriver_congr htbm, hcycles]

omit hcycles in
/-- A channel's entered record goes by its own, the tables and the records of faults. -/
theorem State.entered_congr (hphc : q.phc = s.phc) (htable : q.fmg.table = s.fmg.table) :
    q.entryState = s.entryState ∧ q.heldAtEntry = s.heldAtEntry ∧ q.entryRec = s.entryRec ∧
      q.enteredState = s.enteredState := by
  have hstate : q.entryState = s.entryState := by
    funext ch
    unfold State.entryState State.chanBound
    rw [hphc, htbm]
  have hheld : q.heldAtEntry = s.heldAtEntry := by
    funext ch
    unfold State.heldAtEntry State.outFaulted
    rw [State.chanDriver_congr htbm, htable]
  refine ⟨hstate, hheld, ?_, ?_⟩
  · funext ch st
    unfold State.entryRec State.tune
    rw [hphc, htbm]
  · funext ch
    unfold State.enteredState
    rw [hstate, hheld]

theorem State.entryNews_congr (hphc : q.phc = s.phc) (htable : q.fmg.table = s.fmg.table) :
    q.entryNews = s.entryNews := by
  obtain ⟨hstate, hheld, -⟩ := State.entered_congr htbm hphc htable
  funext ch
  unfold State.entryNews
  rw [hstate, hheld, hphc, State.chanNews_congr htbm hcycles, State.dutyNews_congr htbm]

omit hcycles in
/-- A unit's entered record goes by its own, the senses, the tables and the records of faults. -/
theorem State.enteredUnit_congr (hlfs : q.lfs = s.lfs) (htable : q.fmg.table = s.fmg.table) :
    q.unitBound = s.unitBound ∧ q.senseHigh = s.senseHigh ∧ q.noConfirmHeld = s.noConfirmHeld ∧
      q.lsFaulted = s.lsFaulted ∧ q.enteredUnit = s.enteredUnit := by
  have hbound : q.unitBound = s.unitBound := by
    funext u
    unfold State.unitBound
    rw [htbm]
  have hsense : q.senseHigh = s.senseHigh := by
    funext u
    unfold State.senseHigh
    rw [htbm, hlfs]
  have hnone : q.noConfirmHeld = s.noConfirmHeld := by
    funext u
    unfold State.noConfirmHeld
    rw [htable]
  have hfaulted : q.lsFaulted = s.lsFaulted := by
    funext u
    unfold State.lsFaulted
    rw [State.unitDriver_congr htbm, htable]
  refine ⟨hbound, hsense, hnone, hfaulted, ?_⟩
  funext u
  unfold State.enteredUnit State.unitEntryState State.unitEntryRec
  rw [hbound, hsense, hnone, hfaulted, hlfs]

theorem State.unitEntryNews_congr (hlfs : q.lfs = s.lfs) (htable : q.fmg.table = s.fmg.table) :
    q.unitEntryNews = s.unitEntryNews := by
  obtain ⟨hbound, hsense, hnone, hfaulted, -⟩ := State.enteredUnit_congr htbm hlfs htable
  funext u
  unfold State.unitEntryNews
  rw [hbound, hsense, hnone, hfaulted, hlfs, State.liftNews_congr htbm hcycles]

omit hcycles in
/-- A channel's entry in the capture unit goes by its record there and the layout in force. -/
theorem State.ceuEntry_congr (hceu : q.ceu = s.ceu) :
    q.ceuEntryRec = s.ceuEntryRec ∧ q.ceuEntryNews = s.ceuEntryNews := by
  constructor
  · funext ch
    unfold State.ceuEntryRec State.chanBound
    rw [htbm, hceu]
  · funext ch
    unfold State.ceuEntryNews State.chanBound
    rw [htbm, hceu]

omit hcycles in
theorem State.entryChoice_congr (hsmc : q.smc = s.smc) (htga : q.tga = s.tga) : q.entryChoice = s.entryChoice := by
  funext ch
  have hfresh : q.tga.fresh = s.tga.fresh := congrArg Tga.fresh htga
  have hrecord : q.tga.record = s.tga.record := congrArg Tga.record htga
  refine State.choose_congr s.unsourced ch hsmc htbm ⟨hfresh, hrecord⟩ ?_
  rw [State.unsourced_rec, State.unsourced_rec, htga]

end

/-! ### The stages -/

section
variable (s : State)

/-- RUN entered by the mode and the layout in force alone. -/
def State.started : State :=
  State.sends { s with
    smc := { s.smc with mode := .run }
    tbm := { s.tbm with inForce := s.tbm.layout } } [.notice .smc (.mod .run s.smc.mode s.ckt.cycles)]

/-- The outputs have entered, the responses are recomputed. -/
def State.staffed : State := s.started.vdrEnterRun.recompute

/-- The channels and the units have entered too. -/
def State.manned : State := s.staffed.phcEnterRun.lfsEnterRun

/-- The schedule and the capture unit have entered too. -/
def State.scheduled : State := s.manned.ascEnterRun.ceuEnterRun

theorem State.staffed_eq : s.staffed = s.started.vdrEnterRun.recompute := rfl

theorem State.manned_eq : s.manned = s.staffed.phcEnterRun.lfsEnterRun := rfl

theorem State.enterRun_eq : s.enterRun = s.scheduled.tgaEnterRun.updCkt Ckt.enterRun := rfl

theorem State.started_keeps : s.started.smc = { s.smc with mode := .run } ∧ s.started.now = s.now ∧
    s.started.tbm = { s.tbm with inForce := s.tbm.layout } ∧ s.started.ckt = s.ckt ∧ s.started.ceu = s.ceu ∧
    s.started.phc = s.phc ∧ s.started.tga = s.tga ∧ s.started.vdr = s.vdr ∧ s.started.lfs = s.lfs ∧
    s.started.fmg = s.fmg := ⟨rfl, rfl, rfl, rfl, rfl, rfl, rfl, rfl, rfl, rfl⟩

theorem State.staffed_keeps : s.staffed.smc = { s.smc with mode := .run } ∧ s.staffed.now = s.now ∧
    s.staffed.tbm = { s.tbm with inForce := s.tbm.layout } ∧ s.staffed.ckt = s.ckt ∧ s.staffed.ceu = s.ceu ∧
    s.staffed.phc = s.phc ∧ s.staffed.tga = s.tga ∧ s.staffed.vdr = s.started.vdrEnterRun.vdr ∧
    s.staffed.lfs = s.lfs ∧ s.staffed.fmg.table = s.fmg.table := by
  simp only [State.staffed, State.recompute_keeps, State.recompute_fmg, State.vdrEnterRun_keeps, State.started_keeps,
    and_self]

theorem State.ascEnterRun_asc (q : State) : q.ascEnterRun.asc = ⟨[], q.tbm.inForce.plan⟩ := rfl

theorem State.manned_keeps : s.manned.smc = s.staffed.smc ∧ s.manned.tbm = s.staffed.tbm ∧
    s.manned.ckt = s.staffed.ckt ∧ s.manned.ceu = s.staffed.ceu ∧ s.manned.phc = s.staffed.phcEnterRun.phc ∧
    s.manned.tga = s.staffed.tga ∧ s.manned.vdr = s.staffed.vdr ∧
    s.manned.fmg = s.staffed.fmg := by
  simp only [State.manned, State.lfsEnterRun_keeps, State.phcEnterRun_keeps, and_self]

theorem State.scheduled_keeps : s.scheduled.smc = s.staffed.smc ∧ s.scheduled.tbm = s.staffed.tbm ∧
    s.scheduled.ckt = s.staffed.ckt ∧ s.scheduled.asc = ⟨[], s.staffed.tbm.inForce.plan⟩ ∧
    s.scheduled.phc = s.staffed.phcEnterRun.phc ∧ s.scheduled.tga = s.staffed.tga ∧
    s.scheduled.vdr = s.staffed.vdr ∧ s.scheduled.lfs = s.manned.lfs ∧ s.scheduled.fmg = s.staffed.fmg := by
  simp only [State.scheduled, State.ceuEnterRun_keeps, State.ascEnterRun_keeps, State.ascEnterRun_asc,
    State.manned_keeps, and_self]

theorem State.updCkt_keeps (q : State) (f : Ckt → Ckt) : (q.updCkt f).smc = q.smc ∧ (q.updCkt f).tbm = q.tbm ∧
    (q.updCkt f).ckt = f q.ckt ∧ (q.updCkt f).asc = q.asc ∧ (q.updCkt f).ceu = q.ceu ∧ (q.updCkt f).phc = q.phc ∧
    (q.updCkt f).tga = q.tga ∧ (q.updCkt f).vdr = q.vdr ∧ (q.updCkt f).lfs = q.lfs ∧ (q.updCkt f).fmg = q.fmg ∧
    (q.updCkt f).handovers = q.handovers := ⟨rfl, rfl, rfl, rfl, rfl, rfl, rfl, rfl, rfl, rfl, rfl⟩

/-! ### The state once RUN is entered -/

theorem State.enterRun_smc : s.enterRun.smc = { s.smc with mode := .run } := by
  simp only [State.enterRun_eq, State.updCkt_keeps, State.tgaEnterRun_keeps, State.scheduled_keeps, State.staffed_keeps]

theorem State.enterRun_tbm : s.enterRun.tbm = { s.tbm with inForce := s.tbm.layout } := by
  simp only [State.enterRun_eq, State.updCkt_keeps, State.tgaEnterRun_keeps, State.scheduled_keeps, State.staffed_keeps]

theorem State.enterRun_asc : s.enterRun.asc = ⟨[], s.tbm.layout.plan⟩ := by
  simp only [State.enterRun_eq, State.updCkt_keeps, State.tgaEnterRun_keeps, State.scheduled_keeps, State.staffed_keeps]

theorem State.enterRun_ckt : s.enterRun.ckt = s.ckt.enterRun := by
  simp only [State.enterRun_eq, State.updCkt_keeps, State.tgaEnterRun_keeps, State.scheduled_keeps, State.staffed_keeps]

theorem State.enterRun_vdr : s.enterRun.vdr = s.started.vdrEnterRun.vdr := by
  simp only [State.enterRun_eq, State.updCkt_keeps, State.tgaEnterRun_keeps, State.scheduled_keeps, State.staffed_keeps]

theorem State.enterRun_fmg : s.enterRun.fmg = s.staffed.fmg := by
  simp only [State.enterRun_eq, State.updCkt_keeps, State.tgaEnterRun_keeps, State.scheduled_keeps]

theorem State.enterRun_lfs : s.enterRun.lfs = s.manned.lfs := by
  simp only [State.enterRun_eq, State.updCkt_keeps, State.tgaEnterRun_keeps, State.scheduled_keeps]

theorem State.enterRun_ceu : s.enterRun.ceu = s.scheduled.ceu := by
  simp only [State.enterRun_eq, State.updCkt_keeps, State.tgaEnterRun_keeps]

theorem State.enterRun_tga : s.enterRun.tga = s.scheduled.tgaEnterRun.tga := by
  simp only [State.enterRun_eq, State.updCkt_keeps]

theorem State.enterRun_phc : s.enterRun.phc = s.scheduled.zeroTargets.phc := by
  simp only [State.enterRun_eq, State.updCkt_keeps, State.tgaEnterRun_phc]

theorem State.enterRun_handovers : s.enterRun.handovers = s.scheduled.tgaEnterRun.handovers := by
  simp only [State.enterRun_eq, State.updCkt_keeps]

/-! ### What is on its way once RUN is entered -/

theorem State.staffed_adds : s.started.dropDrives.adds (fun h => h.quiet = true) s.staffed :=
  (State.vdrEnterRun_adds (s := s.started) rfl).trans (State.recompute_adds _)

theorem State.scheduled_adds : s.manned.adds (fun h => h.quiet = true) s.scheduled :=
  State.adds.trans (State.adds_of_eq s.manned.ascEnterRun_keeps.2.2.1) (State.ceuEnterRun_adds _)

theorem State.manned_adds : s.staffed.phcEnterRun.adds (fun h => h.quiet = true) s.manned := State.lfsEnterRun_adds _

theorem State.enterRun_adds_manned : s.manned.adds (fun h => h.quiet = true) s.enterRun := by
  obtain ⟨l, hl, hq⟩ := s.scheduled_adds.trans (State.tgaEnterRun_adds _)
  exact ⟨l, s.enterRun_handovers.trans hl, hq⟩

theorem State.enterRun_adds : s.staffed.phcEnterRun.adds (fun h => h.quiet = true) s.enterRun :=
  s.manned_adds.trans s.enterRun_adds_manned

theorem State.phcEnterRun_handovers (q : State) :
    q.phcEnterRun.handovers = q.handovers ++ allChans.flatMap q.entryNews := by
  rw [State.phcEnterRun_eq]
  rfl

theorem State.staffed_entryNews : s.staffed.entryNews = s.started.entryNews := by
  obtain ⟨-, -, htbm, hckt, -, hphc, -, -, -, htable⟩ := s.staffed_keeps
  exact State.entryNews_congr htbm (congrArg Ckt.cycles hckt) hphc htable

theorem State.entryNews_mem_enterRun {ch : Chan} {h : Handover} (hm : h ∈ s.started.entryNews ch) :
    h ∈ s.enterRun.handovers := by
  rw [← State.staffed_entryNews] at hm
  refine s.enterRun_adds.mem ?_
  rw [State.phcEnterRun_handovers]
  exact List.mem_append_right _ (List.mem_flatMap.mpr ⟨ch, mem_allChans ch, hm⟩)

theorem State.modeNotice_mem_enterRun :
    .notice .smc (.mod .run s.smc.mode s.ckt.cycles) ∈ s.enterRun.handovers := by
  refine s.enterRun_adds.mem ?_
  rw [State.phcEnterRun_handovers]
  refine List.mem_append_left _ (s.staffed_adds.mem (State.mem_dropDrives_of ?_ fun _ => rfl))
  exact List.mem_append_right _ (List.mem_singleton.mpr rfl)

/-- What drives an output, or tells of a channel's change, is of a channel's RUN entry, or told before. -/
theorem State.mem_enterRun_of_not_quiet {h : Handover} (hq : h.quiet = false) (hm : h ∈ s.enterRun.handovers) :
    (h ∈ s.handovers ∧ ∀ out, h.drives out = false) ∨ ∃ ch, h ∈ s.started.entryNews ch := by
  rw [← State.staffed_entryNews]
  have hloud {p : Prop} (hp : p ∨ h.quiet = true) : p := hp.resolve_right fun ht => Bool.noConfusion (hq.symm.trans ht)
  have hphc := hloud (s.enterRun_adds.cases hm)
  rw [State.phcEnterRun_handovers, List.mem_append, List.mem_flatMap] at hphc
  rcases hphc with hphc | ⟨ch, -, hnews⟩
  · have hdropped := hloud (s.staffed_adds.cases hphc)
    refine .inl ⟨?_, fun out => Bool.eq_false_iff.mpr fun hd => State.drive_not_mem_dropDrives hd hdropped⟩
    rcases List.mem_append.mp (State.mem_dropDrives hdropped) with hold | hnotice
    · exact hold
    · rw [List.mem_singleton.mp hnotice] at hq
      exact Bool.noConfusion hq
  · exact .inr ⟨ch, hnews⟩

/-! ### The blocks once RUN is entered -/

theorem State.enterRun_chan (ch : Chan) : s.enterRun.phc.chans.get ch =
    { s.started.entryRec ch (s.started.enteredState ch) with presented := 0 } := by
  obtain ⟨-, -, htbm, -, -, hphc, -, -, -, htable⟩ := s.staffed_keeps
  obtain ⟨-, -, hrec, hstate⟩ := State.entered_congr (s := s.started) htbm hphc htable
  have hget (q : State) (c : Chan) : q.zeroTargets.phc.chans.get c = { q.phc.chans.get c with presented := 0 } :=
    PerChan.get_map _ _ _
  have hentered (q : State) : q.phcEnterRun.phc.chans.get ch = q.entryRec ch (q.enteredState ch) := by
    rw [State.phcEnterRun_eq]
    exact PerChan.get_map _ _ _
  rw [State.enterRun_phc, hget, s.scheduled_keeps.2.2.2.2.1, hentered, hrec, hstate]

theorem State.enterRun_phcRest : s.enterRun.phc.lowOilRun = 0 ∧ s.enterRun.phc.oilReported = s.phc.oilReported := by
  have hzero (q : State) : q.zeroTargets.phc.lowOilRun = q.phc.lowOilRun ∧
      q.zeroTargets.phc.oilReported = q.phc.oilReported := ⟨rfl, rfl⟩
  have hentered (q : State) : q.phcEnterRun.phc.lowOilRun = 0 ∧ q.phcEnterRun.phc.oilReported = q.phc.oilReported := by
    rw [State.phcEnterRun_eq]
    exact ⟨rfl, rfl⟩
  simp only [State.enterRun_phc, hzero, s.scheduled_keeps, hentered, s.staffed_keeps, and_self]

theorem State.manned_units : (∀ u, s.manned.lfs.units.get u = s.started.enteredUnit u) ∧
    s.staffed.phcEnterRun.lfs = s.lfs ∧
    s.staffed.phcEnterRun.enteredUnit = s.started.enteredUnit ∧
    s.staffed.phcEnterRun.unitEntryNews = s.started.unitEntryNews := by
  obtain ⟨-, -, htbm, hckt, -, -, -, -, hlfs, htable⟩ := s.staffed_keeps
  obtain ⟨-, -, -, -, htbm', hckt', -, -, -, -, hlfs', hfmg', -⟩ := s.staffed.phcEnterRun_keeps
  have htbm := htbm'.trans htbm
  have hlfs := hlfs'.trans hlfs
  have htable := (congrArg Fmg.table hfmg').trans htable
  have hunit := (State.enteredUnit_congr (s := s.started) htbm hlfs htable).2.2.2.2
  refine ⟨fun u => ?_, hlfs, hunit,
    State.unitEntryNews_congr (s := s.started) htbm (congrArg Ckt.cycles (hckt'.trans hckt)) hlfs htable⟩
  rw [State.manned_eq, State.lfsEnterRun_unit, hunit]

theorem State.enterRun_unit (u : LiftUnit) : s.enterRun.lfs.units.get u = s.started.enteredUnit u := by
  rw [State.enterRun_lfs]
  exact s.manned_units.1 u

theorem State.unitEntryNews_mem_enterRun {u : LiftUnit} {h : Handover} (hm : h ∈ s.started.unitEntryNews u) :
    h ∈ s.enterRun.handovers := by
  rw [← s.manned_units.2.2.2] at hm
  exact s.enterRun_adds_manned.mem (State.lfsEnterRun_sends _ hm)

theorem State.enterRun_lfsRest : s.enterRun.lfs.request = false ∧ s.enterRun.lfs.pair = none ∧
    s.enterRun.lfs.senses = s.lfs.senses := by
  have h := State.lfsEnterRun_rest s.staffed.phcEnterRun
  rw [s.manned_units.2.1, ← State.manned_eq, ← State.enterRun_lfs] at h
  exact h

theorem State.enterRun_mismatch :
    let agree := s.lfs.mismatchReported = true ∧ (s.enterRun.lfs.units.get .L1).state =
      (s.enterRun.lfs.units.get .L2).state ∧
      ((s.enterRun.lfs.units.get .L1).state = .high ∨ (s.enterRun.lfs.units.get .L1).state = .low)
    (agree → s.enterRun.lfs.mismatchReported = false ∧ .report .lfs .liftMismatch .gone ∈ s.enterRun.handovers) ∧
    (¬ agree → s.enterRun.lfs.mismatchReported = s.lfs.mismatchReported) := by
  have h := State.lfsEnterRun_mismatch s.staffed.phcEnterRun
  obtain ⟨-, hlfs, hunit, -⟩ := s.manned_units
  rw [hlfs, hunit, ← State.manned_eq, ← State.enterRun_lfs] at h
  intro agree
  obtain ⟨hyes, hno⟩ := h
  simp only [agree, State.enterRun_unit]
  exact ⟨fun ha => ⟨(hyes ha).1, s.enterRun_adds_manned.mem (hyes ha).2⟩, hno⟩

theorem State.enterRun_ceuChan (ch : Chan) : s.enterRun.ceu.chans.get ch = s.started.ceuEntryRec ch ∧
    ∀ h ∈ s.started.ceuEntryNews ch, h ∈ s.enterRun.handovers := by
  obtain ⟨-, -, htbm, -, hceu, -⟩ := s.staffed_keeps
  obtain ⟨-, htbm', -, hceu', -⟩ := s.manned_keeps
  obtain ⟨-, -, -, -, -, htbm'', -, hceu'', -⟩ := s.manned.ascEnterRun_keeps
  obtain ⟨hrec, hnews⟩ := State.ceuEntry_congr (s := s.started) (htbm''.trans (htbm'.trans htbm))
    (hceu''.trans (hceu'.trans hceu))
  obtain ⟨hchan, hsent⟩ := State.ceuEnterRun_chan s.manned.ascEnterRun ch
  rw [hrec] at hchan
  rw [hnews] at hsent
  rw [State.enterRun_ceu, State.enterRun_handovers]
  exact ⟨hchan, fun h hm => (State.tgaEnterRun_adds _).mem (hsent h hm)⟩

theorem State.enterRun_ceuRest : s.enterRun.ceu.matching = false ∧ s.enterRun.ceu.partialCycle = false ∧
    s.enterRun.ceu.refSeen = false ∧ s.enterRun.ceu.reportSent = false := by
  rw [State.enterRun_ceu]
  exact State.ceuEnterRun_rest _

theorem State.scheduled_tga : s.scheduled.tga = s.tga ∧ s.scheduled.entryChoice = s.started.entryChoice := by
  obtain ⟨hsmc, -, htbm, -, -, -, htga, -⟩ := s.staffed_keeps
  obtain ⟨hsmc', htbm', -, -, -, htga', -⟩ := s.scheduled_keeps
  exact ⟨htga'.trans htga,
    State.entryChoice_congr (s := s.started) (htbm'.trans htbm) (hsmc'.trans hsmc) (htga'.trans htga)⟩

theorem State.enterRun_tgaRest : s.enterRun.tga = { s.tga with chans := s.enterRun.tga.chans } := by
  have h := State.tgaEnterRun_rest s.scheduled
  rw [s.scheduled_tga.1] at h
  rw [State.enterRun_tga]
  exact h

theorem State.enterRun_tgaChan (ch : Chan) : s.enterRun.tga.chans.get ch = { s.tga.chans.get ch with
    source := (s.started.entryChoice ch).1, output := (s.started.entryChoice ch).2, mapOutput := none } := by
  rw [State.enterRun_tga, State.tgaEnterRun_chan, s.scheduled_tga.1, s.scheduled_tga.2]

theorem State.enterRun_source {ch : Chan} (h : (s.started.entryChoice ch).1 ≠ .park) :
    .phcSource ch (s.started.entryChoice ch).1 ∈ s.enterRun.handovers := by
  rw [← s.scheduled_tga.2] at h ⊢
  rw [State.enterRun_handovers]
  exact State.tgaEnterRun_source _ h

theorem State.enterRun_ocv (o : LineABCD) : (s.vdr.ocv.get o).enters (s.enterRun.ownerOcv o) (s.tbm.layout.pwm.get o)
    (∃ ch, s.enterRun.ownerOcv o = some ch ∧ (s.phc.chans.get ch).state ≠ .faulted ∧
      (s.phc.chans.get ch).state ≠ .lockout) (BitVec.ofNat 32 s.now) (s.enterRun.vdr.ocv.get o) := by
  rw [State.enterRun_vdr, State.ownerOcv_congr (s := s.started) s.enterRun_tbm]
  exact State.vdrEnterRun_ocv (s := s.started) rfl o

theorem State.enterRun_ls (o : LineAB) : (s.vdr.ls.get o).enters (s.enterRun.ownerLs o)
    (∃ u, s.enterRun.ownerLs o = some u ∧ (s.lfs.units.get u).state ≠ .stuck) (s.enterRun.vdr.ls.get o) := by
  rw [State.enterRun_vdr, State.ownerLs_congr (s := s.started) s.enterRun_tbm]
  exact State.vdrEnterRun_ls (s := s.started) rfl o

theorem State.enterRun_responses : s.enterRun.fmg.table = s.fmg.table ∧
    ∀ ch, s.enterRun.fmg.chanResponse.get ch = s.enterRun.chanResponseNow ch := by
  have hnow : s.enterRun.chanResponseNow = s.started.vdrEnterRun.chanResponseNow := by
    refine State.chanResponseNow_congr ?_ ?_ s.enterRun_vdr
    · rw [State.enterRun_tbm]
      simp only [State.vdrEnterRun_keeps, State.started_keeps]
    · rw [State.enterRun_fmg, s.staffed_keeps.2.2.2.2.2.2.2.2.2]
      simp only [State.vdrEnterRun_keeps, State.started_keeps]
  have hset := (State.recompute_fmg s.started.vdrEnterRun).2
  rw [← State.staffed_eq, ← State.enterRun_fmg] at hset
  rw [hnow]
  refine ⟨?_, hset⟩
  rw [State.enterRun_fmg]
  exact s.staffed_keeps.2.2.2.2.2.2.2.2.2

end

end Sys2Proof.Machine
end

section
/-! Proofs about MODE RUN accepted (R42, R74, R108, R121, R124, R175), block by block. -/

namespace Sys2Proof.Machine

/-! ### The channels -/

section
variable {s : State} {ch : Chan}

theorem State.enteredState_of_lockout (h : (s.phc.chans.get ch).state = .lockout) : s.enteredState ch = .lockout := by
  have hstate : s.entryState ch = .lockout := if_pos h
  unfold State.enteredState
  rw [hstate]
  exact if_neg fun hp => ChanState.noConfusion hp.1

theorem State.entryState_of_bound (h : (s.phc.chans.get ch).state ≠ .lockout) (hb : s.chanBound ch = true) :
    s.entryState ch = .parked := (if_neg h).trans (if_pos hb)

theorem State.enteredState_of_unbound (h : (s.phc.chans.get ch).state ≠ .lockout) (hb : s.chanBound ch = false) :
    s.enteredState ch = .unused := by
  have hstate : s.entryState ch = .unused := (if_neg h).trans (if_neg (by simp [hb]))
  unfold State.enteredState
  rw [hstate]
  exact if_neg fun hp => ChanState.noConfusion hp.1

theorem State.enteredState_of_held (h : (s.phc.chans.get ch).state ≠ .lockout) (hb : s.chanBound ch = true)
    (hd : s.driverHeld ch) : s.enteredState ch = .faulted :=
  if_pos ⟨State.entryState_of_bound h hb, (s.heldAtEntry_iff ch).mpr hd⟩

theorem State.enteredState_of_not_held (h : (s.phc.chans.get ch).state ≠ .lockout) (hb : s.chanBound ch = true)
    (hd : ¬ s.driverHeld ch) : s.enteredState ch = .parked :=
  (if_neg fun hp => hd ((s.heldAtEntry_iff ch).mp hp.2)).trans (State.entryState_of_bound h hb)

theorem State.enteredState_faulted_iff :
    s.enteredState ch = .faulted ↔ s.entryState ch = .parked ∧ s.heldAtEntry ch = true := by
  refine ⟨fun h => ?_, fun h => if_pos h⟩
  by_contra hn
  have hstate : s.entryState ch = .faulted := (if_neg hn).symm.trans h
  unfold State.entryState at hstate
  split_ifs at hstate

/-- A bound channel's driver is held, by the layout's own words. -/
theorem State.driverHeld_iff (hb : s.chanBound ch = true) : s.driverHeld ch ↔
    ∃ o, (s.tbm.inForce.bind.get ch).driver = some o ∧
      ((s.fault (.driverShort (.ocv o))).held = true ∨ (s.fault (.driverOpen (.ocv o))).held = true) := by
  have hdriver : s.chanDriver ch = (s.tbm.inForce.bind.get ch).driver := if_pos hb
  unfold State.driverHeld
  rw [hdriver]

theorem State.driver_of_chanDriver {o : LineABCD} (h : s.chanDriver ch = some o) :
    (s.tbm.inForce.bind.get ch).driver = some o := by
  unfold State.chanDriver at h
  split at h
  · exact h
  · cases h

theorem State.mem_entryNews_of_changed (h : s.entryState ch ≠ (s.phc.chans.get ch).state) :
    ∀ x ∈ s.chanNews ch (s.entryState ch) (s.phc.chans.get ch).state .run none, x ∈ s.entryNews ch := by
  intro x hx
  refine List.mem_append_left _ ?_
  rw [if_neg h]
  exact hx

theorem State.mem_entryNews_of_faulted (h : s.enteredState ch = .faulted) :
    ∀ x ∈ s.dutyNews ch 0 true ++ s.chanNews ch .faulted .parked .driver none, x ∈ s.entryNews ch := by
  intro x hx
  refine List.mem_append_right _ ?_
  rw [if_pos (State.enteredState_faulted_iff.mp h)]
  exact hx

end

section
variable (s : State)

theorem State.enterRun_news : s.enterRun.chanNews = s.started.chanNews ∧ s.enterRun.dutyNews = s.started.dutyNews ∧
    s.enterRun.liftNews = s.started.liftNews := by
  have htbm : s.enterRun.tbm = s.started.tbm := s.enterRun_tbm
  have hcycles : s.enterRun.ckt.cycles = s.started.ckt.cycles := by
    rw [State.enterRun_ckt]
    rfl
  exact ⟨State.chanNews_congr htbm hcycles, State.dutyNews_congr htbm, State.liftNews_congr htbm hcycles⟩

/-- A channel's change of state with cause RUN is told where the state its entry takes is a new one. -/
theorem State.chs_mem_enterRun {ch : Chan} (h : s.started.entryState ch = (s.phc.chans.get ch).state) {a b : ChanState}
    {holds : Option HoldCauses} {n : Word32} (hm : .notice .phc (.chs ch a b .run holds n) ∈ s.enterRun.handovers) :
    .notice .phc (.chs ch a b .run holds n) ∈ s.handovers := by
  rcases s.mem_enterRun_of_not_quiet rfl hm with ⟨hold, -⟩ | ⟨c, hnews⟩
  · exact hold
  · obtain ⟨rfl, hne⟩ := State.chs_mem_entryNews hnews
    exact absurd h hne

theorem State.dutyWrite_mem_enterRun {o : LineABCD} {d : Nat} {i : Bool} (hm : .dutyWrite o d i ∈ s.enterRun.handovers) :
    d = 0 ∧ i = true ∧ ∃ ch, (s.tbm.layout.bind.get ch).driver = some o ∧ s.started.enteredState ch = .faulted := by
  rcases s.mem_enterRun_of_not_quiet rfl hm with ⟨-, hdrives⟩ | ⟨ch, hnews⟩
  · have hdrive : (Handover.dutyWrite o d i).drives (.ocv o) = true := beq_self_eq_true (Out.ocv o)
    exact Bool.noConfusion ((hdrives (.ocv o)).symm.trans hdrive)
  · obtain ⟨hd, hi, ho, hf⟩ := State.dutyWrite_mem_entryNews hnews
    exact ⟨hd, hi, ch, State.driver_of_chanDriver ho, hf⟩

theorem State.solenoid_not_mem_enterRun (o : LineAB) (on : Bool) : .solenoid o on ∉ s.enterRun.handovers := by
  intro hm
  rcases s.mem_enterRun_of_not_quiet rfl hm with ⟨-, hdrives⟩ | ⟨ch, hnews⟩
  · have hdrive : (Handover.solenoid o on).drives (.ls o) = true := beq_self_eq_true (Out.ls o)
    exact Bool.noConfusion ((hdrives (.ls o)).symm.trans hdrive)
  · exact State.solenoid_not_mem_entryNews o on hnews

end

/-! ### The units -/

section
variable {s : State} {u : LiftUnit}

/-- A bound unit is stuck at RUN entry, by the records of faults. -/
theorem State.stuckAtEntry_iff (hb : s.unitBound u = true) : (s.noConfirmHeld u = true ∨ s.lsFaulted u = true) ↔
    (s.fault (.liftNoConfirm u)).held = true ∨ ∃ o, (s.tbm.inForce.lift.get u).driver = some o ∧
      ((s.fault (.driverShort (.ls o))).held = true ∨ (s.fault (.driverOpen (.ls o))).held = true) := by
  refine or_congr Iff.rfl ?_
  have hdriver : s.unitDriver u = (s.tbm.inForce.lift.get u).driver := if_pos hb
  unfold State.lsFaulted
  rw [hdriver]
  cases (s.tbm.inForce.lift.get u).driver with
  | none => simp
  | some o =>
    simp only [Bool.or_eq_true, Option.some.injEq, exists_eq_left']
    exact Iff.rfl

theorem State.enteredUnit_common : (s.enteredUnit u).claim = false ∧ (s.enteredUnit u).attempts = 0 ∧
    (s.enteredUnit u).travel = none ∧ (s.enteredUnit u).test = none ∧ (s.enteredUnit u).posTally = 0 ∧
    (s.enteredUnit u).posReported = (s.unitBound u && (s.lfs.units.get u).posReported) := by
  unfold State.enteredUnit
  cases s.unitBound u <;> exact ⟨rfl, rfl, rfl, rfl, rfl, rfl⟩

theorem State.enteredUnit_of_unbound (hb : s.unitBound u = false) : (s.enteredUnit u).state = .low ∧
    ((s.lfs.units.get u).posReported = true → .report .lfs (.liftPosition u) .gone ∈ s.unitEntryNews u) := by
  have hno : ¬ s.unitBound u = true := by simp [hb]
  unfold State.enteredUnit State.unitEntryNews
  rw [if_neg hno, if_neg hno]
  refine ⟨rfl, fun hr => ?_⟩
  rw [if_pos hr]
  exact List.mem_singleton.mpr rfl

theorem State.enteredUnit_of_bound (hb : s.unitBound u = true) : (s.enteredUnit u).state = s.unitEntryState u :=
  congrArg UnitRec.state (if_pos hb)

theorem State.mem_unitEntryNews_of_bound (hb : s.unitBound u = true) :
    (∀ h ∈ s.liftNews u (settledAt (s.senseHigh u)) (s.lfs.units.get u).state .run, h ∈ s.unitEntryNews u) ∧
    (s.noConfirmHeld u = true ∨ s.lsFaulted u = true →
      ∀ h ∈ s.liftNews u .stuck (settledAt (s.senseHigh u)) (if s.noConfirmHeld u = true then .noConfirm else .driver),
        h ∈ s.unitEntryNews u) := by
  unfold State.unitEntryNews
  rw [if_pos hb]
  refine ⟨fun h hm => List.mem_append_left _ hm, fun hs h hm => List.mem_append_right _ ?_⟩
  by_cases hn : s.noConfirmHeld u = true
  · rw [if_pos hn] at hm ⊢
    exact hm
  · rw [if_neg hn] at hm ⊢
    rw [if_pos (hs.resolve_left hn)]
    exact hm

/-- The sense that a unit settles by. -/
theorem State.settledAt_sense {n : LineAB} (h : (s.tbm.layout.lift.get u).sense = some n) :
    settledAt (s.senseHigh u) = if (s.lfs.senses.get n).high then .high else .low := by
  unfold State.senseHigh
  rw [h]
  rfl

end

/-! ### The capture unit and the arbiter -/

section
variable {s : State} {ch : Chan}

theorem State.ceuEntryRec_of_bound (hb : s.chanBound ch = true) : s.ceuEntryRec ch = { CeuChan.reset with
    phase := (s.ceu.chans.get ch).phase, valid := (s.ceu.chans.get ch).valid
    missingReported := (s.ceu.chans.get ch).missingReported
    patternReported := (s.ceu.chans.get ch).patternReported } := if_pos hb

theorem State.ceuEntry_of_unbound (hb : s.chanBound ch = false) :
    s.ceuEntryRec ch = { CeuChan.reset with phase := (s.ceu.chans.get ch).phase } ∧
    ((s.ceu.chans.get ch).missingReported = true → .report .ceu (.camMissing ch) .gone ∈ s.ceuEntryNews ch) ∧
    ((s.ceu.chans.get ch).patternReported = true → .report .ceu (.camPattern ch) .gone ∈ s.ceuEntryNews ch) := by
  have hno : ¬ s.chanBound ch = true := by simp [hb]
  unfold State.ceuEntryRec State.ceuEntryNews
  rw [if_neg hno, if_neg hno]
  refine ⟨rfl, fun hr => List.mem_append_left _ ?_, fun hr => List.mem_append_right _ ?_⟩
  · rw [if_pos hr]
    exact List.mem_singleton.mpr rfl
  · rw [if_pos hr]
    exact List.mem_singleton.mpr rfl

theorem State.entryChoice_of_none (h : ¬ s.targetOpen ch ∨ s.hostTarget ch = none) : s.entryChoice ch = (.park, 0) := by
  by_cases ho : s.targetOpen ch
  · exact s.entryChoice_of_nothing ho (h.resolve_left (not_not_intro ho))
  · exact s.entryChoice_of_closed ho

end

/-- The plan's entries, by what the layout binds (R42). -/
theorem Layout.mem_plan_iff (l : Layout) (p : PlanEntry) : p ∈ l.plan ↔ p = ⟨0, .cycleStart, none⟩ ∨
    (∃ ch c k e, (l.bind.get ch).bound = true ∧ l.cam.get ch = some c ∧ (l.edges.get ch)[k]? = some e ∧
      p = ⟨c.windowEnd e.angle, .edgeClose ch (k + 1), none⟩) ∨
    ∃ u, (l.lift.get u).bound = true ∧ p ∈ l.unitPlan u := by
  simp only [l.mem_plan, l.mem_chanPlan, exists_and_left]

theorem Layout.liftCycleAngle_eq (l : Layout) (u : LiftUnit) (a : Nat) :
    l.liftCycleAngle u a = (a + if u = .L2 then l.cyl.getD 0 else 0) % 11520 := by
  cases u <;> rfl

/-! ### The obligation -/

/-- Settles O13: RUN entered from the layout just validated, block by block. -/
theorem modeRunEntersRun : Obligations.ModeRunEntersRun := by
  intro s t hb hm hv
  have he : exec (.modeRun [.word .RUN]) s = .next (t.doModeRun [.word .RUN]) :=
    exec_modeRun_of_begins hb (by simp)
  obtain ⟨-, rfl⟩ := hb
  refine ⟨_, he.trans (congrArg Host.Outcome.next (State.doModeRun_of_valid (s := s.begun .MODE) hm hv)), ?_⟩
  generalize hd : (s.begun .MODE).dropValidation = d
  have hsmc := d.enterRun_smc
  obtain ⟨-, hnow, hclp, htrb, hcst, -⟩ := d.enterRun_keeps
  have htbm := d.enterRun_tbm
  have hasc := d.enterRun_asc
  have hckt := d.enterRun_ckt
  have hocv := d.enterRun_ocv
  have hls := d.enterRun_ls
  obtain ⟨hoil, hreported⟩ := d.enterRun_phcRest
  have hchan := d.enterRun_chan
  obtain ⟨hchanNews, hdutyNews, hliftNews⟩ := d.enterRun_news
  have hentry (ch : Chan) (h : Handover) := d.entryNews_mem_enterRun (ch := ch) (h := h)
  have hchs (ch : Chan) := d.chs_mem_enterRun (ch := ch)
  have hunit := d.enterRun_unit
  have hunitEntry (u : LiftUnit) (h : Handover) := d.unitEntryNews_mem_enterRun (u := u) (h := h)
  obtain ⟨hrequest, hpair, hsenses⟩ := d.enterRun_lfsRest
  have hmismatch := d.enterRun_mismatch
  obtain ⟨hmatching, hpartial, hseen, hsent⟩ := d.enterRun_ceuRest
  have hceu := d.enterRun_ceuChan
  have htga := d.enterRun_tgaRest
  have htgaChan := d.enterRun_tgaChan
  have hsource (ch : Chan) := d.enterRun_source (ch := ch)
  obtain ⟨htable, hresponse⟩ := d.enterRun_responses
  have hnotice := d.modeNotice_mem_enterRun
  have hduty (o : LineABCD) (x : Nat) (i : Bool) := d.dutyWrite_mem_enterRun (o := o) (d := x) (i := i)
  have hsolenoid := d.solenoid_not_mem_enterRun
  generalize d.enterRun = q at *
  subst hd
  let r : State := State.started (s.begun .MODE).dropValidation
  have hstate (ch : Chan) : (q.phc.chans.get ch).state = r.enteredState ch := congrArg ChanRec.state (hchan ch)
  refine ⟨hsmc, hnow, htbm, congrArg (fun c => c.answer (.kw .MODE) .ok []) hclp, congrArg Asc.entries hasc, ?_, ?_, hckt,
    hocv, hls, hoil, hreported, fun ch => ?_, fun u => ?_, hrequest, hpair, hsenses, hmismatch, hmatching, hpartial,
    hseen, hsent, fun ch => ?_, htga, fun ch => ?_, htable, hresponse, htrb, hcst, ?_, ?_, hsolenoid⟩
  · rw [show (q.answer .MODE .ok).asc = q.asc from rfl, hasc]
    exact Layout.plan_kinds_nodup _
  · intro p
    rw [show (q.answer .MODE .ok).asc = q.asc from rfl, hasc]
    refine (Layout.mem_plan_iff _ p).trans (or_congr_right (or_congr_right (exists_congr fun u => ?_)))
    simp only [Layout.unitPlan, Layout.liftCycleAngle_eq, List.mem_cons, List.not_mem_nil, or_false]
    exact Iff.rfl
  · rw [show (q.answer .MODE .ok).phc.chans.get ch = _ from hchan ch,
      show (q.answer .MODE .ok).chanNews = r.chanNews from hchanNews,
      show (q.answer .MODE .ok).dutyNews = r.dutyNews from hdutyNews]
    refine ⟨rfl, rfl, rfl, rfl, rfl, rfl, rfl, rfl, rfl, rfl, fun ho => State.enteredState_of_lockout (s := r) ho,
      fun ho hb => State.enteredState_of_unbound (s := r) ho hb,
      fun ho hb hd => State.enteredState_of_held (s := r) ho hb ((State.driverHeld_iff (s := r) hb).mpr hd),
      fun ho hb hd => State.enteredState_of_not_held (s := r) ho hb (mt (State.driverHeld_iff (s := r) hb).mp hd),
      fun hne h hm => hentry ch h (State.mem_entryNews_of_changed (s := r) hne h hm),
      fun hsame a b holds n hm => ?_,
      fun hf h hm => hentry ch h (State.mem_entryNews_of_faulted (s := r) hf h hm)⟩
    exact hchs ch hsame hm
  · rw [show (q.answer .MODE .ok).lfs.units.get u = _ from hunit u,
      show (q.answer .MODE .ok).liftNews = r.liftNews from hliftNews]
    obtain ⟨hclaim, hattempts, htravel, htest, htally, hpos⟩ := State.enteredUnit_common (s := r) (u := u)
    refine ⟨hclaim, hattempts, htravel, htest, htally, hpos,
      fun hb hgone => hunitEntry u _ ((State.enteredUnit_of_unbound (s := r) hb).2 hgone),
      fun hb => (State.enteredUnit_of_unbound (s := r) hb).1, fun hb hs => ?_, fun n hb hn => ?_⟩
    · exact (State.enteredUnit_of_bound (s := r) hb).trans (if_pos ((State.stuckAtEntry_iff (s := r) hb).mpr hs))
    · obtain ⟨hrun, hstuck⟩ := State.mem_unitEntryNews_of_bound (s := r) hb
      have hsense := State.settledAt_sense (s := r) hn
      rw [hsense] at hrun hstuck
      refine ⟨fun hs => ?_, fun h hm => hunitEntry u h (hrun h hm), fun hs h hm =>
        hunitEntry u h (hstuck ((State.stuckAtEntry_iff (s := r) hb).mpr hs) h hm)⟩
      exact (State.enteredUnit_of_bound (s := r) hb).trans
        ((if_neg (mt (State.stuckAtEntry_iff (s := r) hb).mp hs)).trans hsense)
  · obtain ⟨hrec, hgone⟩ := hceu ch
    refine ⟨fun hb => hrec.trans (State.ceuEntryRec_of_bound (s := r) hb), fun hb => ?_⟩
    obtain ⟨hreset, hmissing, hpattern⟩ := State.ceuEntry_of_unbound (s := r) hb
    exact ⟨hrec.trans hreset, fun hf => hgone _ (hmissing hf), fun hf => hgone _ (hpattern hf)⟩
  · have hopen : (s.tbm.layout.bind.get ch).bound = true ∧ (s.tga.chans.get ch).response ≠ .park ∧
        s.tga.fresh = .fresh ↔ r.targetOpen ch := (and_iff_right rfl).symm
    have htarget : r.hostTarget ch = s.tga.record.bind fun o => o.targets.get ch := rfl
    rw [show (q.answer .MODE .ok).tga.chans.get ch = _ from htgaChan ch]
    refine ⟨rfl, rfl, fun o n c hmay ho hn hc => ?_, fun hno => ?_⟩
    · rw [ho] at htarget
      have hchoice : r.entryChoice ch = (.host, min n c.range) := by
        rw [r.entryChoice_of_host (hopen.mp hmay) (htarget.trans hn), State.chanRange_of_some (s := r) hc]
      have hsent : (r.entryChoice ch).1 ≠ .park → .phcSource ch (r.entryChoice ch).1 ∈ q.handovers := hsource ch
      rw [hchoice] at hsent
      exact ⟨congrArg Prod.fst hchoice, congrArg Prod.snd hchoice, hsent nofun⟩
    · have hchoice : r.entryChoice ch = (.park, 0) := by
        refine State.entryChoice_of_none (hno.imp (mt hopen.mpr) fun hnone => ?_)
        rw [htarget]
        cases ho : s.tga.record with
        | none => rfl
        | some o => exact hnone o ho
      exact ⟨congrArg Prod.fst hchoice, congrArg Prod.snd hchoice⟩
  · rw [← hm]
    exact hnotice
  · intro o x i hmem
    obtain ⟨hx, hi, ch, ho, hf⟩ := hduty o x i hmem
    exact ⟨hx, hi, ch, ho, (hstate ch).trans hf⟩

end Sys2Proof.Machine
end
